-- ==== Sys2Proof/Word.lean ====
section
/-!
DEFINITION. The number a trit string stands for.

A balanced-ternary word is carried as the integer it denotes (R8, R16, R63): the manual's own
pseudocode computes on unbounded integers and fits a result to its field afterwards.
-/
namespace Sys2Proof

/-- The value of a trit string, of any width (R8). -/
abbrev Word := Int

/-- `half n` is `(3^n - 1)/2`, the largest value of `n` trits (R10, R63). -/
def half (n : Nat) : Int := ((3 ^ n - 1) / 2 : Nat)

end Sys2Proof
end

