-- ==== Sys2Proof/Config.lean ====
section
/-!
DEFINITION. What one module fixes: the figures of R3, the configuration record of R430, and the
free values, which the manual leaves open and which therefore have no body.
-/
namespace Sys2Proof

/-- The signed configuration record (R430), field by field, each a little-endian number (R88). Lists run over
dies 0 to 7. -/
structure ConfigRecord where
  magic : Nat
  rollback : Nat
  serial : Nat
  cores : List Nat
  slices : List Nat
  reserve : List Nat
  routing : Nat
  reserved : Nat
  captureArea : Nat
  shares : List Nat
  ownerDigest : Nat
  signatures : List Nat
  deriving DecidableEq, Repr, Inhabited

/-- What an entry of the capture log holds (R437): a page's contents, a command as fetched, a launch record, a code
load, bytes that a lane of an ldh or an element of a cpt or COPY read, a halt's summary record. -/
inductive CapKind where
  | page | command | record | code | lane | element | halt
  deriving DecidableEq, Repr, Inhabited

/-- An entry of the capture log: its kind, the queue, lane or element that it belongs to, and its bytes. -/
structure Captured where
  kind : CapKind
  index : Nat
  bytes : List Nat
  deriving DecidableEq, Repr, Inhabited

namespace Config

/-- Figures of the table of R3. -/
def dies : Nat := 8
def coresPerDie : Nat := 64
def clustersPerDie : Nat := 16
def lanes : Nat := 32
def scratchWords : Nat := 177147
def strandSlots : Nat := 1024
def granules : Nat := 2916
def granuleWords : Nat := 9
def tileStore : Nat := 81
def tileCols : Nat := 27
def vregs : Nat := 243
def sregs : Nat := 81
/-- Lines of one slice's two channels (R363). -/
def sliceLines : Nat := 25000000
/-- First line of the second tier (R363): `3^21`. -/
def secondTier : Nat := 10460353203
/-- Lines of the whole second tier: 1.5 TB in 160-byte spans (R364). -/
def secondTierLines : Nat := 9375000000
/-- Reference cycles in one microsecond at 4.0 GHz (R6, R355). -/
def usCycles : Nat := 4000
/-- The skid bound of R321, in cycles. -/
def skid : Nat := 12000
/-- The last cycle of a halt at which a core issues (R321). -/
def lastIssue : Nat := 27
/-- The hang bound of R337, in cycles. -/
def hang : Nat := 59049
/-- The operation watchdog of R320, in cycles. -/
def opWatchdog : Nat := 1594323
/-- Cycles to write or read a context image (R332): 20 microseconds. -/
def imageCycles : Nat := 80000
/-- Bindings of a context and regions of an object (R107). -/
def bindingEntries : Nat := 729
def bindingsPerObject : Nat := 8
/-- Lines a core may pin (R246). -/
def pinLimit : Nat := 81
/-- Ways and sets of the first-level data cache (R359). -/
def dcacheWays : Nat := 9
def dcacheSets : Nat := 81
/-- Ways and sets of the instruction cache (R359) and of the first-level TLB; entries of the second-level one
(R372). -/
def icacheWays : Nat := 9
def icacheSets : Nat := 27
def tlbWays : Nat := 9
def tlbSets : Nat := 81
def clusterTlb : Nat := 6561
/-- Ways and sets of a slice (R361). -/
def sliceWays : Nat := 27
def sliceSets : Nat := 729
/-- Messages that a message unit's receive buffer holds (R386). -/
def inboxEntries : Nat := 27
/-- Bytes of a span (R366), and those of it that a check code corrects. -/
def spanBytes : Nat := 160
def correctable : Nat := 2

/-- The record in force before any record has been staged (log 3): every core and slice enabled,
no reserve, shortest routing, no capture area, equal second-tier shares. -/
def factoryRecord : ConfigRecord where
  magic := 0x52474643
  rollback := 0
  serial := 0
  cores := List.replicate 8 (2 ^ 64 - 1)
  slices := List.replicate 8 (2 ^ 16 - 1)
  reserve := List.replicate 8 0
  routing := 0
  reserved := 0
  captureArea := 0
  shares := List.replicate 8 0
  ownerDigest := 0
  signatures := []

/-- A word of a tile after an array data-error, and of one lost with its array (R299, R337) (log 20). -/
opaque dirtyTileWord : Nat → Word
/-- The module's input power at a draw (R434) (log 21). -/
opaque powerReading : Nat → Nat
/-- The bytes that carry the numbers of a telemetry item; their layout is not given (R434) (log 21). -/
opaque telemetryBytes : Nat → List Nat → List Nat
/-- SHA-384 of bytes, the LMS signature over a measurement block, and the bytes of the ROM (0), the management
firmware (1) and the firmware of die d (2 + d) (R430, R435) (log 22). -/
opaque sha384 : List Nat → List Nat
opaque lmsSignature : List Nat → List Nat
opaque firmware : Nat → List Nat
/-- The bytes of an SPDM answer, from the draw, the measurement blocks each with its LMS signature, and the request
(R435) (log 22). -/
opaque spdmAnswer : Nat → List (List Nat × List Nat) → List Nat → List Nat
/-- What a message of SPDM makes of the secure session: none, or the digest of the root to which its requester's
certificate chains (R436) (log 22). -/
opaque spdmSession : Nat → Option Nat → List Nat → Option Nat
/-- Whether both signatures over bytes 0 to 255 of a configuration record verify (R430) (log 23). -/
opaque recordVerifies : List Nat → List Nat → Bool
/-- The bytes of the capture log, from what it records; its layout is not given (R437) (log 25). -/
opaque captureBytes : List Captured → List Nat
/-- The matrix budget that a module power limit allows a die; its derivation is not given (R431)
(log 40). -/
opaque powerCap : Nat → Nat → Nat

/-- The 13 bytes of the check code over bytes 0 to 146 of a span; the code is not given (R366) (log 76). -/
opaque checkCode : List Nat → List Nat

end Config
end Sys2Proof
end

