-- ==== Sys2Proof/Machine/Trits.lean ====
section
/-!
DEFINITION. Trit strings as integers: rounding, fitting, fields, elements, tritwise maps and the
byte codes of the shell (R8 to R10, R64, R66, R85 to R87).
-/
namespace Sys2Proof.Machine

/-- `nearest(a / b)` for `b > 0` (R66): of two equally near integers, the one of smaller magnitude. -/
def nearestDiv (a : Int) (b : Nat) : Int :=
  let q : Nat := (2 * a.natAbs + b - 1) / (2 * b)
  if a < 0 then -(q : Int) else q

/-- `nearest(a / b)` for any nonzero integer `b` (R190). -/
def nearestQuot (a b : Int) : Int :=
  nearestDiv (if b < 0 then -a else a) b.natAbs

/-- What a fitting helper of R66 returns. -/
structure Fitted where
  w : Int
  carry : Int
  ovf : Int
  deriving DecidableEq, Repr

/-- `wrap(x, n)` (R66). -/
def wrap (x : Int) (n : Nat) : Fitted :=
  let c := nearestDiv x (3 ^ n)
  ⟨x - c * 3 ^ n, c - 3 * nearestDiv c 3, c.sign⟩

/-- `saturate(x, n)` (R66). -/
def saturate (x : Int) (n : Nat) : Fitted :=
  let w := min (half n) (max (-half n) x)
  ⟨w, 0, (x - w).sign⟩

/-- The wrapped value alone. -/
def wrapVal (x : Int) (n : Nat) : Int := (wrap x n).w

/-- The digits 0, 1, 2 of an `n`-trit value, as one number: the value raised by `half n` (R10). -/
def offset (w : Int) (n : Nat) : Nat := (w + half n).toNat

/-- Trits `lo + len - 1 : lo` of an `n`-trit value, read as an index (R10). -/
def field (n : Nat) (w : Int) (lo len : Nat) : Nat := offset w n / 3 ^ lo % 3 ^ len

/-- Trits `lo + len - 1 : lo` of an `n`-trit value, read as a signed value (R10). -/
def sfield (n : Nat) (w : Int) (lo len : Nat) : Int := field n w lo len - half len

/-- One trit of an `n`-trit value. -/
def trit (n : Nat) (w : Int) (i : Nat) : Int := sfield n w i 1

/-- Fields of a 27-trit word. -/
def idx (w : Int) (lo len : Nat) : Nat := field 27 w lo len
def sgd (w : Int) (lo len : Nat) : Int := sfield 27 w lo len

/-- An `n`-trit value with trits `lo + len - 1 : lo` replaced by the `len`-trit value `v`. -/
def setField (n : Nat) (w : Int) (lo len : Nat) (v : Int) : Int :=
  w + (v - sfield n w lo len) * 3 ^ lo

/-- A field of `len` trits from trit 0, read from an integer of any size: `wrap` to `len` (R199). -/
def lowTrits (w : Int) (len : Nat) : Int := wrapVal w len

/-- Element `j` of a packed word of `n`-trit elements (R64). -/
def elem (n : Nat) (w : Int) (j : Nat) : Int := sfield 27 w (n * j) n

/-- The word holding elements `xs` of `n` trits each, element 0 lowest (R64). -/
def packElems (n : Nat) : List Int → Int
  | [] => 0
  | x :: xs => x + 3 ^ n * packElems n xs

/-- Apply a two-input trit function at each of `n` positions, given the offsets of both values. -/
def tritMap2 (f : Int → Int → Int) : Nat → Nat → Nat → Int
  | 0, _, _ => 0
  | n + 1, a, b =>
    f ((a % 3 : Nat) - 1) ((b % 3 : Nat) - 1) + 3 * tritMap2 f n (a / 3) (b / 3)

/-- Tritwise function on two `n`-trit values (R196, R197). -/
def tritwise (f : Int → Int → Int) (n : Nat) (a b : Int) : Int :=
  tritMap2 f n (offset a n) (offset b n)

/-- The trits of an `n`-trit value, trit 0 first. -/
def tritsOf (n : Nat) (w : Int) : List Int := (List.range n).map (trit n w)

/-- The value of a trit list, trit 0 first (R8). -/
def ofTrits : List Int → Int
  | [] => 0
  | t :: ts => t + 3 * ofTrits ts

/-- Number of trits of an `n`-trit value equal to `t` (R198). -/
def countTrits (n : Nat) (w t : Int) : Nat := (tritsOf n w).countP (· == t)

/-- Number of leading zero trits of an `n`-trit value (R198). -/
def leadingZeros (n : Nat) (w : Int) : Nat := ((tritsOf n w).reverse.takeWhile (· == 0)).length

/-- Rotate the `n` trits of a value left by `k` (R195). -/
def rotl (n : Nat) (w : Int) (k : Int) : Int :=
  let r := (k % (n : Int)).toNat
  let u := offset w n
  (u % 3 ^ (n - r) * 3 ^ r + u / 3 ^ (n - r) : Nat) - half n

/-- Does the value fit `n` trits? -/
def fits (n : Nat) (w : Int) : Bool := decide (-half n ≤ w) && decide (w ≤ half n)

/-! ### Bytes (R85 to R87) -/

/-- Element packing of one tryte: two bytes, low trits first (R86). -/
def tryteBytes (w : Int) : List Nat :=
  let u := offset w 9
  [u % 243, u / 243 % 81 + 81]

/-- Element packing of one word: six bytes (R86). -/
def wordBytes (w : Int) : List Nat :=
  let u := offset w 27
  [u % 243, u / 3 ^ 5 % 243, u / 3 ^ 10 % 243, u / 3 ^ 15 % 243, u / 3 ^ 20 % 243,
   u / 3 ^ 25 % 9 + 117]

/-- The tryte two bytes hold; none for an invalid code or a nonzero pad trit (R85, R86). -/
def bytesTryte : List Nat → Option Int
  | [b0, b1] =>
    if b0 < 243 ∧ b1 < 243 ∧ b1 / 81 = 1 then some ((b0 + 243 * (b1 % 81) : Nat) - half 9) else none
  | _ => none

/-- The word six bytes hold; none for an invalid code or a nonzero pad trit (R85, R86). -/
def bytesWord : List Nat → Option Int
  | [b0, b1, b2, b3, b4, b5] =>
    if b0 < 243 ∧ b1 < 243 ∧ b2 < 243 ∧ b3 < 243 ∧ b4 < 243 ∧ b5 < 243 ∧ b5 / 9 = 13 then
      some ((b0 + 3 ^ 5 * b1 + 3 ^ 10 * b2 + 3 ^ 15 * b3 + 3 ^ 20 * b4 + 3 ^ 25 * (b5 % 9) : Nat)
        - half 27)
    else none
  | _ => none

/-- Five trits of a byte, trit t0 first; none for a code above 242 (R85). -/
def byteTrits (b : Nat) : Option (List Int) :=
  if b < 243 then some ((List.range 5).map fun i => ((b / 3 ^ i % 3 : Nat) : Int) - 1) else none

/-- The byte that five trits make (R85). -/
def tritsByte (ts : List Int) : Nat :=
  (ts.zipIdx.map fun (t, i) => (t + 1).toNat * 3 ^ i).sum

/-- Cut a list into pieces of `n`, given enough fuel. -/
def chunks {α : Type} (n : Nat) : Nat → List α → List (List α)
  | 0, _ => []
  | _, [] => []
  | fuel + 1, xs => xs.take n :: chunks n fuel (xs.drop n)

/-- Stream packing of a tryte sequence (R87): five trits a byte, the last byte padded with zeros. -/
def streamBytes (trytes : List Int) : List Nat :=
  let ts := trytes.flatMap (tritsOf 9)
  (chunks 5 ts.length ts).map fun c => tritsByte (c ++ List.replicate (5 - c.length) 0)

/-- The trytes a byte stream holds (R87): `n` trytes, or the index of the first bad byte. -/
def streamTrytes (n : Nat) (bytes : List Nat) : Except Nat (List Int) :=
  match bytes.findIdx? (fun b => 243 ≤ b) with
  | some i => .error i
  | none =>
    let ts := bytes.flatMap fun b => (List.range 5).map fun i => ((b / 3 ^ i % 3 : Nat) : Int) - 1
    if (ts.drop (9 * n)).any (· != 0) then .error (bytes.length - 1)
    else .ok ((chunks 9 n (ts.take (9 * n))).map ofTrits)

/-- Bytes that `n` trytes take in stream packing (R87). -/
def streamLength (n : Nat) : Nat := (9 * n + 4) / 5

end Sys2Proof.Machine
end

