-- ==== Sys2Proof/Machine/Lines.lean ====
section
/-!
DEFINITION. How a line of 81 trytes is stored: its compressed form (R138 to R140), its line entry (R367), and
the bytes of its span (R366).
-/
namespace Sys2Proof.Machine

/-! ### Line compression (R138 to R140) -/

/-- The canonical mask and the literals of a line (R139), from the tryte before. -/
def maskOfLine : Int → List Int → List Int × List Int
  | _, [] => ([], [])
  | prev, x :: xs =>
    let (m, l) := maskOfLine x xs
    if x = 0 then (0 :: m, l) else if x = prev then (-1 :: m, l) else (1 :: m, x :: l)

/-- The encoded form of a line of 81 trytes: no words for zeros, else mask and literals, or the 27
plain words where the encoding would take 27 or more. -/
def encodeLine (ts : List Int) : List Int :=
  if ts.all (· == 0) then []
  else
    let (m, l) := maskOfLine 0 ts
    let lits := (chunks 3 l.length l).map (packElems 9)
    let enc := ((chunks 27 m.length m).map ofTrits) ++ lits
    if 27 ≤ enc.length then (chunks 3 ts.length ts).map (packElems 9) else enc

/-- Expand mask trits over the literals; none where the literals run out. -/
def expandMask : Int → List Int → List Int → Option (List Int)
  | _, [], _ => some []
  | prev, m :: ms, l =>
    if m = 0 then (expandMask 0 ms l).map (0 :: ·)
    else if m = -1 then (expandMask prev ms l).map (prev :: ·)
    else
      match l with
      | [] => none
      | x :: l' => (expandMask x ms l').map (x :: ·)

/-- The three trytes of a word. -/
def wordTrytes (w : Int) : List Int := (List.range 3).map (elem 9 w)

/-- The 81 trytes that `enc`, of its stated length, stands for; none for the data-integrity fault of R140. A
length of 28 to 121, which R141 names neither as a format nor as a fault, is read as a compressed form of that many
words (DESIGN CHOICE, log 77). -/
def decodeLine (enc : List Int) : Option (List Int) :=
  if enc.isEmpty then some (List.replicate 81 0)
  else if enc.length = 27 then some (enc.flatMap wordTrytes)
  else if enc.length < 4 then none
  else
    let mask := (enc.take 3).flatMap (tritsOf 27)
    if mask.headD 0 = -1 then none else expandMask 0 mask ((enc.drop 3).flatMap wordTrytes)

/-! ### Spans (R366, R367) -/

/-- The line entry under which a line is stored (R367). -/
def entryOf (ts : List Int) (compressible : Bool) : Nat :=
  let n := (encodeLine ts).length
  if !compressible then 0 else if n = 0 then 1 else if n ≤ 9 then 2 else if n ≤ 18 then 3 else 0

/-- Bytes from byte 0 of a span that its entry needs besides the check span. -/
def dataBytes (entry : Nat) (ts : List Int) : Nat :=
  if entry = 0 then 146 else if entry = 2 ∨ entry = 3 then streamLength (3 * (encodeLine ts).length) else 0

/-- Bytes 0 to 145: the line, or its encoded words from byte 0, in stream packing; the bytes that a compressed
or zero line leaves are written as zero trits here (log 76). -/
def lineBytes (entry : Nat) (ts : List Int) : List Nat :=
  let bs := if entry = 0 then streamBytes ts
    else if entry = 2 ∨ entry = 3 then streamBytes ((encodeLine ts).flatMap wordTrytes) else []
  (bs ++ List.replicate 146 121).take 146

/-- The 160 bytes of a span: the line, the byte of the line entry, and the check code over both (R366). -/
def spanBytes (entry : Nat) (ts : List Int) : List Nat :=
  let body := lineBytes entry ts ++ [entry + 117]
  body ++ (List.range 13).map fun i => (Config.checkCode body).getD i 0 % 256

end Sys2Proof.Machine
end

