-- ==== Sys2Proof/Syntax.lean ====
section
/-!
DEFINITION. The steps of the AQ729-M8: one constructor of `Instr` for every row of
spec/opcode_table.json. The instruction words carry their decoded operands (R159 to R167); the
events carry what names the unit, operation or command they concern, or the input from outside.
-/
namespace Sys2Proof

/-- Guard tests (R162). -/
inductive Test where
  | lt | eq | gt | le | ne | ge | cn | cp | ov
  deriving DecidableEq, Repr

/-- The guard of a word (R162): always, or a test of one of the thread's condition registers. -/
inductive Guard where
  | always
  | on (c : Nat) (t : Test)
  deriving DecidableEq, Repr

/-- Integer element types (R164, R178). -/
inductive IType where
  | t1 | t3 | t9 | t27 | p
  deriving DecidableEq, Repr

/-- Float element types (R164, R205). -/
inductive FType where
  | f9 | f27
  deriving DecidableEq, Repr

/-- All element types (R164). -/
inductive EType where
  | t1 | t3 | t9 | t27 | f9 | f27 | p
  deriving DecidableEq, Repr

/-- The modifier of R164: plain, saturating, trapping. -/
inductive Fit where
  | wrap | sat | trp
  deriving DecidableEq, Repr

/-- Scopes (R100). -/
inductive Scope where
  | thd | snd | wv | cl | die | pkg | sys
  deriving DecidableEq, Repr

/-- Access paths (R121). -/
inductive Path where
  | core | copy | matrix | transform | message
  deriving DecidableEq, Repr

/-- Conversion kinds of the shell (R88). -/
inductive Kind where
  | packed | i8 | i16 | i32 | n8 | e16 | g16 | e32
  deriving DecidableEq, Repr

/-- Minor codes of shfl (R202). -/
inductive ShflDir where
  | up | dn | rot
  deriving DecidableEq, Repr

/-- Operations of lred (R203). -/
inductive RedOp where
  | add | min | max
  deriving DecidableEq, Repr

/-- Operations of lscan (R203). -/
inductive ScanOp where
  | add | min | max | addEx | minEx | maxEx
  deriving DecidableEq, Repr

/-- Directions of frnd (R215). -/
inductive RndDir where
  | near | floor | ceil
  deriving DecidableEq, Repr

/-- Minor codes of aget (R224). -/
inductive AgetSel where
  | reg (a : Nat) | flt | hnd | cmp | spc
  deriving DecidableEq, Repr

/-- Scales of lea (R224). -/
inductive LeaScale where
  | one | w | pr | ln
  deriving DecidableEq, Repr

/-- Minor codes of vote (R224). -/
inductive VoteOp where
  | any | all | uni
  deriving DecidableEq, Repr

/-- Operations of atom, atoms and red (R262). For `tins` the field is `len` trits from `pos`. -/
inductive AtomOp where
  | add | min | max | xchg | cas | tand | tor
  | tins (pos len : Nat)
  deriving DecidableEq, Repr

/-- Orders of an atomic (R261). -/
inductive AtomOrder where
  | rlx | acq | rel | ar
  deriving DecidableEq, Repr

/-- Forms of mma (R295). -/
inductive MmaForm where
  | f9 | t3 | w9 | t1 | f27
  deriving DecidableEq, Repr

/-- Extension word of ld, st, lds, sts, ldh and sth without the kind (R249). -/
structure MemExt where
  index : Option Nat
  hint : Nat
  disp : Int
  deriving DecidableEq, Repr

/-- Extension word of atom, atoms and red (R261). -/
structure AtomExt where
  op : AtomOp
  order : AtomOrder
  all : Bool
  scope : Scope
  index : Option Nat
  deriving DecidableEq, Repr

/-- The signal fields of an engine operation (R278): add at the home or store. -/
structure SigCtl where
  add : Bool
  scope : Scope
  areg : Nat
  sreg : Nat
  deriving DecidableEq, Repr

/-- Copy control word (R281). `dims` is D; `kind` is absent for no conversion. -/
structure CopyCtl where
  dims : Nat
  kind : Option Kind
  sig : Option SigCtl
  srcSp : Bool
  dstSp : Bool
  map : Option Nat
  option : Bool
  deriving DecidableEq, Repr

/-- Modes and boundaries of cpg (R289). -/
inductive GridMode where
  | restrict | prolong | prolongAdd
  deriving DecidableEq, Repr

inductive Boundary where
  | zero | clamp | halo
  deriving DecidableEq, Repr

/-- Grid control word (R289). `stride i` is true for a stride of 3. -/
structure GridCtl where
  dims : Nat
  mode : GridMode
  boundary : Boundary
  stride : List Bool
  sig : Option SigCtl
  srcSp : Bool
  dstSp : Bool
  src : EType
  deriving DecidableEq, Repr

/-- Transform control word (R293). -/
structure XfCtl where
  half : Bool
  srcSp : Bool
  dstSp : Bool
  sig : Option SigCtl
  deriving DecidableEq, Repr

/-- Where a matrix operand comes from (R296, R301): registers, tile `t` of a map, or a handle. -/
inductive MatSrc where
  | regs | map (t : Nat) | handle
  deriving DecidableEq, Repr

/-- Spectral control word of mmc (R301). `block` is n = log3 B (2 to 5); `blocks` is g. -/
structure MmcCtl where
  wsrc : MatSrc
  xsrc : MatSrc
  scale : Int
  block : Nat
  half : Bool
  row : Nat
  blocks : Nat
  deriving DecidableEq, Repr

/-- Tile move control word of mst (R304): rows and columns as counts. -/
structure MoveCtl where
  rows : Nat
  cols : Nat
  half : Bool
  sp : Bool
  sig : Option SigCtl
  deriving DecidableEq, Repr

/-- What spz does (R259). -/
inductive SpzAct where
  | remove
  | configure (a b base tiles : Nat)
  deriving DecidableEq, Repr

/-- An error of a core's array (R385): how far off, in whole units, the exact sum is that it forms for a word of one plane
of a tile. -/
structure SumError where
  plane : Nat
  row : Nat
  col : Nat
  off : Int
  deriving DecidableEq, Repr

/-- What patrol scrub reads (R432): a stored line, a word of a line that a slice holds, a scratchpad word of a
cluster of the module. -/
inductive ScrubPlace where
  | line (line : Nat)
  | slice (line word : Nat)
  | scratch (cluster word : Nat)
  deriving DecidableEq, Repr

/-- The steps of the machine (spec/opcode_table.json, spec/95_what_each_step_holds.md). -/
inductive Instr where
  -- row 0: control (R232 to R234)
  | brI (g : Guard) (off : Int)
  | brL (g : Guard) (off : Int)
  | callI (g : Guard) (d : Nat) (off : Int)
  | callL (g : Guard) (d : Nat) (off : Int)
  | brx (g : Guard) (a : Nat)
  | ret (g : Guard) (a : Nat)
  | exit (g : Guard)
  | nop (g : Guard)
  | yield (g : Guard)
  | sleep (g : Guard) (b : Nat)
  -- row 1: integer arithmetic, compare, move (R180)
  | addV (g : Guard) (t : IType) (m : Fit) (d a b : Nat)
  | addI (g : Guard) (t : IType) (m : Fit) (d a : Nat) (imm : Int)
  | addc (g : Guard) (t : IType) (d a b : Nat)
  | sub (g : Guard) (t : IType) (m : Fit) (d a b : Nat)
  | subc (g : Guard) (t : IType) (d a b : Nat)
  | neg (g : Guard) (t : IType) (d a : Nat)
  | abs (g : Guard) (t : IType) (d a : Nat)
  | minV (g : Guard) (t : IType) (d a b : Nat)
  | minI (g : Guard) (t : IType) (d a : Nat) (imm : Int)
  | maxV (g : Guard) (t : IType) (d a b : Nat)
  | maxI (g : Guard) (t : IType) (d a : Nat) (imm : Int)
  | clamp (g : Guard) (t : IType) (d a b : Nat)
  | mulV (g : Guard) (t : IType) (m : Fit) (d a b : Nat)
  | mulI (g : Guard) (t : IType) (m : Fit) (d a : Nat) (imm : Int)
  | mulh (g : Guard) (t : IType) (d a b : Nat)
  | mad (g : Guard) (t : IType) (m : Fit) (d a b : Nat)
  | div (g : Guard) (t : IType) (d a b : Nat)
  | mod (g : Guard) (t : IType) (d a b : Nat)
  | cmpV (g : Guard) (t : IType) (c a b : Nat)
  | cmpI (g : Guard) (t : IType) (c a : Nat) (imm : Int)
  | sgn (g : Guard) (t : IType) (d a : Nat)
  | sel (g : Guard) (t : IType) (d a b : Nat)
  | sat (g : Guard) (t : IType) (d a k : Nat)
  | mov (g : Guard) (t : IType) (d a : Nat)
  | movi (g : Guard) (t : IType) (d : Nat) (imm : Int)
  | ldi (g : Guard) (d : Nat) (imm : Int)
  -- row 2: shifts, tritwise, packing, lanes (R180)
  | shlV (g : Guard) (t : IType) (m : Fit) (d a b : Nat)
  | shlI (g : Guard) (t : IType) (m : Fit) (d a : Nat) (imm : Int)
  | shrV (g : Guard) (t : IType) (d a b : Nat)
  | shrI (g : Guard) (t : IType) (d a : Nat) (imm : Int)
  | rolV (g : Guard) (t : IType) (d a b : Nat)
  | rolI (g : Guard) (t : IType) (d a : Nat) (imm : Int)
  | rorV (g : Guard) (t : IType) (d a b : Nat)
  | rorI (g : Guard) (t : IType) (d a : Nat) (imm : Int)
  | tand (g : Guard) (t : IType) (d a b : Nat)
  | tor (g : Guard) (t : IType) (d a b : Nat)
  | tmul (g : Guard) (t : IType) (d a b : Nat)
  | tcon (g : Guard) (t : IType) (d a b : Nat)
  | tlut (g : Guard) (t : IType) (d a b : Nat) (table : Nat)
  | tcnt (g : Guard) (t : IType) (d a digit : Nat)
  | tlz (g : Guard) (t : IType) (d a : Nat)
  | text (g : Guard) (t : IType) (d a pos len : Nat)
  | tins (g : Guard) (t : IType) (d a pos len : Nat)
  | pack (g : Guard) (t : IType) (m : Fit) (d a : Nat)
  | unpack (g : Guard) (t : IType) (d a : Nat)
  | perm (g : Guard) (d a b : Nat)
  | shfl (g : Guard) (dir : ShflDir) (d a b : Nat)
  | lred (g : Guard) (t : IType) (m : Fit) (op : RedOp) (d a : Nat)
  | lscan (g : Guard) (t : IType) (m : Fit) (op : ScanOp) (d a : Nat)
  -- row 3: float, dot product, conversion (R205)
  | fadd (g : Guard) (t : FType) (m : Fit) (d a b : Nat)
  | fsub (g : Guard) (t : FType) (m : Fit) (d a b : Nat)
  | fmul (g : Guard) (t : FType) (m : Fit) (d a b : Nat)
  | fma (g : Guard) (t : FType) (m : Fit) (d a b : Nat)
  | fnma (g : Guard) (t : FType) (m : Fit) (d a b : Nat)
  | fmin (g : Guard) (t : FType) (d a b : Nat)
  | fmax (g : Guard) (t : FType) (d a b : Nat)
  | fcmp (g : Guard) (t : FType) (c a b : Nat)
  | fabs (g : Guard) (t : FType) (d a : Nat)
  | fdiv (g : Guard) (t : FType) (m : Fit) (d a b : Nat)
  | fsqrt (g : Guard) (t : FType) (d a : Nat)
  | frcp (g : Guard) (t : FType) (m : Fit) (d a : Nat)
  | frsq (g : Guard) (t : FType) (d a : Nat)
  | fex3 (g : Guard) (t : FType) (m : Fit) (d a : Nat)
  | flg3 (g : Guard) (t : FType) (d a : Nat)
  | fsclV (g : Guard) (t : FType) (m : Fit) (d a b : Nat)
  | fsclI (g : Guard) (t : FType) (m : Fit) (d a : Nat) (imm : Int)
  | fcls (g : Guard) (t : FType) (d a : Nat)
  | ffix (g : Guard) (t : FType) (trp : Bool) (d a : Nat)
  | fflt (g : Guard) (t : FType) (d a : Nat)
  | fcvt (g : Guard) (t : FType) (m : Fit) (d a j : Nat)
  | frnd (g : Guard) (t : FType) (dir : RndDir) (d a : Nat)
  | dot (g : Guard) (t : IType) (d a b : Nat)
  | dotf (g : Guard) (m : Fit) (d a b : Nat)
  | cmul (g : Guard) (t : FType) (m : Fit) (d a b : Nat)
  -- row 4: uniform, address, barrier, match, vote (R223); `p` is true for the pair type
  | sadd (g : Guard) (p sat : Bool) (d a b : Nat)
  | ssub (g : Guard) (p sat : Bool) (d a b : Nat)
  | smul (g : Guard) (p sat : Bool) (d a b : Nat)
  | smad (g : Guard) (p sat : Bool) (d a b : Nat)
  | smin (g : Guard) (p : Bool) (d a b : Nat)
  | smax (g : Guard) (p : Bool) (d a b : Nat)
  | scmp (g : Guard) (p : Bool) (c a b : Nat)
  | sshl (g : Guard) (p sat : Bool) (d a b : Nat)
  | sshr (g : Guard) (p : Bool) (d a b : Nat)
  | smov (g : Guard) (p : Bool) (d a : Nat)
  | sldi (g : Guard) (d : Nat) (imm : Int)
  | sget (g : Guard) (d n : Nat)
  | vrd (g : Guard) (d a lane : Nat)
  | sbc (g : Guard) (p : Bool) (d a : Nat)
  | sbal (g : Guard) (d c : Nat) (t : Test)
  | aadd (g : Guard) (d a b : Nat)
  | amov (g : Guard) (d a : Nat)
  | aset (g : Guard) (d a : Nat)
  | aget (g : Guard) (d : Nat) (sel : AgetSel)
  | lea (g : Guard) (sc : LeaScale) (d a b : Nat)
  | bar (g : Guard) (n b : Nat)
  | bara (g : Guard) (n b : Nat)
  | barw (g : Guard) (n : Nat)
  | matchV (g : Guard) (cnt : Bool) (d a : Nat)
  | vote (g : Guard) (op : VoteOp) (d c : Nat) (t : Test)
  -- row 5: loads, stores, cache (R248)
  | ldI (g : Guard) (t : EType) (d a : Nat) (imm : Int)
  | ldL (g : Guard) (t : EType) (d a : Nat) (x : MemExt)
  | stI (g : Guard) (t : EType) (d a : Nat) (imm : Int)
  | stL (g : Guard) (t : EType) (d a : Nat) (x : MemExt)
  | lduI (g : Guard) (t : EType) (d a : Nat) (imm : Int)
  | lduL (g : Guard) (t : EType) (d a : Nat) (disp : Int)
  | stuI (g : Guard) (t : EType) (d a : Nat) (imm : Int)
  | stuL (g : Guard) (t : EType) (d a : Nat) (disp : Int)
  | ldsI (g : Guard) (p : Bool) (d a : Nat) (imm : Int)
  | ldsL (g : Guard) (p : Bool) (d a : Nat) (x : MemExt)
  | stsI (g : Guard) (p : Bool) (d a : Nat) (imm : Int)
  | stsL (g : Guard) (p : Bool) (d a : Nat) (x : MemExt)
  | ldh (g : Guard) (k : Kind) (t : EType) (sat : Bool) (d a : Nat) (x : MemExt)
  | sth (g : Guard) (k : Kind) (t : EType) (sat : Bool) (d a : Nat) (x : MemExt)
  | dpf (g : Guard) (a b : Nat)
  | cwb (g : Guard) (a b : Nat)
  | cinv (g : Guard) (a b : Nat)
  -- row 6: atomics, ordering, waiting, records (R248)
  | atom (g : Guard) (t : EType) (sat : Bool) (d a b : Nat) (x : AtomExt)
  | atoms (g : Guard) (t : EType) (sat : Bool) (d a b : Nat) (x : AtomExt)
  | red (g : Guard) (t : EType) (sat : Bool) (a b : Nat) (x : AtomExt)
  | acq (g : Guard) (sc : Scope) (all : Bool) (d a b : Nat)
  | rel (g : Guard) (sc : Scope) (all : Bool) (d a b : Nat)
  | bind (g : Guard) (c a b : Nat) (sc : Scope) (len : Nat)
  | unbind (g : Guard) (a : Nat) (b : Option Nat)
  | fence (g : Guard) (sc : Scope)
  | fencex (g : Guard) (p c : Path)
  | waitw (g : Guard) (sp : Bool) (d a b : Nat)
  | wake (g : Guard) (sc : Scope) (sp : Bool) (a : Nat)
  | emit (g : Guard) (c a q : Nat)
  | spz (g : Guard) (slot : Nat) (act : SpzAct)
  -- row 7: engines (R276)
  | cpt (g : Guard) (t : EType) (sat : Bool) (d a b : Nat) (x : CopyCtl)
  | cpm (g : Guard) (t : EType) (d a b : Nat) (x : CopyCtl)
  | cpg (g : Guard) (t : EType) (sat : Bool) (d a b : Nat) (x : GridCtl)
  | cpf (g : Guard) (t : EType) (d a b : Nat) (x : CopyCtl)
  | cpw (g : Guard) (sc : Scope) (add : Bool) (d a : Nat) (sp : Bool)
  | xff (g : Guard) (t : FType) (sat : Bool) (d a : Nat) (x : XfCtl)
  | xfi (g : Guard) (t : FType) (sat : Bool) (d a : Nat) (x : XfCtl)
  | mma (g : Guard) (f : MmaForm) (d a b : Nat) (asrc bsrc : MatSrc)
  | mmc (g : Guard) (t : FType) (d a b : Nat) (x : MmcCtl)
  | mzr (g : Guard) (d : Nat)
  | mld (g : Guard) (d a : Nat) (sp : Bool)
  | mst (g : Guard) (t : EType) (sat : Bool) (d a : Nat) (x : MoveCtl)
  | mrd (g : Guard) (d m : Nat) (col : Option Nat)
  | mwr (g : Guard) (m a : Nat) (col : Option Nat)
  | mtag (g : Guard) (d a : Nat)
  | thnd (g : Guard) (d a : Nat) (disp : Int)
  | msg (g : Guard) (a b : Nat) (sc : Scope) (n : Nat)
  -- row 8: trap, code, allocation (R223)
  | trap (g : Guard) (code : Int)
  | tret (g : Guard) (set : Option Nat)
  | tmsk (g : Guard) (d a : Nat)
  | tcmp (g : Guard) (add : Bool) (a : Nat)
  | brk (g : Guard)
  | ipf (g : Guard) (a b : Nat)
  | ipin (g : Guard) (c a b : Nat)
  | iunpin (g : Guard) (a b : Nat)
  | grow (g : Guard) (c n : Nat)
  | shrink (g : Guard) (n : Nat)
  -- issue and traps (R23, R29, R354, R234, R57, R316, R270)
  | issuePick (core : Nat)
  | strandForced (k : Nat)
  | budgetWindow (core : Nat)
  | sleepExpiry (k lane : Nat)
  | timerTrap (k : Nat)
  | trapDelivery (k : Nat)
  | waitwEnd (k lane : Nat)
  | groupFormTimeout (graph node : Nat)
  -- engines (R283, R294, R297, R337, R377, R380, R382, R386)
  | copyLine (op : Nat)
  | copyComplete (op : Nat)
  | transformStage (op : Nat)
  | transformComplete (op : Nat)
  | matrixStart (op : Nat)
  | matrixComplete (op : Nat) (errs : List (List SumError))
  | matrixEngineReset (core : Nat)
  | messageSend (op : Nat)
  | messageAccept (op : Nat)
  -- dispatch, partitions, halts (R127, R320, R330, R332, R334, R347 to R351)
  | weaveDispatch (ctx : Nat)
  | prologueBinding (weave : Nat)
  | prologueComplete (weave : Nat)
  | partitionAssign (die part : Nat)
  | quantumExpiry (die part : Nat)
  | drainDeadlineExpiry (die part : Nat)
  | skidBoundExpiry (die part : Nat)
  | swapOutComplete (die part : Nat)
  | swapDeadlineExpiry (die part : Nat)
  | resume (ctx : Nat)
  | contextWatchdog (ctx : Nat)
  | operationWatchdog (op : Nat)
  -- rim and peers (R386, R392, R393, R396, R397, R402, R403)
  | beatReceive (link : Nat) (noise : List Nat)
  | packetForward (pkt : Nat)
  | peerRead (pkt : Nat)
  | peerWrite (pkt : Nat)
  | peerAtomic (pkt : Nat)
  | dataResponse (pkt : Nat)
  | acknowledgement (pkt : Nat)
  | refusal (pkt : Nat)
  | slotReady (pkt : Nat)
  | ticketReservationExpiry (die requester : Nat)
  | message (pkt : Nat)
  | messageAccepted (pkt : Nat)
  | messageRefused (pkt : Nat)
  -- registers, rings, commands (R407 to R420)
  | adminTail (die v : Nat)
  | adminCtl (die v : Nat)
  | registerWrite (die off v : Nat)
  | apertureRead (die off : Nat)
  | kick (die q v : Nat)
  | commandFetch (queue : Nat)
  | commandCompletion (cmd : Nat)
  | bqiNop (cmd : Nat)
  | launch (cmd : Nat)
  | graphCreate (cmd : Nat)
  | graphRun (cmd : Nat)
  | graphDestroy (cmd : Nat)
  | copy (cmd : Nat)
  | wait (cmd : Nat)
  | signal (cmd : Nat)
  | query (cmd : Nat)
  | contextCreate (cmd : Nat)
  | contextDestroy (cmd : Nat)
  | contextResume (cmd : Nat)
  | queueCreate (cmd : Nat)
  | queueDestroy (cmd : Nat)
  | exportMem (cmd : Nat)
  | importHandle (cmd : Nat)
  | revoke (cmd : Nat)
  | invalidate (cmd : Nat)
  | preempt (cmd : Nat)
  | setPartitionMode (cmd : Nat)
  | setContextWatchdog (cmd : Nat)
  | setDrainDeadline (cmd : Nat)
  | setSwapDeadline (cmd : Nat)
  | setQuantum (cmd : Nat)
  | setHandlerSlots (cmd : Nat)
  | setMatrixBudget (cmd : Nat)
  | codeLoad (cmd : Nat)
  | contextSpill (cmd : Nat)
  -- host data for a translated read (R257)
  | hostReadCompletion (grp lane : Nat)
  -- what the world outside or upkeep causes (R355, R367, R373, R374, R392, R413, R428 to R437)
  | linkRetrain (link : Nat)
  | sliceWriteback (die line : Nat)
  | atsTranslationCompletion (grp lane : Nat) (size : Nat) (r w : Bool)
  | priResponse (grp lane : Nat) (ok : Bool)
  | atsInvalidation (die pasid base size : Nat)
  | patrolScrub (die : Nat) (at_ : ScrubPlace)
  | calibration (die bank : Nat)
  | clockStretch (core : Nat)
  | thermalCap (die temp : Nat)
  | thermalShutdown (temp : Nat)
  | moduleReset (failsAt : Nat)
  | functionLevelReset (die : Nat)
  | spdmRequest (request : List Nat)
  | telemetry (item : Nat)
  | configStage (session : Bool) (record : List Nat)
  | powerLimit (session : Bool) (watts : Nat)
  | captureArm (session : Bool) (die ctx : Nat)
  | captureDisarm (session : Bool)
  | captureRead (session : Bool) (off count : Nat)
  | linkRetrainingComplete (link : Nat) (ok : Bool)
  | maskedVectorUnmask (die vector : Nat)
  deriving DecidableEq, Repr

end Sys2Proof
end

