-- ==== Sys2Proof/WellFormed.lean ====
section
/-!
DEFINITION. Which terms of `Instr` are legal: register classes and pairs (R50, R65, R161), types and
modifiers (R180, R205, R223, R248, R276), immediates (R179), field ranges of extension and control
words. Checks that need the state (declared tiles, the allocation, targets) are the machine's.
-/
namespace Sys2Proof

namespace WF

def v (n : Nat) : Bool := n < 243
def s (n : Nat) : Bool := n < 81
def a (n : Nat) : Bool := n < 9
def c (n : Nat) : Bool := n < 4
def m (n : Nat) : Bool := n < 9
/-- An even v register whose pair half exists (R65). -/
def vPair (n : Nat) : Bool := n % 2 == 0 && n ≤ 242
/-- An even s register up to s78 (R50). -/
def sPair (n : Nat) : Bool := n % 2 == 0 && n ≤ 78

/-- A v operand of an integer type: a pair for .p. -/
def vt (t : IType) (n : Nat) : Bool :=
  match t with
  | .p => vPair n
  | _ => v n

/-- A v operand of an element type. -/
def ve (t : EType) (n : Nat) : Bool :=
  match t with
  | .p => vPair n
  | _ => v n

/-- An s operand, a pair when `p`. -/
def sp (p : Bool) (n : Nat) : Bool := if p then sPair n else s n

/-- A range of `k` registers from v(n) (R200, R307). -/
def vRange (n k : Nat) : Bool := n + k ≤ 243

/-- A 27-trit value. -/
def word (x : Int) : Bool := decide (-half 27 ≤ x) && decide (x ≤ half 27)
/-- An I-form immediate (R160). -/
def imm (x : Int) : Bool := decide (-121 ≤ x) && decide (x ≤ 121)

/-- An immediate that is an element value (R179). -/
def elemImm (t : IType) (x : Int) : Bool :=
  match t with
  | .t1 => decide (-1 ≤ x) && decide (x ≤ 1)
  | .t3 => decide (-13 ≤ x) && decide (x ≤ 13)
  | _ => imm x

def guard (g : Guard) : Bool :=
  match g with
  | .always => true
  | .on n _ => c n

/-- Trits of an element (R63). -/
def trits : IType → Nat
  | .t1 => 1 | .t3 => 3 | .t9 => 9 | .t27 => 27 | .p => 54

/-- .t27 or .p. -/
def wide : IType → Bool
  | .t27 | .p => true
  | _ => false

/-- .t1, .t3 or .t9. -/
def narrow : IType → Bool
  | .t1 | .t3 | .t9 => true
  | _ => false

def elems : IType → Nat
  | .t1 => 27 | .t3 => 9 | .t9 => 3 | .t27 => 1 | .p => 1

/-- Types of ldu and stu (R248). -/
def uniformElem : EType → Bool
  | .t9 | .t27 | .p => true
  | _ => false

/-- Types of atom and red (R248). -/
def atomElem : EType → Bool
  | .t9 | .t27 | .f9 | .f27 | .p => true
  | _ => false

/-- Types of atoms (R248). -/
def atomsElem : EType → Bool
  | .t27 | .f27 | .p => true
  | _ => false

def integer : EType → Bool
  | .t9 | .t27 | .p => true
  | _ => false

def width : EType → Nat
  | .t9 | .f9 => 9
  | .p => 54
  | _ => 27

def memExt (x : MemExt) : Bool :=
  (match x.index with | some r => v r | none => true) && x.hint ≤ 2 &&
    decide (-21523360 ≤ x.disp) && decide (x.disp ≤ 21523360)

/-- Types an operation of R262 accepts, and modifier 1 on .add only. -/
def atomOp (t : EType) (sat : Bool) (op : AtomOp) : Bool :=
  match op with
  | .add => true
  | .min | .max | .xchg | .cas => !sat
  | .tand | .tor => !sat && integer t
  | .tins pos len => !sat && integer t && pos ≤ 80 && 1 ≤ len && len ≤ 81 && pos + len ≤ width t

def atomExt (t : EType) (sat : Bool) (x : AtomExt) : Bool :=
  atomOp t sat x.op && !(x.all && x.order == .rlx) &&
    (match x.index with | some r => v r | none => true)

/-- red: operations 0, 1, 2, 5, 6 and orders relaxed or release (R262). -/
def redExt (x : AtomExt) : Bool :=
  (match x.op with | .add | .min | .max | .tand | .tor => true | _ => false) &&
    (match x.order with | .rlx | .rel => true | _ => false)

/-- A kind and a type that R88 pairs. -/
def kindType (k : Kind) (t : EType) : Bool :=
  match k with
  | .packed => true
  | .i8 | .i16 | .i32 | .n8 => t == .t9 || t == .t27
  | .e16 | .g16 | .e32 => t == .f9 || t == .f27

def sig : Option SigCtl → Bool
  | none => true
  | some x => a x.areg && s x.sreg

def copyCtl (x : CopyCtl) : Bool :=
  decide (1 ≤ x.dims) && x.dims ≤ 9 && sig x.sig &&
    (match x.map with | some r => sPair r | none => true)

/-- Types of cpg's grids (R289). -/
def gridElem : EType → Bool
  | .t9 | .t27 | .f9 | .f27 => true
  | _ => false

def gridCtl (x : GridCtl) : Bool :=
  decide (1 ≤ x.dims) && x.dims ≤ 3 && x.stride.length == 3 &&
    !(x.stride.drop x.dims).any id && sig x.sig && gridElem x.src

def matSrc (regsOk : Bool) : MatSrc → Bool
  | .regs => regsOk
  | .map t => t ≤ 26
  | .handle => true

/-- Words of one A row (R295). -/
def aWords : MmaForm → Nat
  | .f9 => 6 | .t3 => 6 | .w9 => 18 | .t1 => 6 | .f27 => 3

/-- Registers of lane r that mmc's W takes (R301): g blocks. -/
def wRegs (t : FType) (g : Nat) : Nat :=
  match t with
  | .f9 => 2
  | .f27 => 2 * g

def mmcCtl (x : MmcCtl) : Bool :=
  matSrc true x.wsrc && matSrc false x.xsrc && decide (-121 ≤ x.scale) && decide (x.scale ≤ 121) &&
    decide (2 ≤ x.block) && x.block ≤ 5 && x.row ≤ 728 && decide (1 ≤ x.blocks) && x.blocks ≤ 3

def moveCtl (x : MoveCtl) : Bool :=
  decide (1 ≤ x.rows) && x.rows ≤ 32 && decide (1 ≤ x.cols) && x.cols ≤ 27 && sig x.sig

/-- Class of sget's destination (R58, R228). -/
def sgetDest (i d : Nat) : Bool :=
  if i ≤ 5 then v d
  else if i == 15 || i == 20 || i == 21 then sPair d
  else s d

def opt (f : Nat → Bool) : Option Nat → Bool
  | none => true
  | some n => f n

end WF

open WF in
/-- The decidable legality of a term of `Instr`. -/
def WellFormed (i : Instr) : Bool :=
  match i with
  | .brI g off => guard g && imm off
  | .brL g off => guard g && word off
  | .callI g d off => guard g && v d && imm off
  | .callL g d off => guard g && v d && word off
  | .brx g r => guard g && v r
  | .ret g r => guard g && v r
  | .exit g => guard g
  | .nop g => guard g
  | .yield g => guard g
  | .sleep g b => guard g && s b
  | .addV g t _ d x y => guard g && vt t d && vt t x && vt t y
  | .addI g t _ d x n => guard g && vt t d && vt t x && elemImm t n
  | .addc g t d x y => guard g && wide t && vt t d && vt t x && vt t y
  | .sub g t _ d x y => guard g && vt t d && vt t x && vt t y
  | .subc g t d x y => guard g && wide t && vt t d && vt t x && vt t y
  | .neg g t d x => guard g && vt t d && vt t x
  | .abs g t d x => guard g && vt t d && vt t x
  | .minV g t d x y => guard g && vt t d && vt t x && vt t y
  | .minI g t d x n => guard g && vt t d && vt t x && elemImm t n
  | .maxV g t d x y => guard g && vt t d && vt t x && vt t y
  | .maxI g t d x n => guard g && vt t d && vt t x && elemImm t n
  | .clamp g t d x y => guard g && vt t d && vt t x && vt t y
  | .mulV g t _ d x y => guard g && vt t d && vt t x && vt t y
  | .mulI g t _ d x n => guard g && vt t d && vt t x && elemImm t n
  | .mulh g t d x y => guard g && t != .p && v d && v x && v y
  | .mad g t _ d x y => guard g && vt t d && vt t x && vt t y
  | .div g t d x y => guard g && vt t d && vt t x && vt t y
  | .mod g t d x y => guard g && vt t d && vt t x && vt t y
  | .cmpV g t k x y => guard g && c k && vt t x && vt t y
  | .cmpI g t k x n => guard g && c k && vt t x && elemImm t n
  | .sgn g t d x => guard g && vt t d && vt t x
  | .sel g t d x y => guard g && vt t d && vt t x && vt t y
  | .sat g t d x k => guard g && t != .t1 && vt t d && vt t x && decide (1 ≤ k) && k < trits t
  | .mov g t d x => guard g && wide t && vt t d && vt t x
  | .movi g t d n => guard g && vt t d && elemImm t n
  | .ldi g d n => guard g && v d && word n
  | .shlV g t _ d x y => guard g && vt t d && vt t x && vt t y
  | .shlI g t _ d x n => guard g && vt t d && vt t x && imm n
  | .shrV g t d x y => guard g && vt t d && vt t x && vt t y
  | .shrI g t d x n => guard g && vt t d && vt t x && imm n
  | .rolV g t d x y => guard g && vt t d && vt t x && vt t y
  | .rolI g t d x n => guard g && vt t d && vt t x && imm n
  | .rorV g t d x y => guard g && vt t d && vt t x && vt t y
  | .rorI g t d x n => guard g && vt t d && vt t x && imm n
  | .tand g t d x y => guard g && vt t d && vt t x && vt t y
  | .tor g t d x y => guard g && vt t d && vt t x && vt t y
  | .tmul g t d x y => guard g && vt t d && vt t x && vt t y
  | .tcon g t d x y => guard g && vt t d && vt t x && vt t y
  | .tlut g t d x y k => guard g && vt t d && vt t x && vt t y && k < 3 ^ 9
  | .tcnt g t d x k => guard g && vt t d && vt t x && k ≤ 2
  | .tlz g t d x => guard g && vt t d && vt t x
  | .text g t d x p n =>
    guard g && wide t && vt t d && vt t x && p ≤ 80 && decide (1 ≤ n) && n ≤ 81 && p + n ≤ trits t
  | .tins g t d x p n =>
    guard g && wide t && vt t d && vt t x && p ≤ 80 && decide (1 ≤ n) && n ≤ 81 && p + n ≤ trits t
  | .pack g t _ d x => guard g && narrow t && v d && vRange x (elems t)
  | .unpack g t d x => guard g && narrow t && v x && vRange d (elems t)
  | .perm g d x y => guard g && v d && v x && v y
  | .shfl g _ d x y => guard g && v d && v x && s y
  | .lred g t m op d x => guard g && vt t d && vt t x && (op == .add || m == .wrap)
  | .lscan g t m op d x =>
    guard g && vt t d && vt t x && (op == .add || op == .addEx || m == .wrap)
  | .fadd g _ _ d x y => guard g && v d && v x && v y
  | .fsub g _ _ d x y => guard g && v d && v x && v y
  | .fmul g _ _ d x y => guard g && v d && v x && v y
  | .fma g _ _ d x y => guard g && v d && v x && v y
  | .fnma g _ _ d x y => guard g && v d && v x && v y
  | .fmin g _ d x y => guard g && v d && v x && v y
  | .fmax g _ d x y => guard g && v d && v x && v y
  | .fcmp g _ k x y => guard g && c k && v x && v y
  | .fabs g _ d x => guard g && v d && v x
  | .fdiv g _ _ d x y => guard g && v d && v x && v y
  | .fsqrt g _ d x => guard g && v d && v x
  | .frcp g _ _ d x => guard g && v d && v x
  | .frsq g _ d x => guard g && v d && v x
  | .fex3 g _ _ d x => guard g && v d && v x
  | .flg3 g _ d x => guard g && v d && v x
  | .fsclV g _ _ d x y => guard g && v d && v x && v y
  | .fsclI g _ _ d x n => guard g && v d && v x && imm n
  | .fcls g _ d x => guard g && v d && v x
  | .ffix g _ _ d x => guard g && v d && v x
  | .fflt g _ d x => guard g && v d && v x
  | .fcvt g t m d x j => guard g && v d && v x && j ≤ 2 && (t == .f9 || m == .wrap)
  | .frnd g _ _ d x => guard g && v d && v x
  | .dot g t d x y => guard g && narrow t && v d && v x && v y
  | .dotf g _ d x y => guard g && v d && v x && v y
  | .cmul g _ _ d x y => guard g && vPair d && vPair x && vPair y
  | .sadd g p _ d x y => guard g && sp p d && sp p x && sp p y
  | .ssub g p _ d x y => guard g && sp p d && sp p x && sp p y
  | .smul g p _ d x y => guard g && sp p d && sp p x && sp p y
  | .smad g p _ d x y => guard g && sp p d && sp p x && sp p y
  | .smin g p d x y => guard g && sp p d && sp p x && sp p y
  | .smax g p d x y => guard g && sp p d && sp p x && sp p y
  | .scmp g p k x y => guard g && c k && sp p x && sp p y
  | .sshl g p _ d x y => guard g && sp p d && sp p x && s y
  | .sshr g p d x y => guard g && sp p d && sp p x && s y
  | .smov g p d x => guard g && sp p d && sp p x
  | .sldi g d n => guard g && s d && word n
  | .sget g d i => guard g && i ≤ 33 && sgetDest i d
  | .vrd g d x l => guard g && s d && v x && l < 32
  | .sbc g p d x => guard g && (if p then vPair d else v d) && sp p x
  | .sbal g d k _ => guard g && sPair d && c k
  | .aadd g d x y => guard g && a d && a x && s y
  | .amov g d x => guard g && a d && a x
  | .aset g d x => guard g && a d && sPair x
  | .aget g d sel =>
    guard g && (match sel with | .spc => vPair d | .reg r => sPair d && a r | _ => sPair d)
  | .lea g _ d x y => guard g && a d && a x && s y
  | .bar g n y => guard g && n ≤ 26 && s y
  | .bara g n y => guard g && n ≤ 26 && s y
  | .barw g n => guard g && n ≤ 26
  | .matchV g _ d x => guard g && v d && v x
  | .vote g _ d k _ => guard g && c d && c k
  | .ldI g t d x n => guard g && ve t d && a x && imm n
  | .ldL g t d x e => guard g && ve t d && a x && memExt e
  | .stI g t d x n => guard g && ve t d && a x && imm n
  | .stL g t d x e => guard g && ve t d && a x && memExt e
  | .lduI g t d x n => guard g && uniformElem t && sp (t == .p) d && a x && imm n
  | .lduL g t d x n => guard g && uniformElem t && sp (t == .p) d && a x && word n
  | .stuI g t d x n => guard g && uniformElem t && sp (t == .p) d && a x && imm n
  | .stuL g t d x n => guard g && uniformElem t && sp (t == .p) d && a x && word n
  | .ldsI g p d x n => guard g && (if p then vPair d else v d) && a x && imm n
  | .ldsL g p d x e => guard g && (if p then vPair d else v d) && a x && memExt e
  | .stsI g p d x n => guard g && (if p then vPair d else v d) && a x && imm n
  | .stsL g p d x e => guard g && (if p then vPair d else v d) && a x && memExt e
  | .ldh g k t sat d x e =>
    guard g && kindType k t && !(k == .packed && sat) && ve t d && a x && memExt e
  | .sth g k t sat d x e =>
    guard g && kindType k t && !(k == .packed && sat) && ve t d && a x && memExt e
  | .dpf g x y => guard g && a x && s y
  | .cwb g x y => guard g && a x && s y
  | .cinv g x y => guard g && a x && s y
  | .atom g t sat d x y e =>
    guard g && atomElem t && ve t d && a x && ve t y && atomExt t sat e
  | .atoms g t sat d x y e =>
    guard g && atomsElem t && ve t d && a x && ve t y && atomExt t sat e
  | .red g t sat x y e =>
    guard g && atomElem t && a x && ve t y && atomExt t sat e && redExt e
  | .acq g _ _ d x y => guard g && v d && a x && v y
  | .rel g _ _ d x y => guard g && v d && a x && v y
  | .bind g k x y _ n => guard g && c k && a x && a y && s n
  | .unbind g x y => guard g && a x && opt a y
  | .fence g _ => guard g
  | .fencex g _ _ => guard g
  | .waitw g _ d x y => guard g && v d && a x && v y
  | .wake g _ _ x => guard g && a x
  | .emit g k x q => guard g && c k && v x && q ≤ 8
  | .spz g n act =>
    guard g && n ≤ 2 &&
      (match act with
       | .remove => true
       | .configure x y base tiles =>
         a x && a y && base ≤ 177146 && decide (1 ≤ tiles) && tiles ≤ 6561)
  | .cpt g t sat d x y e =>
    guard g && a d && a x && s y && copyCtl e && y + 3 * e.dims ≤ 81 &&
      (match e.kind with | some k => !(k == .packed && sat) | none => !sat) && ve t 0
  | .cpm g _ d x y e =>
    guard g && a d && a x && s y && copyCtl e && y + 3 * e.dims + 4 ≤ 81 &&
      e.kind.isNone && e.map.isNone
  | .cpg g t _ d x y e =>
    guard g && gridElem t && a d && a x && s y && gridCtl e && y + 4 * e.dims + 1 ≤ 81
  | .cpf g t d x y e =>
    guard g && a d && sp (t == .p) x && s y && copyCtl e && y + 3 * e.dims ≤ 81 &&
      e.kind.isNone && !e.srcSp && !e.option
  | .cpw g _ _ d x _ => guard g && a d && s x
  | .xff g _ _ d x e => guard g && a d && a x && sig e.sig
  | .xfi g _ _ d x e => guard g && a d && a x && sig e.sig && !e.half
  | .mma g f d x y p q =>
    guard g && m d && matSrc true p && matSrc false q && sPair y &&
      (match p with | .regs => vRange x (aWords f) | _ => sPair x)
  | .mmc g t d x y e =>
    guard g && m d && d % 2 == 0 && d ≤ 7 && sPair y && mmcCtl e &&
      (match e.wsrc with
       | .regs => vPair x && vRange x (wRegs t e.blocks)
       | _ => sPair x)
  | .mzr g d => guard g && m d
  | .mld g d x _ => guard g && m d && a x
  | .mst g t _ d x e =>
    guard g && m d && a x && moveCtl e && gridElem t
  | .mrd g d k col =>
    guard g && m k && (match col with | some n => v d && n ≤ 26 | none => vRange d 27)
  | .mwr g k x col =>
    guard g && m k && (match col with | some n => v x && n ≤ 26 | none => vRange x 27)
  | .mtag g d x => guard g && m d && s x
  | .thnd g d x n => guard g && sPair d && a x && word n
  | .msg g x y _ n => guard g && s x && s y && decide (1 ≤ n) && n ≤ 27 && x + n ≤ 81
  | .trap g k => guard g && decide (-9841 ≤ k) && decide (k ≤ 9841)
  | .tret g x => guard g && opt v x
  | .tmsk g d x => guard g && s d && s x
  | .tcmp g _ x => guard g && sPair x
  | .brk g => guard g
  | .ipf g x y => guard g && s x && s y
  | .ipin g k x y => guard g && c k && s x && s y
  | .iunpin g x y => guard g && s x && s y
  | .grow g k n => guard g && c k && decide (1 ≤ n) && n ≤ 121
  | .shrink g n => guard g && decide (1 ≤ n) && n ≤ 121
  | .issuePick core => core < 512
  | .strandForced _ => true
  | .budgetWindow core => core < 512
  | .sleepExpiry _ lane => lane < 32
  | .timerTrap _ => true
  | .trapDelivery _ => true
  | .waitwEnd _ lane => lane < 32
  | .groupFormTimeout _ _ => true
  | .copyLine _ => true
  | .copyComplete _ => true
  | .transformStage _ => true
  | .transformComplete _ => true
  | .matrixStart _ => true
  | .matrixComplete _ errs => errs.length ≤ 2 ∧ errs.all (fun r => r.all fun e => e.plane < 2 ∧ e.row < 32 ∧ e.col < 27)
  | .matrixEngineReset core => core < 512
  | .messageSend _ => true
  | .messageAccept _ => true
  | .weaveDispatch _ => true
  | .prologueBinding _ => true
  | .prologueComplete _ => true
  | .partitionAssign d p => d < 8 && p < 3
  | .quantumExpiry d p => d < 8 && p < 3
  | .drainDeadlineExpiry d p => d < 8 && p < 3
  | .skidBoundExpiry d p => d < 8 && p < 3
  | .swapOutComplete d p => d < 8 && p < 3
  | .swapDeadlineExpiry d p => d < 8 && p < 3
  | .resume _ => true
  | .contextWatchdog _ => true
  | .operationWatchdog _ => true
  | .beatReceive l _ => l < 32
  | .linkRetrain l => l < 32
  | .packetForward _ => true
  | .peerRead _ => true
  | .peerWrite _ => true
  | .peerAtomic _ => true
  | .dataResponse _ => true
  | .acknowledgement _ => true
  | .refusal _ => true
  | .slotReady _ => true
  | .ticketReservationExpiry d _ => d < 8
  | .message _ => true
  | .messageAccepted _ => true
  | .messageRefused _ => true
  | .sliceWriteback d _ => d < 8
  | .atsTranslationCompletion _ lane _ _ _ => lane ≤ 32
  | .priResponse _ lane _ => lane ≤ 32
  | .atsInvalidation d _ _ _ => d < 8
  | .patrolScrub d _ => d < 8
  | .calibration d _ => d < 8
  | .clockStretch core => core < 512
  | .thermalCap d _ => d < 8
  | .thermalShutdown _ => true
  | .moduleReset n => n ≤ 7
  | .functionLevelReset d => d < 8
  | .adminTail d n => d < 8 && n < 2 ^ 64
  | .adminCtl d n => d < 8 && n < 2 ^ 64
  | .registerWrite d off n => d < 8 && off < 2 ^ 21 && n < 2 ^ 64
  | .apertureRead d off => d < 8 && off < 2 ^ 21
  | .kick d q n => d < 8 && q < 1024 && n < 2 ^ 32
  | .commandFetch _ => true
  | .commandCompletion _ => true
  | .bqiNop _ => true
  | .launch _ => true
  | .graphCreate _ => true
  | .graphRun _ => true
  | .graphDestroy _ => true
  | .copy _ => true
  | .wait _ => true
  | .signal _ => true
  | .query _ => true
  | .contextCreate _ => true
  | .contextDestroy _ => true
  | .contextResume _ => true
  | .queueCreate _ => true
  | .queueDestroy _ => true
  | .exportMem _ => true
  | .importHandle _ => true
  | .revoke _ => true
  | .invalidate _ => true
  | .preempt _ => true
  | .setPartitionMode _ => true
  | .setContextWatchdog _ => true
  | .setDrainDeadline _ => true
  | .setSwapDeadline _ => true
  | .setQuantum _ => true
  | .setHandlerSlots _ => true
  | .setMatrixBudget _ => true
  | .codeLoad _ => true
  | .contextSpill _ => true
  | .spdmRequest bs => bs.all (· < 256)
  | .telemetry _ => true
  | .configStage _ bs => bs.all (· < 256)
  | .powerLimit _ _ => true
  | .captureArm _ d n => d < 8 && n < 256
  | .captureDisarm _ => true
  | .captureRead _ _ _ => true
  | .linkRetrainingComplete l _ => l < 32
  | .hostReadCompletion _ lane => lane < 32
  | .maskedVectorUnmask d n => d < 8 && n < 2048

end Sys2Proof
end

