-- ==== Sys2Proof/Decode.lean ====
section
/-!
DEFINITION. The instruction words (R151 to R169) and their decoder, and after it the encoder.

A word is cut into the fields of its table by `split`, low trit first; every field is read as an
index (R10), and a signed field is that index less the middle of its range. A word that is none of
the 167 cells, or whose fields break a rule of its entry, decodes to `none`: the word case of R168.
-/
namespace Sys2Proof

namespace Enc

/-- The fields of the given lengths, lowest trits first, of a number of base-3 digits. -/
def split : List Nat → Nat → List Nat
  | [], _ => []
  | l :: ls, u => u % 3 ^ l :: split ls (u / 3 ^ l)

/-- The number whose fields, lowest first, are given as (length, index). -/
def join : List (Nat × Nat) → Nat
  | [] => 0
  | (l, v) :: r => v + 3 ^ l * join r

/-- The index of a field of `n` trits that holds 0 (R10, R161). -/
def mid (n : Nat) : Nat := (3 ^ n - 1) / 2

/-- Offset digits of a 27-trit word (R10). -/
def digits (w : Int) : Nat := (w + half 27).toNat

/-- The 27-trit word of a field list, lowest first. -/
def wordOf (fs : List (Nat × Nat)) : Int := (join fs : Int) - half 27

/-- A field's index read as a signed value (R10), and back. -/
def toSigned (n v : Nat) : Int := (v : Int) - half n
def ofSigned (n : Nat) (x : Int) : Nat := (x + half n).toNat

/-- An answer kept only when its fields meet a check. -/
def chk {α : Type} (p : Bool) (x : α) : Option α := if p then some x else none

/-! ### Codes of the operand tables -/

def tests : List Test := [.lt, .eq, .gt, .le, .ne, .ge, .cn, .cp, .ov]
def testCode : Test → Nat
  | .lt => 0 | .eq => 1 | .gt => 2 | .le => 3 | .ne => 4 | .ge => 5 | .cn => 6 | .cp => 7 | .ov => 8

/-- The guard field (R162): selectors 5 to 8, and selector 4 with another test than 0t00, are
malformed. -/
def guardOf (n : Nat) : Option Guard :=
  if n / 9 < 4 then (tests[n % 9]?).map (Guard.on (n / 9))
  else if n = 40 then some .always else none
def guardCode : Guard → Nat
  | .always => 40
  | .on c t => 9 * c + testCode t

/-- Element types (R164). -/
def etypes : List (Option EType) :=
  [some .t1, some .t3, some .t9, some .t27, some .f9, some .f27, some .p, none, none]
def etypeOf (n : Nat) : Option EType := (etypes[n]?).join
def etypeCode : EType → Nat
  | .t1 => 0 | .t3 => 1 | .t9 => 2 | .t27 => 3 | .f9 => 4 | .f27 => 5 | .p => 6

def itypes : List (Option IType) :=
  [some .t1, some .t3, some .t9, some .t27, none, none, some .p, none, none]
def itypeOf (n : Nat) : Option IType := (itypes[n]?).join
def itypeCode : IType → Nat
  | .t1 => 0 | .t3 => 1 | .t9 => 2 | .t27 => 3 | .p => 6

def ftypes : List (Option FType) :=
  [none, none, none, none, some .f9, some .f27, none, none, none]
def ftypeOf (n : Nat) : Option FType := (ftypes[n]?).join
def ftypeCode : FType → Nat
  | .f9 => 4 | .f27 => 5

/-- Modifiers (R164). -/
def fits : List Fit := [.wrap, .sat, .trp]
def fitOf (n : Nat) : Option Fit := fits[n]?
def fitCode : Fit → Nat
  | .wrap => 0 | .sat => 1 | .trp => 2

/-- Modifiers 0 and 1 as a Boolean. -/
def boolOf : Nat → Option Bool
  | 0 => some false
  | 1 => some true
  | _ => none
def boolCode (b : Bool) : Nat := if b then 1 else 0

/-- The type field of uniform instructions: .t27 or .p (R223). -/
def pairOf : Nat → Option Bool
  | 3 => some false
  | 6 => some true
  | _ => none
def pairCode (p : Bool) : Nat := if p then 6 else 3

def scopes : List Scope := [.thd, .snd, .wv, .cl, .die, .pkg, .sys]
def scopeOf (n : Nat) : Option Scope := scopes[n]?
def scopeCode : Scope → Nat
  | .thd => 0 | .snd => 1 | .wv => 2 | .cl => 3 | .die => 4 | .pkg => 5 | .sys => 6

def paths : List Path := [.core, .copy, .matrix, .transform, .message]
def pathCode : Path → Nat
  | .core => 0 | .copy => 1 | .matrix => 2 | .transform => 3 | .message => 4

def kinds : List Kind := [.packed, .i8, .i16, .i32, .n8, .e16, .g16, .e32]
def kindCode : Kind → Nat
  | .packed => 0 | .i8 => 1 | .i16 => 2 | .i32 => 3 | .n8 => 4 | .e16 => 5 | .g16 => 6 | .e32 => 7

def shflDirs : List ShflDir := [.up, .dn, .rot]
def shflCode : ShflDir → Nat
  | .up => 0 | .dn => 1 | .rot => 2

def redOps : List RedOp := [.add, .min, .max]
def redCode : RedOp → Nat
  | .add => 0 | .min => 1 | .max => 2

def scanOps : List ScanOp := [.add, .min, .max, .addEx, .minEx, .maxEx]
def scanCode : ScanOp → Nat
  | .add => 0 | .min => 1 | .max => 2 | .addEx => 3 | .minEx => 4 | .maxEx => 5

def rndDirs : List RndDir := [.near, .floor, .ceil]
def rndCode : RndDir → Nat
  | .near => 0 | .floor => 1 | .ceil => 2

def leaScales : List LeaScale := [.one, .w, .pr, .ln]
def leaCode : LeaScale → Nat
  | .one => 0 | .w => 1 | .pr => 2 | .ln => 3

def voteOps : List VoteOp := [.any, .all, .uni]
def voteCode : VoteOp → Nat
  | .any => 0 | .all => 1 | .uni => 2

def orders : List AtomOrder := [.rlx, .acq, .rel, .ar]
def orderCode : AtomOrder → Nat
  | .rlx => 0 | .acq => 1 | .rel => 2 | .ar => 3

def mmaForms : List MmaForm := [.f9, .t3, .w9, .t1, .f27]
def mmaCode : MmaForm → Nat
  | .f9 => 0 | .t3 => 1 | .w9 => 2 | .t1 => 3 | .f27 => 4

def gridModes : List GridMode := [.restrict, .prolong, .prolongAdd]
def gridModeCode : GridMode → Nat
  | .restrict => 0 | .prolong => 1 | .prolongAdd => 2

def bounds : List Boundary := [.zero, .clamp, .halo]
def boundCode : Boundary → Nat
  | .zero => 0 | .clamp => 1 | .halo => 2

/-- A one-trit field that holds 0 or +1, as its index 1 or 2. -/
def flagOf : Nat → Option Bool
  | 1 => some false
  | 2 => some true
  | _ => none
def flagCode (b : Bool) : Nat := if b then 2 else 1

/-- An optional 5-trit field, present when its one-trit switch is +1, else holding 0. -/
def optOf (on v : Nat) : Option (Option Nat) :=
  match flagOf on with
  | some true => some (some v)
  | some false => chk (v == mid 5) none
  | none => none
def optOn (o : Option Nat) : Nat := flagCode o.isSome
def optVal (o : Option Nat) : Nat := o.getD (mid 5)

/-- Type and modifier fields taken apart. -/
def itFit (ty : Nat) : Option (IType × Fit) := do
  return (← itypeOf (ty % 9), ← fitOf (ty / 9))
def ftFit (ty : Nat) : Option (FType × Fit) := do
  return (← ftypeOf (ty % 9), ← fitOf (ty / 9))
def etSat (ty : Nat) : Option (EType × Bool) := do
  return (← etypeOf (ty % 9), ← boolOf (ty / 9))
def scAll (ty : Nat) : Option (Scope × Bool) := do
  return (← scopeOf (ty % 9), ← boolOf (ty / 9))
def prSat (ty : Nat) : Option (Bool × Bool) := do
  return (← pairOf (ty % 9), ← boolOf (ty / 9))
def ftSat (ty : Nat) : Option (FType × Bool) := do
  return (← ftypeOf (ty % 9), ← boolOf (ty / 9))
/-- A type with modifier 0: the index is the type (R164). -/
def itOnly (ty : Nat) : Option IType := itypeOf ty
def ftOnly (ty : Nat) : Option FType := ftypeOf ty

/-! ### Extension words -/

/-- The extension word of R249: the operand fields and the kind field's index. -/
def memExtOf (w : Int) : Option (MemExt × Nat) :=
  match split [16, 3, 2, 1, 5] (digits w) with
  | [disp, kind, hint, on, ix] => do
    return (⟨← optOf on ix, hint, toSigned 16 disp⟩, kind)
  | _ => none
def memExtWord (x : MemExt) (kind : Nat) : Int :=
  wordOf [(16, ofSigned 16 x.disp), (3, kind), (2, x.hint), (1, optOn x.index), (5, optVal x.index)]

/-- Operation field with pos and len (R261): those two are 0 but for .tins. -/
def atomOpOf (op pos len : Nat) : Option AtomOp :=
  let z := pos == mid 4 && len == mid 4
  match op with
  | 0 => chk z .add | 1 => chk z .min | 2 => chk z .max | 3 => chk z .xchg | 4 => chk z .cas
  | 5 => chk z .tand | 6 => chk z .tor
  | 7 => some (.tins pos (len + 1))
  | _ => none
def atomOpCode : AtomOp → Nat
  | .add => 0 | .min => 1 | .max => 2 | .xchg => 3 | .cas => 4 | .tand => 5 | .tor => 6
  | .tins _ _ => 7
def atomPos : AtomOp → Nat
  | .tins p _ => p
  | _ => mid 4
def atomLen : AtomOp → Nat
  | .tins _ n => n - 1
  | _ => mid 4

/-- The extension word of R261. -/
def atomExtOf (w : Int) : Option AtomExt :=
  match split [6, 4, 4, 1, 5, 2, 1, 2, 2] (digits w) with
  | [res, len, pos, on, ix, sc, all, order, op] => do
    let x : AtomExt := ⟨← atomOpOf op pos len, ← orders[order]?, ← flagOf all, ← scopeOf sc,
      ← optOf on ix⟩
    chk (res == mid 6) x
  | _ => none
def atomExtWord (x : AtomExt) : Int :=
  wordOf [(6, mid 6), (4, atomLen x.op), (4, atomPos x.op), (1, optOn x.index),
    (5, optVal x.index), (2, scopeCode x.scope), (1, flagCode x.all), (2, orderCode x.order),
    (2, atomOpCode x.op)]

/-- The signal fields of R278. -/
def sigOf (trit sc ar sr : Nat) : Option (Option SigCtl) :=
  match trit with
  | 1 => chk (sc == mid 2 && ar == mid 2 && sr == mid 5) none
  | 0 => (scopeOf sc).map fun c => some ⟨true, c, ar, sr⟩
  | 2 => (scopeOf sc).map fun c => some ⟨false, c, ar, sr⟩
  | _ => none
def sigTrit : Option SigCtl → Nat
  | none => 1
  | some x => if x.add then 0 else 2
def sigScope : Option SigCtl → Nat
  | none => mid 2
  | some x => scopeCode x.scope
def sigAddr : Option SigCtl → Nat
  | none => mid 2
  | some x => x.areg
def sigVal : Option SigCtl → Nat
  | none => mid 5
  | some x => x.sreg

/-- The kind field of R281: 0 is no conversion, 1 to 8 is a kind of R88. -/
def copyKindOf (n : Nat) : Option (Option Kind) :=
  if n = 13 then some none else if n < 14 then none else (kinds[n - 14]?).map some
def copyKindCode : Option Kind → Nat
  | none => 13
  | some k => 14 + kindCode k

/-- Copy control word (R281). -/
def copyOf (w : Int) : Option CopyCtl :=
  match split [3, 1, 5, 1, 1, 1, 5, 2, 2, 1, 3, 2] (digits w) with
  | [res, opt, mreg, map, dp, sp, sr, ar, sc, st, kind, dims] => do
    let x : CopyCtl := ⟨dims + 1, ← copyKindOf kind, ← sigOf st sc ar sr, ← flagOf sp, ← flagOf dp,
      ← optOf map mreg, ← flagOf opt⟩
    chk (res == mid 3) x
  | _ => none
def copyWord (x : CopyCtl) : Int :=
  wordOf [(3, mid 3), (1, flagCode x.option), (5, optVal x.map), (1, optOn x.map),
    (1, flagCode x.dstSp), (1, flagCode x.srcSp), (5, sigVal x.sig), (2, sigAddr x.sig),
    (2, sigScope x.sig), (1, sigTrit x.sig), (3, copyKindCode x.kind), (2, x.dims - 1)]

/-- Grid control word (R289). -/
def gridOf (w : Int) : Option GridCtl :=
  match split [3, 3, 1, 1, 5, 2, 2, 1, 1, 1, 1, 2, 2, 2] (digits w) with
  | [res, src, dp, sp, sr, ar, sc, st, s0, s1, s2, bd, mode, dims] => do
    let strides := [← flagOf s0, ← flagOf s1, ← flagOf s2]
    let x : GridCtl := ⟨dims + 1, ← gridModes[mode]?, ← bounds[bd]?, strides, ← sigOf st sc ar sr,
      ← flagOf sp, ← flagOf dp, ← etypeOf src⟩
    chk (res == mid 3) x
  | _ => none
def gridWord (x : GridCtl) : Int :=
  wordOf [(3, mid 3), (3, etypeCode x.src), (1, flagCode x.dstSp), (1, flagCode x.srcSp),
    (5, sigVal x.sig), (2, sigAddr x.sig), (2, sigScope x.sig), (1, sigTrit x.sig),
    (1, flagCode (x.stride.getD 0 false)), (1, flagCode (x.stride.getD 1 false)),
    (1, flagCode (x.stride.getD 2 false)), (2, boundCode x.boundary), (2, gridModeCode x.mode),
    (2, x.dims - 1)]

/-- Transform control word (R293). -/
def xfOf (w : Int) : Option XfCtl :=
  match split [14, 5, 2, 2, 1, 1, 1, 1] (digits w) with
  | [res, sr, ar, sc, st, dp, sp, half] => do
    let x : XfCtl := ⟨← flagOf half, ← flagOf sp, ← flagOf dp, ← sigOf st sc ar sr⟩
    chk (res == mid 14) x
  | _ => none
def xfWord (x : XfCtl) : Int :=
  wordOf [(14, mid 14), (5, sigVal x.sig), (2, sigAddr x.sig), (2, sigScope x.sig),
    (1, sigTrit x.sig), (1, flagCode x.dstSp), (1, flagCode x.srcSp), (1, flagCode x.half)]

/-- A source index with its tile field, which is 0 unless the source is a map (R296, R301). -/
def matSrcOf (src tile : Nat) : Option MatSrc :=
  match src with
  | 0 => chk (tile == mid 3) .regs
  | 1 => some (.map tile)
  | 2 => chk (tile == mid 3) .handle
  | _ => none
def matSrcCode : MatSrc → Nat
  | .regs => 0 | .map _ => 1 | .handle => 2
def matTile : MatSrc → Nat
  | .map t => t
  | _ => mid 3

/-- Matrix control word (R296). -/
def mmaExtOf (w : Int) : Option (MatSrc × MatSrc) :=
  match split [17, 3, 3, 2, 2] (digits w) with
  | [res, bt, at_, bs, as_] => do
    let x := (← matSrcOf as_ at_, ← matSrcOf bs bt)
    chk (res == mid 17) x
  | _ => none
def mmaExtWord (a b : MatSrc) : Int :=
  wordOf [(17, mid 17), (3, matTile b), (3, matTile a), (2, matSrcCode b), (2, matSrcCode a)]

/-- Spectral control word (R301). -/
def mmcOf (w : Int) : Option MmcCtl :=
  match split [1, 2, 6, 1, 2, 5, 3, 3, 2, 2] (digits w) with
  | [res, bl, row, half, block, scale, xt, wt, xs, ws] => do
    let x : MmcCtl := ⟨← matSrcOf ws wt, ← matSrcOf xs xt, toSigned 5 scale, block + 1,
      ← flagOf half, row, bl + 1⟩
    chk (res == mid 1) x
  | _ => none
def mmcWord (x : MmcCtl) : Int :=
  wordOf [(1, mid 1), (2, x.blocks - 1), (6, x.row), (1, flagCode x.half), (2, x.block - 1),
    (5, ofSigned 5 x.scale), (3, matTile x.xsrc), (3, matTile x.wsrc), (2, matSrcCode x.xsrc),
    (2, matSrcCode x.wsrc)]

/-- Tile move control word (R304) of mst. -/
def moveOf (w : Int) : Option MoveCtl :=
  match split [8, 5, 2, 2, 1, 1, 1, 3, 4] (digits w) with
  | [res, sr, ar, sc, st, place, half, cols, rows] => do
    let x : MoveCtl := ⟨rows + 1, cols + 1, ← flagOf half, ← flagOf place, ← sigOf st sc ar sr⟩
    chk (res == mid 8) x
  | _ => none
def moveWord (x : MoveCtl) : Int :=
  wordOf [(8, mid 8), (5, sigVal x.sig), (2, sigAddr x.sig), (2, sigScope x.sig),
    (1, sigTrit x.sig), (1, flagCode x.sp), (1, flagCode x.half), (3, x.cols - 1), (4, x.rows - 1)]

/-- The same word for mld: only the place trit is free (R304; mld names no signal, R278). -/
def mldOf (w : Int) : Option Bool :=
  match split [18, 1, 8] (digits w) with
  | [lo, place, hi] => do
    let p ← flagOf place
    chk (lo == mid 18 && hi == mid 8) p
  | _ => none
def mldWord (sp : Bool) : Int := wordOf [(18, mid 18), (1, flagCode sp), (8, mid 8)]

/-- spz's extension word (R259). -/
def spzOf (w : Int) (a b : Nat) : Option (Nat × SpzAct) :=
  match split [3, 9, 12, 1, 2] (digits w) with
  | [res, tiles, base, act, slot] => do
    let on ← flagOf act
    if on then
      chk (res == mid 3 && mid 9 ≤ tiles && mid 12 ≤ base)
        (slot, .configure a b (base - mid 12) (tiles - mid 9))
    else
      chk (res == mid 3 && tiles == mid 9 && base == mid 12 && a == mid 5 && b == mid 5)
        (slot, .remove)
  | _ => none
def spzWord (slot : Nat) : SpzAct → Int
  | .remove => wordOf [(3, mid 3), (9, mid 9), (12, mid 12), (1, 1), (2, slot)]
  | .configure _ _ base tiles =>
    wordOf [(3, mid 3), (9, mid 9 + tiles), (12, mid 12 + base), (1, 2), (2, slot)]
def spzA : SpzAct → Nat
  | .remove => mid 5
  | .configure a _ _ _ => a
def spzB : SpzAct → Nat
  | .remove => mid 5
  | .configure _ b _ _ => b

/-- A low field over a reserved rest. -/
def lowOf (n : Nat) (w : Int) : Option Nat :=
  match split [n, 27 - n] (digits w) with
  | [x, res] => chk (res == mid (27 - n)) x
  | _ => none
def lowWord (n x : Nat) : Int := wordOf [(n, x), (27 - n, mid (27 - n))]

/-- text and tins (R199). -/
def textOf (w : Int) : Option (Nat × Nat) :=
  match split [4, 4, 19] (digits w) with
  | [len, pos, res] => chk (res == mid 19) (pos, len + 1)
  | _ => none
def textWord (pos len : Nat) : Int := wordOf [(4, len - 1), (4, pos), (19, mid 19)]

/-- bind (R266). -/
def bindOf (w : Int) : Option (Scope × Nat) :=
  match split [20, 5, 2] (digits w) with
  | [res, len, sc] => do
    let c ← scopeOf sc
    chk (res == mid 20) (c, len)
  | _ => none
def bindWord (sc : Scope) (len : Nat) : Int := wordOf [(20, mid 20), (5, len), (2, scopeCode sc)]

/-- msg (R310). -/
def msgOf (w : Int) : Option (Scope × Nat) :=
  match split [22, 3, 2] (digits w) with
  | [res, len, sc] => do
    let c ← scopeOf sc
    chk (res == mid 22) (c, len + 1)
  | _ => none
def msgWord (sc : Scope) (n : Nat) : Int := wordOf [(22, mid 22), (3, n - 1), (2, scopeCode sc)]

/-! ### The opcode map, row by row (R167) -/

/-- An unused operand field (R161) and an unused type field. -/
def un (n : Nat) : Bool := n == 121
def unT (n : Nat) : Bool := n == 13
/-- The I-form immediate (R160). -/
def immOf (b : Nat) : Int := (b : Int) - 121
def immCode (x : Int) : Nat := (x + 121).toNat

def row0 (col ty : Nat) (g : Guard) (d a b : Nat) (x : Int) : Option Instr :=
  match col with
  | 1 => chk (unT ty && un d && un a) (.brI g (immOf b))
  | 2 => chk (unT ty && un d && un a && un b) (.brL g x)
  | 3 => chk (unT ty && un a) (.callI g d (immOf b))
  | 4 => chk (unT ty && un a && un b) (.callL g d x)
  | 5 => chk (unT ty && un d && un b) (.brx g a)
  | 6 => chk (unT ty && un d && un b) (.ret g a)
  | 7 => chk (unT ty && un d && un a && un b) (.exit g)
  | 8 => chk (unT ty && un d && un a && un b) (.nop g)
  | 9 => chk (unT ty && un d && un a && un b) (.yield g)
  | 10 => chk (unT ty && un d && un a) (.sleep g b)
  | _ => none

def row1 (col ty : Nat) (g : Guard) (d a b : Nat) (x : Int) : Option Instr :=
  match col with
  | 0 => (itFit ty).map fun (t, m) => .addV g t m d a b
  | 1 => (itFit ty).map fun (t, m) => .addI g t m d a (immOf b)
  | 2 => (itOnly ty).map fun t => .addc g t d a b
  | 3 => (itFit ty).map fun (t, m) => .sub g t m d a b
  | 4 => (itOnly ty).map fun t => .subc g t d a b
  | 5 => (itOnly ty).bind fun t => chk (un b) (.neg g t d a)
  | 6 => (itOnly ty).bind fun t => chk (un b) (.abs g t d a)
  | 7 => (itOnly ty).map fun t => .minV g t d a b
  | 8 => (itOnly ty).map fun t => .minI g t d a (immOf b)
  | 9 => (itOnly ty).map fun t => .maxV g t d a b
  | 10 => (itOnly ty).map fun t => .maxI g t d a (immOf b)
  | 11 => (itOnly ty).map fun t => .clamp g t d a b
  | 12 => (itFit ty).map fun (t, m) => .mulV g t m d a b
  | 13 => (itFit ty).map fun (t, m) => .mulI g t m d a (immOf b)
  | 14 => (itOnly ty).map fun t => .mulh g t d a b
  | 15 => (itFit ty).map fun (t, m) => .mad g t m d a b
  | 16 => (itOnly ty).map fun t => .div g t d a b
  | 17 => (itOnly ty).map fun t => .mod g t d a b
  | 18 => (itOnly ty).map fun t => .cmpV g t d a b
  | 19 => (itOnly ty).map fun t => .cmpI g t d a (immOf b)
  | 20 => (itOnly ty).bind fun t => chk (un b) (.sgn g t d a)
  | 21 => (itOnly ty).map fun t => .sel g t d a b
  | 22 => (itOnly ty).map fun t => .sat g t d a b
  | 23 => (itOnly ty).bind fun t => chk (un b) (.mov g t d a)
  | 24 => (itOnly ty).bind fun t => chk (un a) (.movi g t d (immOf b))
  | 25 => chk (ty == 3 && un a && un b) (.ldi g d x)
  | _ => none

def row2 (col ty : Nat) (g : Guard) (d a b : Nat) (x : Int) : Option Instr :=
  match col with
  | 0 => (itFit ty).map fun (t, m) => .shlV g t m d a b
  | 1 => (itFit ty).map fun (t, m) => .shlI g t m d a (immOf b)
  | 2 => (itOnly ty).map fun t => .shrV g t d a b
  | 3 => (itOnly ty).map fun t => .shrI g t d a (immOf b)
  | 4 => (itOnly ty).map fun t => .rolV g t d a b
  | 5 => (itOnly ty).map fun t => .rolI g t d a (immOf b)
  | 6 => (itOnly ty).map fun t => .rorV g t d a b
  | 7 => (itOnly ty).map fun t => .rorI g t d a (immOf b)
  | 8 => (itOnly ty).map fun t => .tand g t d a b
  | 9 => (itOnly ty).map fun t => .tor g t d a b
  | 10 => (itOnly ty).map fun t => .tmul g t d a b
  | 11 => (itOnly ty).map fun t => .tcon g t d a b
  | 12 => (itOnly ty).bind fun t => (lowOf 9 x).map fun k => .tlut g t d a b k
  | 13 => (itOnly ty).map fun t => .tcnt g t d a b
  | 14 => (itOnly ty).bind fun t => chk (un b) (.tlz g t d a)
  | 15 => (itOnly ty).bind fun t => (textOf x).bind fun (p, n) => chk (un b) (.text g t d a p n)
  | 16 => (itOnly ty).bind fun t => (textOf x).bind fun (p, n) => chk (un b) (.tins g t d a p n)
  | 17 => (itFit ty).bind fun (t, m) => chk (un b) (.pack g t m d a)
  | 18 => (itOnly ty).bind fun t => chk (un b) (.unpack g t d a)
  | 19 => chk (unT ty) (.perm g d a b)
  | 20 => (shflDirs[ty]?).map fun k => .shfl g k d a b
  | 21 => (itFit ty).bind fun (t, m) => (redOps[b]?).map fun k => .lred g t m k d a
  | 22 => (itFit ty).bind fun (t, m) => (scanOps[b]?).map fun k => .lscan g t m k d a
  | _ => none

def row3 (col ty : Nat) (g : Guard) (d a b : Nat) : Option Instr :=
  match col with
  | 0 => (ftFit ty).map fun (t, m) => .fadd g t m d a b
  | 1 => (ftFit ty).map fun (t, m) => .fsub g t m d a b
  | 2 => (ftFit ty).map fun (t, m) => .fmul g t m d a b
  | 3 => (ftFit ty).map fun (t, m) => .fma g t m d a b
  | 4 => (ftFit ty).map fun (t, m) => .fnma g t m d a b
  | 5 => (ftOnly ty).map fun t => .fmin g t d a b
  | 6 => (ftOnly ty).map fun t => .fmax g t d a b
  | 7 => (ftOnly ty).map fun t => .fcmp g t d a b
  | 8 => (ftOnly ty).bind fun t => chk (un b) (.fabs g t d a)
  | 9 => (ftFit ty).map fun (t, m) => .fdiv g t m d a b
  | 10 => (ftOnly ty).bind fun t => chk (un b) (.fsqrt g t d a)
  | 11 => (ftFit ty).bind fun (t, m) => chk (un b) (.frcp g t m d a)
  | 12 => (ftOnly ty).bind fun t => chk (un b) (.frsq g t d a)
  | 13 => (ftFit ty).bind fun (t, m) => chk (un b) (.fex3 g t m d a)
  | 14 => (ftOnly ty).bind fun t => chk (un b) (.flg3 g t d a)
  | 15 => (ftFit ty).map fun (t, m) => .fsclV g t m d a b
  | 16 => (ftFit ty).map fun (t, m) => .fsclI g t m d a (immOf b)
  | 17 => (ftOnly ty).bind fun t => chk (un b) (.fcls g t d a)
  | 18 => (ftFit ty).bind fun (t, m) => chk (un b && m != .sat) (.ffix g t (m == .trp) d a)
  | 19 => (ftOnly ty).bind fun t => chk (un b) (.fflt g t d a)
  | 20 => (ftFit ty).map fun (t, m) => .fcvt g t m d a b
  | 21 => (ftOnly ty).bind fun t => (rndDirs[b]?).map fun k => .frnd g t k d a
  | 22 => (itOnly ty).map fun t => .dot g t d a b
  | 23 => (ftFit ty).bind fun (t, m) => chk (t == .f9) (.dotf g m d a b)
  | 24 => (ftFit ty).map fun (t, m) => .cmul g t m d a b
  | _ => none

def agetOf (ty a : Nat) : Option AgetSel :=
  match ty with
  | 0 => some (.reg a)
  | 1 => chk (un a) .flt
  | 2 => chk (un a) .hnd
  | 3 => chk (un a) .cmp
  | 4 => chk (un a) .spc
  | _ => none
def agetCode : AgetSel → Nat
  | .reg _ => 0 | .flt => 1 | .hnd => 2 | .cmp => 3 | .spc => 4
def agetA : AgetSel → Nat
  | .reg a => a
  | _ => 121

def row4 (col ty : Nat) (g : Guard) (d a b : Nat) (x : Int) : Option Instr :=
  match col with
  | 0 => (prSat ty).map fun (p, s) => .sadd g p s d a b
  | 1 => (prSat ty).map fun (p, s) => .ssub g p s d a b
  | 2 => (prSat ty).map fun (p, s) => .smul g p s d a b
  | 3 => (prSat ty).map fun (p, s) => .smad g p s d a b
  | 4 => (pairOf ty).map fun p => .smin g p d a b
  | 5 => (pairOf ty).map fun p => .smax g p d a b
  | 6 => (pairOf ty).map fun p => .scmp g p d a b
  | 7 => (prSat ty).map fun (p, s) => .sshl g p s d a b
  | 8 => (pairOf ty).map fun p => .sshr g p d a b
  | 9 => (pairOf ty).bind fun p => chk (un b) (.smov g p d a)
  | 10 => chk (unT ty && un a && un b) (.sldi g d x)
  | 11 => chk (unT ty && un a) (.sget g d b)
  | 12 => chk (unT ty) (.vrd g d a b)
  | 14 => (pairOf ty).bind fun p => chk (un b) (.sbc g p d a)
  | 15 => (tests[b]?).bind fun t => chk (unT ty) (.sbal g d a t)
  | 16 => chk (unT ty) (.aadd g d a b)
  | 17 => chk (unT ty && un b) (.amov g d a)
  | 18 => chk (unT ty && un b) (.aset g d a)
  | 19 => (agetOf ty a).bind fun k => chk (un b) (.aget g d k)
  | 20 => (leaScales[ty]?).map fun k => .lea g k d a b
  | 21 => chk (unT ty && un a) (.bar g d b)
  | 22 => chk (unT ty && un a) (.bara g d b)
  | 23 => chk (unT ty && un a && un b) (.barw g d)
  | 24 => (boolOf ty).bind fun k => chk (un b) (.matchV g k d a)
  | 25 => (voteOps[ty]?).bind fun k => (tests[b]?).map fun t => .vote g k d a t
  | _ => none

def row5 (col ty : Nat) (g : Guard) (d a b : Nat) (x : Int) : Option Instr :=
  let mem := (memExtOf x).bind fun (e, k) => chk (k == mid 3 && un b) e
  let knd := (memExtOf x).bind fun (e, k) => (kinds[k]?).bind fun q => chk (un b) (e, q)
  match col with
  | 0 => (etypeOf ty).map fun t => .ldI g t d a (immOf b)
  | 1 => (etypeOf ty).bind fun t => mem.map fun e => .ldL g t d a e
  | 2 => (etypeOf ty).map fun t => .stI g t d a (immOf b)
  | 3 => (etypeOf ty).bind fun t => mem.map fun e => .stL g t d a e
  | 4 => (etypeOf ty).map fun t => .lduI g t d a (immOf b)
  | 5 => (etypeOf ty).bind fun t => chk (un b) (.lduL g t d a x)
  | 6 => (etypeOf ty).map fun t => .stuI g t d a (immOf b)
  | 7 => (etypeOf ty).bind fun t => chk (un b) (.stuL g t d a x)
  | 8 => (pairOf ty).map fun p => .ldsI g p d a (immOf b)
  | 9 => (pairOf ty).bind fun p => mem.map fun e => .ldsL g p d a e
  | 10 => (pairOf ty).map fun p => .stsI g p d a (immOf b)
  | 11 => (pairOf ty).bind fun p => mem.map fun e => .stsL g p d a e
  | 12 => (etSat ty).bind fun (t, s) => knd.map fun (e, k) => .ldh g k t s d a e
  | 13 => (etSat ty).bind fun (t, s) => knd.map fun (e, k) => .sth g k t s d a e
  | 14 => chk (unT ty && un d) (.dpf g a b)
  | 15 => chk (unT ty && un d) (.cwb g a b)
  | 16 => chk (unT ty && un d) (.cinv g a b)
  | _ => none

def row6 (col ty : Nat) (g : Guard) (d a b : Nat) (x : Int) : Option Instr :=
  match col with
  | 0 => (etSat ty).bind fun (t, s) => (atomExtOf x).map fun e => .atom g t s d a b e
  | 1 => (etSat ty).bind fun (t, s) => (atomExtOf x).map fun e => .atoms g t s d a b e
  | 2 => (etSat ty).bind fun (t, s) => (atomExtOf x).bind fun e => chk (un d) (.red g t s a b e)
  | 3 => (scAll ty).map fun (sc, all) => .acq g sc all d a b
  | 4 => (scAll ty).map fun (sc, all) => .rel g sc all d a b
  | 5 => (bindOf x).bind fun (sc, n) => chk (unT ty) (.bind g d a b sc n)
  | 6 => (boolOf ty).bind fun all =>
      if all then chk (un d && un b) (.unbind g a none) else chk (un d) (.unbind g a (some b))
  | 7 => (scopeOf ty).bind fun sc => chk (un d && un a && un b) (.fence g sc)
  | 8 => (paths[a]?).bind fun p => (paths[b]?).bind fun c => chk (unT ty && un d) (.fencex g p c)
  | 9 => (boolOf ty).map fun sp => .waitw g sp d a b
  | 10 => (scAll ty).bind fun (sc, sp) => chk (un d && un b) (.wake g sc sp a)
  | 11 => chk (unT ty) (.emit g d a b)
  | 12 => (spzOf x a b).bind fun (n, act) => chk (unT ty && un d) (.spz g n act)
  | _ => none

/-- mrd and mwr: a column, or .row with the b field 0 (R307). -/
def colOf (ty b : Nat) : Option (Option Nat) :=
  match ty with
  | 0 => some (some b)
  | 1 => chk (un b) none
  | _ => none

def row7 (col ty : Nat) (g : Guard) (d a b : Nat) (x : Int) : Option Instr :=
  match col with
  | 0 => (etSat ty).bind fun (t, s) => (copyOf x).map fun e => .cpt g t s d a b e
  | 1 => (etypeOf ty).bind fun t => (copyOf x).map fun e => .cpm g t d a b e
  | 2 => (etSat ty).bind fun (t, s) => (gridOf x).map fun e => .cpg g t s d a b e
  | 3 => (etypeOf ty).bind fun t => (copyOf x).map fun e => .cpf g t d a b e
  | 4 => (scAll ty).bind fun (sc, add) => (boolOf b).map fun sp => .cpw g sc add d a sp
  | 5 => (ftSat ty).bind fun (t, s) => (xfOf x).bind fun e => chk (un b) (.xff g t s d a e)
  | 6 => (ftSat ty).bind fun (t, s) => (xfOf x).bind fun e => chk (un b) (.xfi g t s d a e)
  | 7 => (mmaForms[ty]?).bind fun f => (mmaExtOf x).map fun (p, q) => .mma g f d a b p q
  | 8 => (([FType.f9, FType.f27])[ty]?).bind fun f => (mmcOf x).map fun e => .mmc g f d a b e
  | 9 => chk (unT ty && un a && un b) (.mzr g d)
  | 10 => (mldOf x).bind fun sp => chk (unT ty && un b) (.mld g d a sp)
  | 11 => (etSat ty).bind fun (t, s) => (moveOf x).bind fun e => chk (un b) (.mst g t s d a e)
  | 12 => (colOf ty b).map fun c => .mrd g d a c
  | 13 => (colOf ty b).map fun c => .mwr g d a c
  | 14 => chk (unT ty && un b) (.mtag g d a)
  | 15 => chk (unT ty && un b) (.thnd g d a x)
  | 16 => (msgOf x).bind fun (sc, n) => chk (unT ty && un d) (.msg g a b sc n)
  | _ => none

def row8 (col ty : Nat) (g : Guard) (d a b : Nat) (x : Int) : Option Instr :=
  match col with
  | 0 => (lowOf 9 x).bind fun k => chk (unT ty && un d && un a && un b) (.trap g (toSigned 9 k))
  | 1 => (boolOf ty).bind fun set =>
      if set then chk (un d && un b) (.tret g (some a))
      else chk (un d && un a && un b) (.tret g none)
  | 2 => chk (unT ty && un b) (.tmsk g d a)
  | 3 => (boolOf ty).bind fun add => chk (un d && un b) (.tcmp g add a)
  | 4 => chk (unT ty && un d && un a && un b) (.brk g)
  | 5 => chk (unT ty && un d) (.ipf g a b)
  | 6 => chk (unT ty) (.ipin g d a b)
  | 7 => chk (unT ty && un d) (.iunpin g a b)
  | 8 => chk (unT ty && un a) (.grow g d (b - 121))
  | 9 => chk (unT ty && un d && un a) (.shrink g (b - 121))
  | _ => none

/-- The instruction that the fields of a word and its extension word name, before the legality of
its operands is looked at. -/
def decodeFields (op ty gd d a b : Nat) (x : Int) : Option Instr :=
  match guardOf gd with
  | none => none
  | some g =>
    match op / 27 with
    | 0 => row0 (op % 27) ty g d a b x
    | 1 => row1 (op % 27) ty g d a b x
    | 2 => row2 (op % 27) ty g d a b x
    | 3 => row3 (op % 27) ty g d a b
    | 4 => row4 (op % 27) ty g d a b x
    | 5 => row5 (op % 27) ty g d a b x
    | 6 => row6 (op % 27) ty g d a b x
    | 7 => row7 (op % 27) ty g d a b x
    | 8 => row8 (op % 27) ty g d a b x
    | _ => none

/-- The lengths of the fields of R159, lowest first: b, a, d, guard, type, major opcode. -/
def wordLayout : List Nat := [5, 5, 5, 4, 3, 5]

end Enc

open Enc in
/-- Decode a word and the word after it, which is looked at only by L forms (R159, R160). -/
def decode (w x : Int) : Option Instr :=
  match split wordLayout (digits w) with
  | [b, a, d, gd, ty, op] => (decodeFields op ty gd d a b x).filter WellFormed
  | _ => none

namespace Enc

/-- The major opcode of a word, as an index (R165). -/
def opOf (w : Int) : Nat := digits w / 3 ^ 22

/-- The guard field of a word, as an index. -/
def guardField (w : Int) : Nat := digits w / 3 ^ 15 % 81

/-- Cells of the map whose form is L (R167), by index 27 × row + column. -/
def lForms : List Nat :=
  [2, 4] ++ [27 + 25] ++ [54 + 12, 54 + 15, 54 + 16] ++ [108 + 10] ++
  [135 + 1, 135 + 3, 135 + 5, 135 + 7, 135 + 9, 135 + 11, 135 + 12, 135 + 13] ++
  [162, 162 + 1, 162 + 2, 162 + 5, 162 + 12] ++
  [189, 189 + 1, 189 + 2, 189 + 3, 189 + 5, 189 + 6, 189 + 7, 189 + 8, 189 + 10, 189 + 11,
   189 + 15, 189 + 16] ++ [216]

/-- Does a word with this opcode take an extension word (R160, R167)? -/
def isL (op : Nat) : Bool := lForms.contains op

/-- Long-latency operations (R154). -/
def longOps : List Nat :=
  [189, 190, 191, 192, 193, 194, 195, 196, 197, 199, 200, 204, 205]
def isLong (op : Nat) : Bool := longOps.contains op

/-- Control transfers (R156): br, call, brx, ret, exit, tret. -/
def transferOps : List Nat := [1, 2, 3, 4, 5, 6, 7, 217]
def isTransfer (op : Nat) : Bool := transferOps.contains op

/-! ### The encoder -/

/-- A word of the V or I form. -/
def wv (op ty : Nat) (g : Guard) (d a b : Nat) : List Int :=
  [wordOf [(5, b), (5, a), (5, d), (4, guardCode g), (3, ty), (5, op)]]
/-- A word of the L form with its extension word. -/
def wl (op ty : Nat) (g : Guard) (d a b : Nat) (x : Int) : List Int := wv op ty g d a b ++ [x]

def tf (t : IType) (m : Fit) : Nat := itypeCode t + 9 * fitCode m
def ff (t : FType) (m : Fit) : Nat := ftypeCode t + 9 * fitCode m
def es (t : EType) (s : Bool) : Nat := etypeCode t + 9 * boolCode s
def fs (t : FType) (s : Bool) : Nat := ftypeCode t + 9 * boolCode s
def ps (p s : Bool) : Nat := pairCode p + 9 * boolCode s
def sa (c : Scope) (all : Bool) : Nat := scopeCode c + 9 * boolCode all

end Enc

open Enc in
/-- The words of an instruction (R151 to R167); the events have none. -/
def encode (i : Instr) : List Int :=
  match i with
  | .brI g off => wv 1 13 g 121 121 (immCode off)
  | .brL g off => wl 2 13 g 121 121 121 off
  | .callI g d off => wv 3 13 g d 121 (immCode off)
  | .callL g d off => wl 4 13 g d 121 121 off
  | .brx g a => wv 5 13 g 121 a 121
  | .ret g a => wv 6 13 g 121 a 121
  | .exit g => wv 7 13 g 121 121 121
  | .nop g => wv 8 13 g 121 121 121
  | .yield g => wv 9 13 g 121 121 121
  | .sleep g b => wv 10 13 g 121 121 b
  | .addV g t m d a b => wv 27 (tf t m) g d a b
  | .addI g t m d a n => wv 28 (tf t m) g d a (immCode n)
  | .addc g t d a b => wv 29 (itypeCode t) g d a b
  | .sub g t m d a b => wv 30 (tf t m) g d a b
  | .subc g t d a b => wv 31 (itypeCode t) g d a b
  | .neg g t d a => wv 32 (itypeCode t) g d a 121
  | .abs g t d a => wv 33 (itypeCode t) g d a 121
  | .minV g t d a b => wv 34 (itypeCode t) g d a b
  | .minI g t d a n => wv 35 (itypeCode t) g d a (immCode n)
  | .maxV g t d a b => wv 36 (itypeCode t) g d a b
  | .maxI g t d a n => wv 37 (itypeCode t) g d a (immCode n)
  | .clamp g t d a b => wv 38 (itypeCode t) g d a b
  | .mulV g t m d a b => wv 39 (tf t m) g d a b
  | .mulI g t m d a n => wv 40 (tf t m) g d a (immCode n)
  | .mulh g t d a b => wv 41 (itypeCode t) g d a b
  | .mad g t m d a b => wv 42 (tf t m) g d a b
  | .div g t d a b => wv 43 (itypeCode t) g d a b
  | .mod g t d a b => wv 44 (itypeCode t) g d a b
  | .cmpV g t c a b => wv 45 (itypeCode t) g c a b
  | .cmpI g t c a n => wv 46 (itypeCode t) g c a (immCode n)
  | .sgn g t d a => wv 47 (itypeCode t) g d a 121
  | .sel g t d a b => wv 48 (itypeCode t) g d a b
  | .sat g t d a k => wv 49 (itypeCode t) g d a k
  | .mov g t d a => wv 50 (itypeCode t) g d a 121
  | .movi g t d n => wv 51 (itypeCode t) g d 121 (immCode n)
  | .ldi g d n => wl 52 3 g d 121 121 n
  | .shlV g t m d a b => wv 54 (tf t m) g d a b
  | .shlI g t m d a n => wv 55 (tf t m) g d a (immCode n)
  | .shrV g t d a b => wv 56 (itypeCode t) g d a b
  | .shrI g t d a n => wv 57 (itypeCode t) g d a (immCode n)
  | .rolV g t d a b => wv 58 (itypeCode t) g d a b
  | .rolI g t d a n => wv 59 (itypeCode t) g d a (immCode n)
  | .rorV g t d a b => wv 60 (itypeCode t) g d a b
  | .rorI g t d a n => wv 61 (itypeCode t) g d a (immCode n)
  | .tand g t d a b => wv 62 (itypeCode t) g d a b
  | .tor g t d a b => wv 63 (itypeCode t) g d a b
  | .tmul g t d a b => wv 64 (itypeCode t) g d a b
  | .tcon g t d a b => wv 65 (itypeCode t) g d a b
  | .tlut g t d a b k => wl 66 (itypeCode t) g d a b (lowWord 9 k)
  | .tcnt g t d a k => wv 67 (itypeCode t) g d a k
  | .tlz g t d a => wv 68 (itypeCode t) g d a 121
  | .text g t d a p n => wl 69 (itypeCode t) g d a 121 (textWord p n)
  | .tins g t d a p n => wl 70 (itypeCode t) g d a 121 (textWord p n)
  | .pack g t m d a => wv 71 (tf t m) g d a 121
  | .unpack g t d a => wv 72 (itypeCode t) g d a 121
  | .perm g d a b => wv 73 13 g d a b
  | .shfl g k d a b => wv 74 (shflCode k) g d a b
  | .lred g t m k d a => wv 75 (tf t m) g d a (redCode k)
  | .lscan g t m k d a => wv 76 (tf t m) g d a (scanCode k)
  | .fadd g t m d a b => wv 81 (ff t m) g d a b
  | .fsub g t m d a b => wv 82 (ff t m) g d a b
  | .fmul g t m d a b => wv 83 (ff t m) g d a b
  | .fma g t m d a b => wv 84 (ff t m) g d a b
  | .fnma g t m d a b => wv 85 (ff t m) g d a b
  | .fmin g t d a b => wv 86 (ftypeCode t) g d a b
  | .fmax g t d a b => wv 87 (ftypeCode t) g d a b
  | .fcmp g t c a b => wv 88 (ftypeCode t) g c a b
  | .fabs g t d a => wv 89 (ftypeCode t) g d a 121
  | .fdiv g t m d a b => wv 90 (ff t m) g d a b
  | .fsqrt g t d a => wv 91 (ftypeCode t) g d a 121
  | .frcp g t m d a => wv 92 (ff t m) g d a 121
  | .frsq g t d a => wv 93 (ftypeCode t) g d a 121
  | .fex3 g t m d a => wv 94 (ff t m) g d a 121
  | .flg3 g t d a => wv 95 (ftypeCode t) g d a 121
  | .fsclV g t m d a b => wv 96 (ff t m) g d a b
  | .fsclI g t m d a n => wv 97 (ff t m) g d a (immCode n)
  | .fcls g t d a => wv 98 (ftypeCode t) g d a 121
  | .ffix g t trp d a => wv 99 (ff t (if trp then .trp else .wrap)) g d a 121
  | .fflt g t d a => wv 100 (ftypeCode t) g d a 121
  | .fcvt g t m d a j => wv 101 (ff t m) g d a j
  | .frnd g t k d a => wv 102 (ftypeCode t) g d a (rndCode k)
  | .dot g t d a b => wv 103 (itypeCode t) g d a b
  | .dotf g m d a b => wv 104 (ff .f9 m) g d a b
  | .cmul g t m d a b => wv 105 (ff t m) g d a b
  | .sadd g p s d a b => wv 108 (ps p s) g d a b
  | .ssub g p s d a b => wv 109 (ps p s) g d a b
  | .smul g p s d a b => wv 110 (ps p s) g d a b
  | .smad g p s d a b => wv 111 (ps p s) g d a b
  | .smin g p d a b => wv 112 (pairCode p) g d a b
  | .smax g p d a b => wv 113 (pairCode p) g d a b
  | .scmp g p c a b => wv 114 (pairCode p) g c a b
  | .sshl g p s d a b => wv 115 (ps p s) g d a b
  | .sshr g p d a b => wv 116 (pairCode p) g d a b
  | .smov g p d a => wv 117 (pairCode p) g d a 121
  | .sldi g d n => wl 118 13 g d 121 121 n
  | .sget g d i => wv 119 13 g d 121 i
  | .vrd g d a lane => wv 120 13 g d a lane
  | .sbc g p d a => wv 122 (pairCode p) g d a 121
  | .sbal g d c t => wv 123 13 g d c (testCode t)
  | .aadd g d a b => wv 124 13 g d a b
  | .amov g d a => wv 125 13 g d a 121
  | .aset g d a => wv 126 13 g d a 121
  | .aget g d k => wv 127 (agetCode k) g d (agetA k) 121
  | .lea g k d a b => wv 128 (leaCode k) g d a b
  | .bar g n b => wv 129 13 g n 121 b
  | .bara g n b => wv 130 13 g n 121 b
  | .barw g n => wv 131 13 g n 121 121
  | .matchV g cnt d a => wv 132 (boolCode cnt) g d a 121
  | .vote g k d c t => wv 133 (voteCode k) g d c (testCode t)
  | .ldI g t d a n => wv 135 (etypeCode t) g d a (immCode n)
  | .ldL g t d a x => wl 136 (etypeCode t) g d a 121 (memExtWord x 13)
  | .stI g t d a n => wv 137 (etypeCode t) g d a (immCode n)
  | .stL g t d a x => wl 138 (etypeCode t) g d a 121 (memExtWord x 13)
  | .lduI g t d a n => wv 139 (etypeCode t) g d a (immCode n)
  | .lduL g t d a n => wl 140 (etypeCode t) g d a 121 n
  | .stuI g t d a n => wv 141 (etypeCode t) g d a (immCode n)
  | .stuL g t d a n => wl 142 (etypeCode t) g d a 121 n
  | .ldsI g p d a n => wv 143 (pairCode p) g d a (immCode n)
  | .ldsL g p d a x => wl 144 (pairCode p) g d a 121 (memExtWord x 13)
  | .stsI g p d a n => wv 145 (pairCode p) g d a (immCode n)
  | .stsL g p d a x => wl 146 (pairCode p) g d a 121 (memExtWord x 13)
  | .ldh g k t s d a x => wl 147 (es t s) g d a 121 (memExtWord x (kindCode k))
  | .sth g k t s d a x => wl 148 (es t s) g d a 121 (memExtWord x (kindCode k))
  | .dpf g a b => wv 149 13 g 121 a b
  | .cwb g a b => wv 150 13 g 121 a b
  | .cinv g a b => wv 151 13 g 121 a b
  | .atom g t s d a b x => wl 162 (es t s) g d a b (atomExtWord x)
  | .atoms g t s d a b x => wl 163 (es t s) g d a b (atomExtWord x)
  | .red g t s a b x => wl 164 (es t s) g 121 a b (atomExtWord x)
  | .acq g c all d a b => wv 165 (sa c all) g d a b
  | .rel g c all d a b => wv 166 (sa c all) g d a b
  | .bind g c a b sc n => wl 167 13 g c a b (bindWord sc n)
  | .unbind g a b => wv 168 (boolCode b.isNone) g 121 a (b.getD 121)
  | .fence g c => wv 169 (scopeCode c) g 121 121 121
  | .fencex g p c => wv 170 13 g 121 (pathCode p) (pathCode c)
  | .waitw g sp d a b => wv 171 (boolCode sp) g d a b
  | .wake g c sp a => wv 172 (sa c sp) g 121 a 121
  | .emit g c a q => wv 173 13 g c a q
  | .spz g n k => wl 174 13 g 121 (spzA k) (spzB k) (spzWord n k)
  | .cpt g t s d a b x => wl 189 (es t s) g d a b (copyWord x)
  | .cpm g t d a b x => wl 190 (etypeCode t) g d a b (copyWord x)
  | .cpg g t s d a b x => wl 191 (es t s) g d a b (gridWord x)
  | .cpf g t d a b x => wl 192 (etypeCode t) g d a b (copyWord x)
  | .cpw g c add d a sp => wv 193 (sa c add) g d a (boolCode sp)
  | .xff g t s d a x => wl 194 (fs t s) g d a 121 (xfWord x)
  | .xfi g t s d a x => wl 195 (fs t s) g d a 121 (xfWord x)
  | .mma g f d a b p q => wl 196 (mmaCode f) g d a b (mmaExtWord p q)
  | .mmc g t d a b x => wl 197 (ftypeCode t - 4) g d a b (mmcWord x)
  | .mzr g d => wv 198 13 g d 121 121
  | .mld g d a sp => wl 199 13 g d a 121 (mldWord sp)
  | .mst g t s d a x => wl 200 (es t s) g d a 121 (moveWord x)
  | .mrd g d m col => wv 201 (boolCode col.isNone) g d m (col.getD 121)
  | .mwr g m a col => wv 202 (boolCode col.isNone) g m a (col.getD 121)
  | .mtag g d a => wv 203 13 g d a 121
  | .thnd g d a n => wl 204 13 g d a 121 n
  | .msg g a b c n => wl 205 13 g 121 a b (msgWord c n)
  | .trap g k => wl 216 13 g 121 121 121 (lowWord 9 (ofSigned 9 k))
  | .tret g a => wv 217 (boolCode a.isSome) g 121 (a.getD 121) 121
  | .tmsk g d a => wv 218 13 g d a 121
  | .tcmp g add a => wv 219 (boolCode add) g 121 a 121
  | .brk g => wv 220 13 g 121 121 121
  | .ipf g a b => wv 221 13 g 121 a b
  | .ipin g c a b => wv 222 13 g c a b
  | .iunpin g a b => wv 223 13 g 121 a b
  | .grow g c n => wv 224 13 g c 121 (n + 121)
  | .shrink g n => wv 225 13 g 121 121 (n + 121)
  | .issuePick _ => []
  | .strandForced _ => []
  | .budgetWindow _ => []
  | .sleepExpiry _ _ => []
  | .timerTrap _ => []
  | .trapDelivery _ => []
  | .waitwEnd _ _ => []
  | .groupFormTimeout _ _ => []
  | .copyLine _ => []
  | .copyComplete _ => []
  | .transformStage _ => []
  | .transformComplete _ => []
  | .matrixStart _ => []
  | .matrixComplete _ _ => []
  | .matrixEngineReset _ => []
  | .messageSend _ => []
  | .messageAccept _ => []
  | .weaveDispatch _ => []
  | .prologueBinding _ => []
  | .prologueComplete _ => []
  | .partitionAssign _ _ => []
  | .quantumExpiry _ _ => []
  | .drainDeadlineExpiry _ _ => []
  | .skidBoundExpiry _ _ => []
  | .swapOutComplete _ _ => []
  | .swapDeadlineExpiry _ _ => []
  | .resume _ => []
  | .contextWatchdog _ => []
  | .operationWatchdog _ => []
  | .beatReceive _ _ => []
  | .linkRetrain _ => []
  | .packetForward _ => []
  | .peerRead _ => []
  | .peerWrite _ => []
  | .peerAtomic _ => []
  | .dataResponse _ => []
  | .acknowledgement _ => []
  | .refusal _ => []
  | .slotReady _ => []
  | .ticketReservationExpiry _ _ => []
  | .message _ => []
  | .messageAccepted _ => []
  | .messageRefused _ => []
  | .sliceWriteback _ _ => []
  | .atsTranslationCompletion _ _ _ _ _ => []
  | .priResponse _ _ _ => []
  | .atsInvalidation _ _ _ _ => []
  | .patrolScrub _ _ => []
  | .calibration _ _ => []
  | .clockStretch _ => []
  | .thermalCap _ _ => []
  | .thermalShutdown _ => []
  | .moduleReset _ => []
  | .functionLevelReset _ => []
  | .adminTail _ _ => []
  | .adminCtl _ _ => []
  | .registerWrite _ _ _ => []
  | .apertureRead _ _ => []
  | .kick _ _ _ => []
  | .commandFetch _ => []
  | .commandCompletion _ => []
  | .bqiNop _ => []
  | .launch _ => []
  | .graphCreate _ => []
  | .graphRun _ => []
  | .graphDestroy _ => []
  | .copy _ => []
  | .wait _ => []
  | .signal _ => []
  | .query _ => []
  | .contextCreate _ => []
  | .contextDestroy _ => []
  | .contextResume _ => []
  | .queueCreate _ => []
  | .queueDestroy _ => []
  | .exportMem _ => []
  | .importHandle _ => []
  | .revoke _ => []
  | .invalidate _ => []
  | .preempt _ => []
  | .setPartitionMode _ => []
  | .setContextWatchdog _ => []
  | .setDrainDeadline _ => []
  | .setSwapDeadline _ => []
  | .setQuantum _ => []
  | .setHandlerSlots _ => []
  | .setMatrixBudget _ => []
  | .codeLoad _ => []
  | .contextSpill _ => []
  | .spdmRequest _ => []
  | .telemetry _ => []
  | .configStage _ _ => []
  | .powerLimit _ _ => []
  | .captureArm _ _ _ => []
  | .captureDisarm _ => []
  | .captureRead _ _ _ => []
  | .linkRetrainingComplete _ _ => []
  | .hostReadCompletion _ _ => []
  | .maskedVectorUnmask _ _ => []

/-! ### The host's probe -/

/-- Six bytes of a word image, lowest first. -/
def wordBytesOf (w : Nat) : List Nat := (List.range 6).map fun k => w / 256 ^ k % 256

/-- The word that six bytes of the element packing hold (R86); none for a code above 242 or a
nonzero pad trit. -/
def wordOfBytes : List Nat → Option Int
  | [b0, b1, b2, b3, b4, b5] =>
    if b0 < 243 ∧ b1 < 243 ∧ b2 < 243 ∧ b3 < 243 ∧ b4 < 243 ∧ b5 < 243 ∧ b5 / 9 = 13 then
      some ((b0 + 3 ^ 5 * b1 + 3 ^ 10 * b2 + 3 ^ 15 * b3 + 3 ^ 20 * b4 + 3 ^ 25 * (b5 % 9) : Nat)
        - half 27)
    else none
  | _ => none

/-- The two words of a bit image: 48 bits a word, the element packing of R86, first word lowest. -/
def tableWords (w : Nat) : Option (Int × Int) := do
  let a ← wordOfBytes (wordBytesOf w)
  let b := (wordOfBytes (wordBytesOf (w / 2 ^ 48))).getD 0
  return (a, b)

/-- The instruction that the decoder reads from a bit image (the image of a word is its six
element-packed bytes, R86). -/
def decodeTableWord (_nbits w : Nat) : Option Instr :=
  match tableWords w with
  | some (a, b) => decode a b
  | none => none

end Sys2Proof
end

