-- ==== Sys2Proof/Machine/Tables.lean ====
section
/-!
DEFINITION. Finite tables and sparse cells, both sorted by key so that equal contents are equal
data. A `Cells` lists only what differs from 0, the value every device line, scratchpad word and
register holds until it is written (R46, R368, R428).
-/
namespace Sys2Proof.Machine

/-- Insertion sort: `le a b` says that `a` may stand before `b`; equal items keep their order. -/
def insertBy {α : Type} (le : α → α → Bool) (x : α) : List α → List α
  | [] => [x]
  | y :: ys => if le x y && !le y x then x :: y :: ys else y :: insertBy le x ys

def sortBy {α : Type} (le : α → α → Bool) (xs : List α) : List α := xs.foldl (fun r x => insertBy le x r) []

/-- The first least element of a list. -/
def leastBy {α : Type} (le : α → α → Bool) : List α → Option α
  | [] => none
  | x :: xs => some (xs.foldl (fun m y => if le m y then m else y) x)

/-- A table: (key, entry) pairs, keys strictly rising. -/
abbrev Tbl (α : Type) := List (Nat × α)

namespace Tbl

variable {α : Type}

def get? : Tbl α → Nat → Option α
  | [], _ => none
  | (k, v) :: r, n => if n = k then some v else get? r n

def put : Tbl α → Nat → α → Tbl α
  | [], n, x => [(n, x)]
  | (k, v) :: r, n, x =>
    if n < k then (n, x) :: (k, v) :: r
    else if n = k then (n, x) :: r
    else (k, v) :: put r n x

def del (t : Tbl α) (n : Nat) : Tbl α := t.filter fun x => x.1 != n

/-- Change the entry of a key that the table holds. -/
def upd (t : Tbl α) (n : Nat) (f : α → α) : Tbl α :=
  match get? t n with
  | some x => put t n (f x)
  | none => t

def keys (t : Tbl α) : List Nat := t.map Prod.fst
def vals (t : Tbl α) : List α := t.map Prod.snd

end Tbl

/-- Sparse words: keys strictly rising, no entry 0. -/
abbrev Cells := List (Nat × Int)

namespace Cells

/-- What a key reads as: 0 where nothing is listed. -/
def get : Cells → Nat → Int
  | [], _ => 0
  | (k, v) :: r, n => if n = k then v else get r n

/-- Write a key; writing 0 removes its entry. -/
def put : Cells → Nat → Int → Cells
  | [], n, x => if x = 0 then [] else [(n, x)]
  | (k, v) :: r, n, x =>
    if n < k then (if x = 0 then (k, v) :: r else (n, x) :: (k, v) :: r)
    else if n = k then (if x = 0 then r else (n, x) :: r)
    else (k, v) :: put r n x

/-- Keys strictly rise from a bound. -/
def rising : Nat → Cells → Bool
  | _, [] => true
  | b, (k, v) :: r => decide (b ≤ k) && v != 0 && rising (k + 1) r

/-- The canonical form. -/
def wf (c : Cells) : Bool := rising 0 c

/-- Write a run of keys. -/
def putRun (c : Cells) (n : Nat) : List Int → Cells
  | [] => c
  | x :: xs => putRun (put c n x) (n + 1) xs

/-- Read a run of keys. -/
def getRun (c : Cells) (n len : Nat) : List Int := (List.range len).map fun i => get c (n + i)

/-- Drop the keys from `lo` up to `hi - 1`. -/
def clear (c : Cells) (lo hi : Nat) : Cells := c.filter fun (k, _) => decide (k < lo) || decide (hi ≤ k)

end Cells

end Sys2Proof.Machine
end

