-- ==== Sys2Proof/Machine/State.lean ====
section
/-!
DEFINITION. The state of one AQ729-M8 module, as plain data (R46 to R62 and the hardware chapters),
what a step may stop with, and the state after module reset (R428).
-/
namespace Sys2Proof.Machine

/-- No step of this machine stops with a fault: a hardware fault (R318) is a next state, in which
the context halts (R319). -/
inductive Fault where
  /-- Raised by no definition; kept so that the type names what it would mean. Safe. -/
  | noNextStep
  deriving DecidableEq, Repr

inductive Refusal where
  /-- Raised by the dispatcher alone, for a constructor that has no meaning yet. Safe. -/
  | notModelled (mnemonic : String)
  deriving DecidableEq, Repr

/-! ### Threads and strands (R19 to R26, R46 to R59) -/

/-- Condition register (R51). -/
structure Cond where
  sign : Int := 0
  carry : Int := 0
  ovf : Int := 0
  deriving DecidableEq, Repr, Inhabited

/-- A tryte's place: at a home of a die, or in an owner's exported object (R399). -/
inductive Place where
  | home (key : Nat) (comp : Bool)
  | peer (owner exp off : Nat)
  deriving DecidableEq, Repr

/-- A wait of waitw (R270): where, what it must differ from, and the register written. A device word is at
three tryte keys of `State.mem`, a window word is one scratchpad word. -/
structure Wait where
  sp : Bool
  locs : List Nat
  ptr : Int
  val : Int
  dest : Nat
  /-- Header of the waitw's clause, and the words before it (R326, R334). -/
  header : Int := 0
  before : Nat := 0
  /-- The word's value at the write or wake that ends the wait (R270, R271). -/
  seen : Option Int := none
  /-- The places of a word that the core reads at its owner's tracker (R399, R401), none where the home is at hand; and
  the waitw's instruction word, which each such read carries (R393). -/
  places : List Place := []
  word : Int := 0
  /-- A write has ended the wait, and the word has still to be read again at its owner. -/
  asks : Bool := false
  deriving DecidableEq, Repr

/-- Where a thread stands (R22, R25, R232, R245). -/
inductive TStatus where
  | absent | ended | exiting | ready | inGrow | inTret
  | bar (n : Nat)
  | barw (n : Nat)
  | asleep (until_ : Nat)
  | waiting (w : Wait)
  deriving DecidableEq, Repr

structure Thread where
  status : TStatus
  pc : Int := 0
  pos : Nat := 0
  savedPc : Int := 0
  savedPos : Nat := 0
  age : Nat := 0
  v : Cells := []
  c : List Cond := List.replicate 4 {}
  marks : List Nat := []
  inHandler : Bool := false
  /-- It executed trap while delivery was held back, and stays ineligible until delivery (R238). -/
  awaits : Bool := false
  /-- The barrier to which tret returns the thread, and whether by barw, for as long as the round that
  marked it is open (R238). -/
  ret : Option (Nat × Bool) := none
  jump : Option Int := none
  deriving DecidableEq, Repr

/-- Trap mask (R56), one Boolean per trit that holds 0 or +1. -/
structure Mask where
  global : Bool := false
  timer : Bool := false
  range : Bool := false
  ovf : Bool := false
  divide : Bool := false
  invalid : Bool := false
  brk : Bool := false
  deriving DecidableEq, Repr

/-- The trap cause when no trap is pending or handled (R56). -/
def causeNone : Int := -3671583974253

/-- The attribute word of a clean tile (R53). -/
def attrClean : Int := -3811055350293

/-- Accumulator tile (R52, R53): word (r, c) under key 27r + c. -/
structure Tile where
  attr : Int := attrClean
  w : Cells := []
  deriving DecidableEq, Repr

/-- A register that R47 can name: class by the index of R325, lane, number. -/
structure RegName where
  cls : Nat
  lane : Nat
  idx : Nat
  deriving DecidableEq, Repr

/-- A fault as its stop record tells it (R318, R325). -/
structure FaultInfo where
  code : Nat
  pos : Nat := 0
  lane : Nat := 0
  cls : Nat := 0
  reg : Nat := 0
  addr : Option Int := none
  deriving DecidableEq, Repr, Inhabited

/-- A pick in progress (R25): its clause's words, the number already issued, its long-latency
words so far, and the access group its word in progress waits for. -/
structure Pick where
  header : Int
  pos : Nat
  lanes : List Nat
  words : List Int
  longs : Nat := 0
  flagA : Option Nat := none
  flagB : Option Nat := none
  yield : Bool := false
  busy : Option Nat := none
  /-- The budget window in which it was formed (R354). -/
  window : Nat := 0
  deriving DecidableEq, Repr

/-- A replay entry (R327). -/
structure Replay where
  lane : Nat
  once : Bool
  w0 : Int
  w1 : Int
  addr : Int
  data : Int
  expect : Int
  deriving DecidableEq, Repr

structure Strand where
  weave : Nat
  number : Nat
  core : Nat
  handler : Bool := false
  granules : Nat
  tiles : Tbl Tile := []
  threads : List Thread
  s : Cells := []
  a : Cells := []
  flags : List Bool := List.replicate 12 false
  cause : Int := causeNone
  trapLanes : List Nat := []
  pending : Bool := false
  heldTrap : Option (Int × List Nat) := none
  faultAddr : Int := 0
  mask : Mask := {}
  handlerPc : Int := 0
  comparator : Int := half 45
  starve : Nat := 0
  forced : Bool := false
  yielded : Bool := false
  stall : Nat := 0
  pick : Option Pick := none
  bad : List RegName := []
  fault : Option FaultInfo := none
  replay : List Replay := []
  deriving DecidableEq, Repr

/-! ### Weaves, cores, clusters (R30 to R32, R41, R60, R357 to R360) -/

/-- Named barrier (R235). -/
structure Barrier where
  expected : Option Nat := none
  arrivals : Nat := 0
  deriving DecidableEq, Repr

/-- A configured compressed-region slot (R259): its extension word, and window words. -/
structure Slot where
  ext : Int
  view : Nat
  table : Nat
  base : Nat
  tiles : Nat
  deriving DecidableEq, Repr

structure Weave where
  die : Nat
  ctx : Nat
  launch : Nat
  num : Nat := 0
  wx : Nat := 0
  wy : Nat := 0
  wz : Nat := 0
  shape : List Nat := [1, 1, 1]
  nstrands : Nat := 1
  pass : Nat := 0
  part : Nat := 0
  cluster : Nat
  base : Nat := 0
  len : Nat := 0
  slots : List (Option Slot) := [none, none, none]
  /-- The extension word last issued for each slot (R328). -/
  exts : List Int := [0, 0, 0]
  barriers : List Barrier := List.replicate 27 {}
  age : Nat := 0
  codeBase : Int
  codeSize : Nat
  recPtr : Int := 0
  succ : List Nat := []
  /-- Binding entries not yet carried out, by their pointers (R347), and whether strands may issue. -/
  bindings : List Int := []
  ready : Bool := true
  failed : Bool := false
  /-- Tiles of strands that have ended, by core: they are free only when the weave ends (R22). -/
  spent : List (Nat × Nat) := []
  deriving DecidableEq, Repr

/-- A line of the first-level data cache (R359): home line key, trytes, keep hint. -/
structure DLine where
  line : Nat
  trytes : List Int
  keep : Bool
  /-- Strands that have read some of its trytes at their homes and found them newer than the line has them: (strand, place
  in the line). The line serves them no more for these (R102, R103, log 31). -/
  behind : List (Nat × Nat) := []
  /-- Trytes that the line does not serve: its own that could not be corrected as it was read (R432), and, in an access that
  takes trytes of both, those at another resident line's ends that were older there than at their homes (R104). -/
  apart : List Nat := []
  deriving DecidableEq, Repr

/-- A line of the instruction cache (R359): its context, the pointer its first tryte was fetched by, home line key and
trytes. -/
structure ILine where
  ctx : Nat
  first : Int
  line : Nat
  trytes : List Int
  deriving DecidableEq, Repr

/-- A leaf of a page table (R370). -/
structure Leaf where
  peer : Bool
  big : Bool
  r : Bool
  w : Bool
  x : Bool
  comp : Bool
  tiled : Bool
  handle : Nat
  frame : Nat
  deriving DecidableEq, Repr

/-- A TLB entry (R372): context, the pointer trits above the page offset, leaf. -/
structure TlbEntry where
  ctx : Nat
  page : Nat
  leaf : Leaf
  deriving DecidableEq, Repr

/-- A queued grow (R43): strand, granules, condition register, lanes. -/
structure GrowReq where
  strand : Nat
  n : Nat
  c : Nat
  lanes : List Nat
  deriving DecidableEq, Repr

/-- The B latch (R383): key, whether it holds the X operand of an mmc, and the operand, row by row. -/
structure Latch where
  weave : Nat
  src : MatSrc
  pair : Int
  spectral : Bool
  rows : List (List Int)
  deriving DecidableEq, Repr

structure Core where
  /-- Reference cycles that a stretched clock lost to this core (R6, R355). -/
  lost : Nat := 0
  /-- The core's present cycle (R355): 0 not stretched, 1 it lasts one reference cycle more, 2 that has passed. -/
  stretch : Nat := 0
  reruns : Nat := 0
  /-- Caches and TLB, the entry used last first. -/
  dcache : List DLine := []
  icache : List ILine := []
  tlb : List TlbEntry := []
  /-- Pinned code lines by context and pointer of their first tryte (R246). -/
  pins : List (Nat × Int) := []
  growQ : List GrowReq := []
  /-- Budget window (R354): its number, the budget in force, the words used. -/
  window : Nat := 0
  budget : Nat := 81
  used : Nat := 0
  latch : Option Latch := none
  /-- Strands that issued in this cycle (R28). -/
  issued : List Nat := []
  deriving DecidableEq, Repr, Inhabited

/-- A message that a cluster's message unit has accepted, as its receive buffer holds it (R386): the context of its
handler, the handler table's entry, the payload, and the sender for s80 (R311). -/
structure Letter where
  ctx : Nat
  handler : Nat
  payload : List Int
  sender : Nat
  deriving DecidableEq, Repr

structure Cluster where
  scratch : Cells := []
  /-- Scratchpad words whose check code fails, with the trits in error (R432). -/
  bad : Tbl Nat := []
  /-- The copy-engine operation that had the last turn (R377). -/
  served : Nat := 0
  /-- The second-level TLB, the entry used last first (R372). -/
  tlb : List TlbEntry := []
  /-- The message unit's receive buffer, oldest first (R386). -/
  inbox : List Letter := []
  deriving DecidableEq, Repr, Inhabited

/-! ### Engine operations (R276 to R314, R329, R376 to R386) -/

inductive Unit_ where
  | copy | transform | matrix | message | none
  deriving DecidableEq, Repr

/-- Where an operation stands. `dropped` is a binding entry that was refused (R347). `host a` waits for the translation of a
host address, `again` after a page request that succeeded. -/
inductive Phase where
  | queued | active | written | dropped
  /-- Peer writes of a line are under way; the line ends before this element (R379). -/
  | writing (next : Nat)
  /-- The peer write of a signal is under way. -/
  | signalling
  | host (addr : Nat) (write again : Bool)
  | hostPri (addr : Nat) (write : Bool)
  | sent (pkt : Nat)
  | retry (until_ : Nat)
  | prologue
  deriving DecidableEq, Repr

structure EngOp where
  i : Instr
  w0 : Int
  w1 : Int
  unit : Unit_
  strand : Option Nat
  weave : Nat
  die : Nat
  ctx : Nat
  cluster : Nat
  core : Nat
  flag : Nat
  vd : Int := 0
  va : Int := 0
  vsig : Int := 0
  sval : Int := 0
  block : List Int := []
  lanes : List Nat := []
  regs : List (List Int) := []
  prog : Nat := 0
  phase : Phase := .queued
  /-- What the engine was to write for its first unfinished line (R379), and the elements that it leaves
  unwritten for their range exceptions (R285). -/
  buffer : Option (List Int) := none
  skips : List Nat := []
  /-- Where the elements of the buffer end, or the output words of a transform that stand written before one that faulted; 0
  for neither. -/
  upTo : Nat := 0
  /-- A matrix operation whose operands were being read as its core's latch was dropped by a fencex (R298). -/
  fenced : Bool := false
  /-- Peer trytes read for the line or tile at hand, by their places, answer by answer (R104, R377, R393). -/
  got : List (List (Place × Int)) := []
  /-- A cpm's common slice as far as it has been read (R286), or the descriptor that a mld or transform has
  read (R130). -/
  common : List Int := []
  z : List Int := []
  /-- A cpt's range trap is possible (R315), and the first source address that met one (R285). -/
  trapOk : Bool := false
  hit : Option Int := none
  slots : List (Option Slot) := [none, none, none]
  /-- Operations a cpw waits for (R288). -/
  waits : List Nat := []
  issuedAt : Nat := 0
  movedAt : Nat := 0
  fault : Option FaultInfo := none
  deriving DecidableEq, Repr

/-! ### Accesses in flight: host and peer (R253, R323, R373, R399 to R404) -/

inductive AccKind where
  | load | store | atomic
  deriving DecidableEq, Repr

inductive AccPhase where
  | xlate (again : Bool)
  | pri | ready | sent | done
  | refused (ticket : Bool)
  | failed (code : Nat)
  deriving DecidableEq, Repr

/-- A region bound to an object (R107): object pointer, base pointer, length, scope. -/
structure Binding where
  obj : Int
  base : Int
  len : Nat
  scope : Scope
  deriving DecidableEq, Repr

/-- One access in flight, of a lane or of an engine. `addr` is its pointer (R327); a peer access also names its
owner, export and offset, and its places one by one where they do not follow on from there. -/
structure Acc where
  group : Nat
  strand : Nat
  lane : Nat
  once : Bool := false
  replay : Bool := false
  i : Instr
  w0 : Int
  w1 : Int
  addr : Int
  kind : AccKind
  size : Nat
  data : Int := 0
  expect : Int := 0
  peer : Option (Nat × Nat × Nat) := none
  split : List Place := []
  /-- The home keys of a peer access: its location (R119). -/
  keys : List Nat := []
  /-- The engine that requests, by its requester number (R393); the group is then its operation. -/
  eng : Option Nat := none
  /-- The core whose prefetch of a line this is, by its requester number (R272, R401). -/
  prefetch : Option Nat := none
  /-- An acquire's bindings at its issue (R108). -/
  bound : List Binding := []
  phase : AccPhase := .xlate false
  result : List Int := []
  seq : Nat := 0
  deriving DecidableEq, Repr

/-- An entry of a function's translation cache (R373). -/
structure AtsEntry where
  pasid : Nat
  base : Nat
  size : Nat
  r : Bool
  w : Bool
  deriving DecidableEq, Repr

/-- Packet types of R393. -/
inductive PktType where
  | read | write | atomic | dataResponse | acknowledgement | refusal | slotReady
  | message | messageAccepted | messageRefused
  deriving DecidableEq, Repr

inductive Channel where
  | adaptive | e0 | e1
  deriving DecidableEq, Repr

/-- A packet (R393), where it stands, and the access or operation it serves. -/
structure Packet where
  type : PktType
  src : Nat
  dst : Nat
  requester : Nat := 0
  seq : Nat := 0
  export_ : Nat := 0
  offset : Nat := 0
  w0 : Int := 0
  w1 : Int := 0
  status : Nat := 0
  payload : List Int := []
  size : Nat := 0
  split : List Place := []
  beats : Nat := 1
  serves : Nat := 0
  at_ : Nat
  /-- The input port whose slots it takes, by the link that leads there; none where it was injected. -/
  port : Option Nat := none
  channel : Channel := .adaptive
  crossed : Bool := false
  /-- It has met a full pool before a full escape channel, and enters escape when slots free (R396, R405). -/
  waits : Bool := false
  fault : Option Nat := none
  deriving DecidableEq, Repr

/-- A directed link (R391, R392, R395): packets on it in order, packets that stand at the input port it
leads to in order, and attempts at the present beat. -/
structure Link where
  queue : List Nat := []
  held : List Nat := []
  beat : Nat := 0
  attempts : Nat := 0
  retraining : Bool := false
  down : Bool := false
  retrains : Nat := 0
  deriving DecidableEq, Repr, Inhabited

/-- The tracker of a die (R402, R403). Entries and reservations name packets and requesters;
a requester is 128 × die + its number. -/
structure Tracker where
  entries : List Nat := []
  /-- Next sequence number expected from a requester. -/
  expect : Tbl Nat := []
  recorded : List Nat := []
  tickets : List (Nat × Nat) := []
  reserved : List (Nat × Nat) := []
  nextTicket : Nat := 0
  deriving DecidableEq, Repr, Inhabited

/-! ### Contexts, partitions, launches, graphs (R36 to R40, R61, R319, R339 to R352) -/

inductive CtxStatus where
  | alive | faulted | lost | destroyed
  deriving DecidableEq, Repr

/-- A weave outside the cores: its weave, strands and operations, read back from an image (R334), and the
words of its window. An operation's strand is given by its number. -/
structure Stored where
  weave : Weave
  strands : List Strand
  ops : List EngOp
  window : List Int
  deriving DecidableEq, Repr

/-- What a strand's trap unit holds that its record has no field for: whether the recorded cause is
still to be delivered, a cpt trap held back (R285), and the lanes that are in the handler. -/
structure KeptTrap where
  pending : Bool := false
  held : Option (Int × List Nat) := none
  lanes : List Nat := []
  /-- The lanes that return to a barrier when they leave the handler: its number, and whether by barw (R238). -/
  rets : List (Nat × (Nat × Bool)) := []
  deriving DecidableEq, Repr, Inhabited

/-- What an engine holds of an operation that its record has no field for (R142, R285, R286). -/
structure KeptOp where
  trapOk : Bool := false
  hit : Option Int := none
  lanes : List Nat := []
  slots : List (Option Slot) := [none, none, none]
  skips : List Nat := []
  upTo : Nat := 0
  common : List Int := []
  /-- It stands for a binding entry that was refused (R347). -/
  refused : Bool := false
  deriving DecidableEq, Repr, Inhabited

/-- What the scheduler keeps of a halted weave beside its record: its launch and age, the bindings that its
prologue has still to carry out, whether its prologue was over, whether a binding was in flight, its
strands' trap units, and its operations in the order of their records. -/
structure Kept where
  launch : Nat := 0
  age : Nat := 0
  bindings : List Int := []
  ready : Bool := true
  binding : Bool := false
  traps : List KeptTrap := []
  ops : List KeptOp := []
  deriving DecidableEq, Repr, Inhabited

/-- A context image (R324, R332), and what is kept of its weaves in the order of their records. -/
structure Image where
  ctx : Nat
  words : List Int
  kept : List Kept
  deriving DecidableEq, Repr

/-- Where an image lies: in the shadow of a partition, or in device memory. -/
inductive ImageRef where
  | shadow (part : Nat)
  | area (base : Int) (size : Nat) (kept : List Kept)
  deriving DecidableEq, Repr

structure Context where
  root : List Int
  stopBase : Int
  stopSize : Nat
  handlerTab : Int
  handleTab : Int
  pasid : Option Nat := none
  bindings : List Binding := []
  /-- Context watchdog period in cycles, and the cycle of the last progress (R320). -/
  watchdog : Option Nat := some 4000000000
  progress : Nat := 0
  status : CtxStatus := .alive
  fault : Option FaultInfo := none
  /-- Strand or operation that raised the context's first fault (R325). -/
  faultStrand : Option Nat := none
  faultOp : Option Nat := none
  faultCycle : Int := 0
  images : List ImageRef := []
  stored : List Stored := []
  waitSince : Nat := 0
  deriving DecidableEq, Repr

/-- What a partition does (R319, R330). -/
inductive PartPhase where
  | free | run
  | drain (deadline : Nat)
  | halt (at_ swapBy reason : Nat)
  | imaging (done swapBy : Nat)
  deriving DecidableEq, Repr

/-- One of a die's partitions: 0 and 1 are the spokes, 2 the whole die (R319). -/
structure Part where
  ctx : Nat := 0
  phase : PartPhase := .free
  /-- The core whose cycles a halt of it counts (R321), none for a halt that the scheduler commands. -/
  clock : Option Nat := none
  since : Nat := 0
  shadow : Option Image := none
  /-- PREEMPT commands, by number, that wait for the partition to become free, and whether its
  present pre-emption was begun for a ready context (R349). -/
  waiters : List Nat := []
  forCtx : Option Nat := none
  deriving DecidableEq, Repr, Inhabited

structure Launch where
  die : Nat
  ctx : Nat
  cmd : Option Nat
  /-- Graph and node of a group (R38). -/
  graph : Option (Nat × Nat) := none
  recPtr : Int
  record : List Int
  level : Int
  seq : Nat
  total : Nat
  next : Nat := 0
  ended : Nat := 0
  failed : Nat := 0
  lastStart : Option Nat := none
  batches : List (List (List Int)) := []
  deriving DecidableEq, Repr

/-- A node of a graph (R37 to R40, R343). -/
structure Node where
  recPtr : Int
  record : List Int
  preds : List Nat
  succs : List Nat
  queue : List (Nat × List Int) := []
  open_ : Nat := 0
  started : Bool := false
  complete : Bool := false
  deriving DecidableEq, Repr

structure Graph where
  die : Nat
  ctx : Nat
  number : Nat
  nodes : List Node
  /-- The command of its present run, and whether a weave of that run has failed (R412). -/
  running : Option Nat := none
  failed : Bool := false
  deriving DecidableEq, Repr

/-! ### Queues, commands, registers (R406 to R421) -/

structure Queue where
  ctx : Nat
  size : Nat
  ring : Nat
  doneAddr : Nat
  pasid : Nat
  vector : Nat
  head : Nat := 0
  tail : Nat := 0
  done : Nat := 0
  error : Bool := false
  closing : Bool := false
  /-- The host translation that its next fetch waits for (R373, R416). -/
  io : Phase := .queued
  deriving DecidableEq, Repr

/-- What a command does (R411 to R414). -/
inductive CmdPhase where
  | fetched | started
  | ended (code result : Nat)
  | counted
  deriving DecidableEq, Repr

/-- A fetched command of a queue key: 1025 × die + queue, the admin ring being queue 1024. -/
structure Cmd where
  die : Nat
  queue : Nat
  index : Nat
  bytes : List Nat
  phase : CmdPhase := .fetched
  /-- The context it acts for: its queue's, or the one an admin-queue user command names. -/
  ctx : Option Nat := none
  /-- Its host translation, the words that it cannot write for want of one (log 45), and a COPY's elements done and
  range exceptions (R373, R416). -/
  io : Phase := .queued
  lost : List Nat := []
  prog : Nat := 0
  hits : Nat := 0
  /-- Has a started LAUNCH or GRAPH_RUN been accepted (R420)? -/
  taken : Bool := false
  deriving DecidableEq, Repr

/-- BAR0 (R407) and the admin ring's fetcher. -/
structure Bar where
  ring : Nat := 0
  size : Nat := 0
  doneAddr : Nat := 0
  ctl : Nat := 0
  eventRing : Nat := 0
  eventSize : Nat := 0
  eventHead : Nat := 0
  aperture : Nat := 0
  ready : Bool := false
  error : Bool := false
  overflow : Bool := false
  head : Nat := 0
  tail : Nat := 0
  done : Nat := 0
  /-- Ring address and size in force since the enable bit rose. -/
  ringNow : Nat := 0
  sizeNow : Nat := 0
  events : Nat := 0
  deriving DecidableEq, Repr, Inhabited

/-- An HBM or second-tier span (R366, R367): line entry, the line's 81 trytes as stored, and the bytes of
the span that are in error. -/
structure Span where
  entry : Nat
  trytes : List Int
  bad : List Nat := []
  deriving DecidableEq, Repr

/-- A line that a slice holds (R361): the physical line, its set over all slices, whether it is newer than
its span, whether every write to it since the fetch came through a compressible mapping (R367), and its
words whose check code fails, with the trits in error (R432). -/
structure SliceLine where
  line : Nat
  set : Nat
  dirty : Bool := false
  comp : Bool := true
  bad : Tbl Nat := []
  deriving DecidableEq, Repr

structure Die where
  bar : Bar := {}
  parts : List Part := List.replicate 3 {}
  wholeDie : Bool := false
  drainUs : Nat := 100
  swapUs : Nat := 200
  quantumUs : Nat := 2000
  handlers : Nat := 2
  budget : Nat := 81
  /-- Junction temperature in degrees (R431). -/
  temp : Nat := 25
  exports : Tbl (Nat × Int × Nat) := []
  tracker : Tracker := {}
  ats : List AtsEntry := []
  /-- MSI-X vectors that are pending behind their mask, and those unmasked (R413, log 39). -/
  vectors : List Nat := []
  unmasked : List Nat := []
  /-- Lines in the slices, the line used last first (R361). -/
  slices : List SliceLine := []
  spans : Tbl Span := []
  /-- Summary trits (R368), raised by 1 so that an unlisted region holds -1. -/
  summary : Cells := []
  /-- Errors that scrub and reads corrected, by array kind (0 HBM, 1 second tier, 2 slice, 3 scratchpad), and
  the places left uncorrectable (R432, R434). -/
  corrected : Tbl Nat := []
  uncorrected : List ScrubPlace := []
  /-- ATS invalidations whose completion is still to be sent, by the accesses (group, lane) that each waits for, and
  the number of completions sent (R374). -/
  invals : List (List (Nat × Nat)) := []
  invalsDone : Nat := 0
  deriving DecidableEq, Repr, Inhabited

/-! ### Management (R428 to R437) -/

structure Capture where
  armed : Option (Nat × Nat) := none
  log : List Captured := []
  complete : Bool := false
  incomplete : Bool := false
  deriving DecidableEq, Repr, Inhabited

structure Mgmt where
  staged : Option ConfigRecord := none
  counter : Nat := 0
  powerLimit : Nat := 2400
  /-- The SPDM secure session: the digest of the root to which its requester's certificate chains (R436). -/
  session : Option Nat := none
  capture : Capture := {}
  /-- Last bring-up step that succeeded (R428): 7 when the module is up. -/
  step : Nat := 7
  response : List Nat := []
  deriving DecidableEq, Repr, Inhabited

/-! ### The module -/

/-- Who moves next: a step of the table, the next word of a strand, one cycle of time, a host store
of bytes, a disturbance of a register, of bytes of a stored span, of its line entry, or of trits of a slice
or scratchpad word (R47, R366, R367, R432, R433), or a host access to BAR2 (R408). -/
inductive Turn where
  | act (i : Instr)
  | word (strand : Nat)
  | tick
  | hostWrite (addr : Nat) (bytes : List Nat)
  | breakReg (strand : Nat) (r : RegName)
  | breakSpan (die line : Nat) (bytes : List Nat)
  | breakEntry (die line entry : Nat)
  | breakSlice (die line word trits : Nat)
  | breakScratch (cluster word trits : Nat)
  | bar2Read (die off : Nat)
  | bar2Write (die off v : Nat)
  deriving DecidableEq, Repr

structure State where
  record : ConfigRecord := Config.factoryRecord
  /-- Reference cycles since module reset (R6). -/
  cycle : Nat := 0
  nextId : Nat := 1
  /-- The model's own counter of free values drawn. -/
  free : Nat := 0
  /-- The model's own: what moves next, and the strand whose word is being issued. -/
  agenda : List Turn := []
  cursor : Nat := 0
  strands : Tbl Strand := []
  weaves : Tbl Weave := []
  contexts : Tbl Context := []
  launches : Tbl Launch := []
  graphs : Tbl Graph := []
  queues : Tbl Queue := []
  cmds : Tbl Cmd := []
  ops : Tbl EngOp := []
  accs : List Acc := []
  /-- Page requests that have had no answer, by group and lane, oldest first: 27 of a PASID are outstanding (R373). -/
  pageRequests : List (Nat × Nat) := []
  packets : Tbl Packet := []
  links : Tbl Link := []
  /-- Next sequence number of a requester toward an owner die, by 8 × requester + owner. -/
  seqs : Tbl Nat := []
  dies : List Die := List.replicate 8 {}
  cores : Tbl Core := []
  clusters : Tbl Cluster := []
  /-- Device memory as its homes hold it: trytes under die × 3^27 + physical address. -/
  mem : Cells := []
  /-- Host memory; an unlisted byte reads 0 (log 5). -/
  host : List Host.Cell := []
  mgmt : Mgmt := {}
  /-- MSI-X messages sent: (die, vector), newest first. -/
  msix : List (Nat × Nat) := []
  /-- Bytes of the last register or aperture read. -/
  reply : List Nat := []
  deriving DecidableEq, Repr

/-- The module right after a reset whose bring-up succeeded (R428): memory reads zero (R368), no
context, no queue, every counter 0, the ready bits set. -/
def State.reset : State :=
  { dies := List.replicate 8 { bar := { ready := true } } }

end Sys2Proof.Machine
end

