-- ==== Sys2Proof/Machine/Parts.lean ====
section
/-!
DEFINITION. The parts of the state by name, geometry and time (R3, R4, R6), and the registers of threads and
strands (R46 to R59).
-/
namespace Sys2Proof.Machine

/-! ### Parts of the state -/

def State.core (s : State) (c : Nat) : Core := (s.cores.get? c).getD {}
def State.setCore (s : State) (c : Nat) (x : Core) : State := { s with cores := s.cores.put c x }
def State.modCore (s : State) (c : Nat) (f : Core → Core) : State := s.setCore c (f (s.core c))
/-- A cluster by die × 16 + number. -/
def State.cluster (s : State) (c : Nat) : Cluster := (s.clusters.get? c).getD {}
def State.setCluster (s : State) (c : Nat) (x : Cluster) : State :=
  { s with clusters := s.clusters.put c x }
def State.die (s : State) (d : Nat) : Die := s.dies.getD d {}
def State.setDie (s : State) (d : Nat) (x : Die) : State := { s with dies := s.dies.set d x }
def State.modDie (s : State) (d : Nat) (f : Die → Die) : State := s.setDie d (f (s.die d))
def State.part (s : State) (d p : Nat) : Part := (s.die d).parts.getD p {}
def State.setPart (s : State) (d p : Nat) (x : Part) : State :=
  s.modDie d fun y => { y with parts := y.parts.set p x }
def State.modPart (s : State) (d p : Nat) (f : Part → Part) : State := s.setPart d p (f (s.part d p))
def State.setStrand (s : State) (k : Nat) (x : Strand) : State := { s with strands := s.strands.put k x }
def State.modStrand (s : State) (k : Nat) (f : Strand → Strand) : State :=
  { s with strands := s.strands.upd k f }
def State.setWeave (s : State) (w : Nat) (x : Weave) : State := { s with weaves := s.weaves.put w x }
def State.modWeave (s : State) (w : Nat) (f : Weave → Weave) : State :=
  { s with weaves := s.weaves.upd w f }
def State.modCtx (s : State) (c : Nat) (f : Context → Context) : State :=
  { s with contexts := s.contexts.upd c f }
def State.modOp (s : State) (o : Nat) (f : EngOp → EngOp) : State := { s with ops := s.ops.upd o f }
def State.link (s : State) (l : Nat) : Link := (s.links.get? l).getD {}
def State.setLink (s : State) (l : Nat) (x : Link) : State := { s with links := s.links.put l x }
def State.modCmd (s : State) (c : Nat) (f : Cmd → Cmd) : State := { s with cmds := s.cmds.upd c f }
def State.modQueue (s : State) (q : Nat) (f : Queue → Queue) : State := { s with queues := s.queues.upd q f }
def State.modPkt (s : State) (p : Nat) (f : Packet → Packet) : State :=
  { s with packets := s.packets.upd p f }

/-- The strands of a weave, in strand-number order. -/
def State.strandsOf (s : State) (w : Nat) : List (Nat × Strand) :=
  sortBy (fun a b => decide (a.2.number ≤ b.2.number)) (s.strands.filter fun (_, x) => x.weave == w)

/-! ### Geometry and time (R3, R4, R6, R319) -/

/-- Cluster key, cluster number and spoke of a core key. -/
def clusterOf (core : Nat) : Nat := core / 64 * 16 + core % 64 / 4
def dieOf (core : Nat) : Nat := core / 64
def spokeOf (cluster : Nat) : Nat := cluster % 16 / 8

def coreEnabled (s : State) (core : Nat) : Bool := (s.record.cores.getD (dieOf core) 0).testBit (core % 64)
/-- Enabled cores of a cluster, ascending. -/
def enabledCores (s : State) (cluster : Nat) : List Nat :=
  ((List.range 4).map fun i => cluster / 16 * 64 + cluster % 16 * 4 + i).filter (coreEnabled s)
def sliceEnabled (s : State) (die slice : Nat) : Bool := (s.record.slices.getD die 0).testBit slice
def enabledSlices (s : State) (die : Nat) : List Nat := (List.range 16).filter (sliceEnabled s die)

/-- Does a partition of its die hold the cluster (number 0 to 15)? -/
def partHolds (part cluster : Nat) : Bool := part == 2 || part == spokeOf cluster

/-- A core's cycle counter (R6, R46, R355). -/
def counter (s : State) (core : Nat) : Int := (s.cycle : Int) - (s.core core).lost

/-- Fabric cycles: half the reference rate (R6). -/
def fabricCycle (s : State) : Nat := s.cycle / 2

/-! ### Registers (R46 to R55, R65) -/

def Strand.thread (st : Strand) (l : Nat) : Thread := st.threads.getD l { status := .absent }
def Strand.setThread (st : Strand) (l : Nat) (t : Thread) : Strand :=
  { st with threads := st.threads.set l t }
def Strand.modThreads (st : Strand) (ls : List Nat) (f : Nat → Thread → Thread) : Strand :=
  { st with threads := st.threads.zipIdx.map fun (t, l) => if ls.contains l then f l t else t }

def pairOf (lo hi : Int) : Int := lo + 3 ^ 27 * hi
/-- Low and high words of a pair value (R50, R65). -/
def loWord (x : Int) : Int := wrapVal x 27
def hiWord (x : Int) : Int := nearestDiv (x - loWord x) (3 ^ 27)

def Thread.vget (t : Thread) (n : Nat) : Int := t.v.get n
def Thread.vput (t : Thread) (n : Nat) (x : Int) : Thread := { t with v := t.v.put n x }
def Thread.vpair (t : Thread) (n : Nat) : Int := pairOf (t.vget n) (t.vget (n + 1))
def Thread.vputPair (t : Thread) (n : Nat) (x : Int) : Thread :=
  (t.vput n (loWord x)).vput (n + 1) (hiWord x)
def Thread.cond (t : Thread) (n : Nat) : Cond := t.c.getD n {}
def Thread.setCond (t : Thread) (n : Nat) (x : Cond) : Thread := { t with c := t.c.set n x }

def Strand.sget (st : Strand) (n : Nat) : Int := st.s.get n
def Strand.sput (st : Strand) (n : Nat) (x : Int) : Strand := { st with s := st.s.put n x }
def Strand.spair (st : Strand) (n : Nat) : Int := pairOf (st.sget n) (st.sget (n + 1))
def Strand.sputPair (st : Strand) (n : Nat) (x : Int) : Strand :=
  (st.sput n (loWord x)).sput (n + 1) (hiWord x)
/-- Uniform register or pair. -/
def Strand.su (st : Strand) (p : Bool) (n : Nat) : Int := if p then st.spair n else st.sget n
def Strand.suput (st : Strand) (p : Bool) (n : Nat) (x : Int) : Strand :=
  if p then st.sputPair n x else st.sput n x
def Strand.areg (st : Strand) (n : Nat) : Int := st.a.get n
def Strand.aput (st : Strand) (n : Nat) (x : Int) : Strand := { st with a := st.a.put n x }
def Strand.flag (st : Strand) (f : Nat) : Bool := st.flags.getD f false

/-- Present, not absent; alive, neither ended nor waiting in exit (R20, R232). -/
def Thread.present (t : Thread) : Bool := t.status != .absent
def Thread.ended (t : Thread) : Bool := t.status == .ended
def Thread.live (t : Thread) : Bool := t.present && !t.ended
def Thread.active (t : Thread) : Bool := t.live && t.status != .exiting

def Strand.lanes (st : Strand) (p : Thread → Bool) : List Nat :=
  (st.threads.zipIdx.filter fun (t, _) => p t).map Prod.snd

/-- A lane mask as a pair value (R59): one trit for each lane, 0 above lane 31. -/
def laneMask (f : Nat → Int) : Int :=
  pairOf (ofTrits ((List.range 27).map f)) (ofTrits ((List.range 5).map fun i => f (27 + i)))

/-- The present mask and the trap lanes (R58). -/
def Strand.presentMask (st : Strand) : Int :=
  laneMask fun l => let t := st.thread l; if !t.present then -1 else if t.ended then 0 else 1
def Strand.trapMask (st : Strand) : Int :=
  laneMask fun l => if !(st.thread l).present then -1 else if st.trapLanes.contains l then 1 else 0

/-- A guard test on a condition register (R51, R162). -/
def testCond (t : Test) (c : Cond) : Bool :=
  match t with
  | .lt => c.sign == -1
  | .eq => c.sign == 0
  | .gt => c.sign == 1
  | .le => decide (c.sign ≤ 0)
  | .ne => c.sign != 0
  | .ge => decide (0 ≤ c.sign)
  | .cn => c.carry == -1
  | .cp => c.carry == 1
  | .ov => c.ovf != 0

def passes (g : Guard) (t : Thread) : Bool :=
  match g with
  | .always => true
  | .on c k => testCond k (t.cond c)

/-- The trap mask word (R56): the timer-pending trit is given by the caller. -/
def maskWord (m : Mask) (timerPending : Bool) : Int :=
  let b (x : Bool) : Int := if x then 1 else 0
  b m.brk + 3 * b m.invalid + 9 * b m.divide + 27 * b m.ovf + 81 * b m.range + 243 * b m.timer +
    3 ^ 25 * b timerPending + 3 ^ 26 * b m.global

/-- The mask that a word written to it leaves: trits 26 and 5:0, a trit of -1 stored as 0 (R56). -/
def maskOf (w : Int) : Mask :=
  let b (i : Nat) : Bool := trit 27 w i == 1
  { global := b 26, timer := b 5, range := b 4, ovf := b 3, divide := b 2, invalid := b 1, brk := b 0 }

/-- A trap cause word (R56). -/
def causeWord (kind : Nat) (detail : Int) : Int := ((kind : Int) - 13) * 3 ^ 24 + detail * 3 ^ 9
def causeKind (w : Int) : Nat := idx w 24 3

/-! ### Condition images (R51) -/

def condImage (c : Cond) : Int := 9 * c.sign + 3 * c.carry + c.ovf
def condOfImage (w : Int) : Cond := { sign := trit 27 w 2, carry := trit 27 w 1, ovf := trit 27 w 0 }

end Sys2Proof.Machine
end

