-- ==== Sys2Proof/Machine/Memory.lean ====
section
/-!
DEFINITION. Memory: physical lines and their homes (R363, R364), slices and stored spans (R361, R366 to R368),
page tables and TLBs (R369 to R372, R399, R400), links (R391, R394), what is read and written at the homes
(R102, R104), host memory (R93), and a core's data cache (R359, R360).
-/
namespace Sys2Proof.Machine

/-! ### Physical lines (R363, R364) -/

/-- Key of a die's physical tryte in `State.mem`. -/
def memKey (die p : Nat) : Nat := die * 3 ^ 27 + p
/-- Home line of a key. -/
def lineOf (key : Nat) : Nat := key / 3 ^ 27 * 3 ^ 27 + key % 3 ^ 27 / 81
/-- The key of a home line's first tryte. -/
def lineBase (line : Nat) : Nat := line / 3 ^ 27 * 3 ^ 27 + line % 3 ^ 27 * 81

/-- The second-tier share of a die, in lines (R364, R430): by default what is left beside the capture area, in
whole spans, divided equally. -/
def shareOf (s : State) (die : Nat) : Nat :=
  if s.record.shares.all (· == 0) then
    (Config.spanBytes * Config.secondTierLines - s.record.captureArea) / Config.spanBytes / 8
  else s.record.shares.getD die 0

/-- Where a physical line is homed (R363): its slice, its range (0 common, 1 + d the block taken over from
slice d, 17 second tier), and its position in the slice's part of that range. -/
structure Home where
  slice : Nat
  range : Nat
  pos : Nat
  deriving DecidableEq, Repr

def homeOf (s : State) (die line : Nat) : Option Home :=
  let en := enabledSlices s die
  let n := en.length
  let m := Config.sliceLines
  let c := n * m - s.record.reserve.getD die 0
  let off := (List.range 16).filter fun x => !sliceEnabled s die x
  let rank (i : Nat) : Nat := en.getD (i % n) 0
  if n = 0 then none
  else if line < c then some ⟨rank line, 0, line / n⟩
  else if line < c + off.length * m then
    let d := off.getD ((line - c) / m) 0
    some ⟨(en.find? (d < ·)).getD (en.getD 0 0), 1 + d, (line - c) % m⟩
  else if Config.secondTier ≤ line ∧ line < Config.secondTier + shareOf s die then
    some ⟨rank (line - Config.secondTier), 17, (line - Config.secondTier) / n⟩
  else none

/-- The slice bank of a line (R363). -/
def Home.bank (h : Home) : Nat := h.pos % 9

def backed (s : State) (die p : Nat) : Bool := (homeOf s die (p / 81)).isSome

/-- Words from trytes, lowest first (R64), and back. -/
def ofTrytes : List Int → Int
  | [] => 0
  | t :: ts => t + 3 ^ 9 * ofTrytes ts
def toTrytes : Nat → Int → List Int
  | 0, _ => []
  | n + 1, x => let t := wrapVal x 9; t :: toTrytes n (nearestDiv (x - t) (3 ^ 9))

/-! ### Links of the I/O die (R391, R392) -/

/-- The links between a die and the I/O die: 4 × die + 2 out, + 3 back. -/
def ioDown (s : State) (die : Nat) : Bool := (s.link (4 * die + 2)).down || (s.link (4 * die + 3)).down
def ioWaits (s : State) (die : Nat) : Bool :=
  (s.link (4 * die + 2)).retraining || (s.link (4 * die + 3)).retraining

/-! ### Spans and slices (R361, R366 to R368) -/

/-- The summary region of a line: slice, range and 243 consecutive positions (R368); none in the
second tier. -/
def regionOf (s : State) (die line : Nat) : Option Nat :=
  match homeOf s die line with
  | some h => if h.range = 17 then none else some (h.slice * 2 ^ 32 + h.range * 2 ^ 24 + h.pos / 243)
  | none => none

def summaryTrit (d : Die) (region : Nat) : Int := d.summary.get region - 1
def setSummary (d : Die) (region : Nat) (t : Int) : Die := { d with summary := d.summary.put region (t + 1) }

/-- The 81 trytes of a line at its home. -/
def lineTrytes (s : State) (die line : Nat) : List Int := s.mem.getRun (memKey die (81 * line)) 81

/-- The span of a line: an unlisted one holds a zero line (R364, R368). -/
def spanOf (d : Die) (line : Nat) : Span := (d.spans.get? line).getD ⟨1, List.replicate 81 0, []⟩

/-- Bytes in error among those that a read of a span needs: the check span, and what its entry asks for (R367). -/
def Span.errors (x : Span) : Nat :=
  (x.bad.filter fun i => decide (146 ≤ i) || decide (i < dataBytes x.entry x.trytes)).length

/-- Does a read of a line's span raise the data-integrity fault (R366, R367)? A region of zero lines is read
without it (R368). -/
def spanBroken (s : State) (die line : Nat) : Bool :=
  let d := s.die die
  match d.spans.get? line with
  | none => false
  | some x =>
    (decide (4 ≤ x.entry) || decide (Config.correctable < x.errors)) &&
      !(regionOf s die line).any fun r => summaryTrit d r == -1

/-- A slice's line, where it holds it. -/
def held (s : State) (die line : Nat) : Option SliceLine := (s.die die).slices.find? fun x => x.line == line

/-- Does an access to a tryte at its home raise the data-integrity fault: a slice word with two trits in error
(R432), a span that cannot be read (R366), or a second-tier span behind a down link (R364, R392)? -/
def brokenKey (s : State) (key : Nat) : Bool :=
  let die := key / 3 ^ 27
  let line := key % 3 ^ 27 / 81
  match held s die line with
  | some x => (x.bad.get? (key % 3 ^ 27 % 81 / 3)).any (2 ≤ ·)
  | none => (decide (Config.secondTier ≤ line) && ioDown s die) || spanBroken s die line

def brokenAt (s : State) (ks : List Nat) : Bool := ks.any (brokenKey s)

/-- Does an access wait for a retraining I/O link (R392), to fetch a second-tier line? -/
def tierWaits (s : State) (ks : List Nat) : Bool :=
  ks.any fun k =>
    let line := k % 3 ^ 27 / 81
    decide (Config.secondTier ≤ line) && ioWaits s (k / 3 ^ 27) && (held s (k / 3 ^ 27) line).isNone

/-- Write a line back (R367, R368). A word of it that cannot be corrected leaves a span that cannot be read (log 76).
The first write to a region of zero lines gives every other line of
it a zero entry; a compressed or zero line makes a region of plain lines a mixed one. -/
def writeBack (s : State) (die line : Nat) : State :=
  match held s die line with
  | none => s
  | some x =>
    if !x.dirty then s
    else
      let ts := lineTrytes s die line
      let e := entryOf ts x.comp
      let store (d : Die) : Die :=
        { d with slices := d.slices.map fun y => if y.line == line then { y with dirty := false } else y
                 spans := d.spans.put line ⟨e, ts, if x.bad.any fun b => decide (2 ≤ b.2) then [147, 148, 149] else []⟩
                 uncorrected := d.uncorrected.filter (· != .line line) }
      match regionOf s die line with
      | none => s.modDie die store
      | some r =>
        s.modDie die fun d =>
          let old := summaryTrit d r
          let d1 := if old = -1 then
              { d with spans := d.spans.filter fun p => regionOf s die p.1 != some r }
            else d
          let d2 := if old = -1 ∨ (old = 0 ∧ e ≠ 0) then setSummary d1 r 1 else d1
          store d2

/-- The set of a line over all slices of its die (log 76). -/
def setOf (s : State) (die line : Nat) : Nat :=
  match homeOf s die line with
  | some h => h.slice * Config.sliceSets + h.pos % Config.sliceSets
  | none => 0

/-- The line that a full set gives up for another: the one used longest ago (log 76). -/
def victimOf (d : Die) (set : Nat) : Option Nat :=
  let xs := d.slices.filter fun x => x.set == set
  if xs.length < Config.sliceWays then none else xs.getLast?.map (·.line)

/-- Replace a line: written back if it is newer than its span, then gone (R361). -/
def evictLine (s : State) (die line : Nat) : State :=
  (writeBack s die line).modDie die fun d => { d with slices := d.slices.filter fun x => x.line != line }

/-- An error corrected in an array (R434): 0 HBM, 1 second tier, 2 slice, 3 scratchpad. -/
def countCorrected (s : State) (die kind : Nat) : State :=
  s.modDie die fun d => { d with corrected := d.corrected.put kind ((d.corrected.get? kind).getD 0 + 1) }

/-- A line is used at its home (R361): fetched if no way holds it, and for a write, which says whether its
mapping is compressible, newer than its span. A line whose span cannot be corrected comes in with no good word, so that
whatever reads it there still meets the fault (R366, R432). -/
def touchLine (s : State) (die line : Nat) (w : Option Bool) : State :=
  let mark (x : SliceLine) : SliceLine :=
    match w with
    | some c => { x with dirty := true, comp := x.comp && c }
    | none => x
  match held s die line with
  | some x => s.modDie die fun d => { d with slices := mark x :: d.slices.filter fun y => y.line != line }
  | none =>
    let set := setOf s die line
    let s1 := match victimOf (s.die die) set with
      | some v => evictLine s die v
      | none => s
    let zero := (regionOf s die line).any fun r => summaryTrit (s.die die) r == -1
    let lost := spanBroken s die line
    let s2 := if zero || lost || (spanOf (s.die die) line).errors == 0 then s1
      else countCorrected s1 die (if Config.secondTier ≤ line then 1 else 0)
    let bad : Tbl Nat := if lost then (List.range 27).map fun j => (j, 2) else []
    s2.modDie die fun d => { d with slices := mark { line, set, bad } :: d.slices }

/-- Count errors that a read corrected. -/
def countMany (s : State) (die kind : Nat) : Nat → State
  | 0 => s
  | n + 1 => countMany (countCorrected s die kind) die kind n

/-- The words of a held line with one trit in error, of those that some of these keys lie in (R432). -/
def offWords (x : SliceLine) (n : Nat) (ks : List Nat) : List Nat :=
  (x.bad.filter fun b => decide (b.2 < 2) && (List.range 3).any fun i => ks.contains (lineBase n + 3 * b.1 + i)).map Prod.fst

/-- A read of slice words corrects those that have one trit in error, and each is counted (R432, R434). -/
def countWords (s : State) (ks : List Nat) : State :=
  (ks.map lineOf).eraseDups.foldl (fun s n =>
    match held s (n / 3 ^ 27) (n % 3 ^ 27) with
    | none => s
    | some x => countMany s (n / 3 ^ 27) 2 (offWords x n ks).length) s

/-- Lines of keys are used at their homes by a read of these trytes, and what it corrects is counted (R361, R434). -/
def touchReads (s : State) (ks : List Nat) : State :=
  countWords ((ks.map lineOf).eraseDups.foldl (fun s n => touchLine s (n / 3 ^ 27) (n % 3 ^ 27) none) s) ks

/-- A slice word that is written has a good check code again: one wholly written, and one whose other trytes were read
and corrected. -/
def mendWords (s : State) (ks : List Nat) : State :=
  (ks.map lineOf).eraseDups.foldl (fun s n =>
    let die := n / 3 ^ 27
    let line := n % 3 ^ 27
    match held s die line with
    | none => s
    | some x =>
      if x.bad.isEmpty then s
      else
        let whole (j : Nat) : Bool := (List.range 3).all fun i => ks.contains (lineBase n + 3 * j + i)
        let off := offWords x n ks
        (countMany s die 2 (off.filter fun j => !whole j).length).modDie die fun d => { d with slices := d.slices.map fun y =>
          if y.line == line then { y with bad := y.bad.filter fun b => !(whole b.1 || off.contains b.1) } else y }) s

/-! ### Device page tables (R369 to R371) -/

/-- One page-table entry at level 0 (root) to 4: a table's frame, a leaf, or none for every case
that R370 turns into the translation fault. -/
def readEntry (level : Nat) (e : Int) : Option (Nat ⊕ Leaf) :=
  let ty := field 54 e 51 3
  let at_ (i : Nat) := trit 54 e i
  let frame := sfield 54 e 0 30
  let okTrits := (List.range 5).all fun i => at_ (46 + i) != -1
  let on (i : Nat) := at_ i == 1
  let okRes := sfield 54 e 30 8 == 0 && (ty == 3 || sfield 54 e 38 8 == 0)
  if !okTrits || !okRes || decide (frame < 0) then none
  else if ty = 1 then
    if level < 4 && (List.range 5).all (fun i => at_ (46 + i) == 0) then some (.inl frame.toNat) else none
  else if ty = 2 ∨ ty = 3 then
    if level < 3 then none
    else if level = 3 && frame.toNat % 3 ^ 8 != 0 then none
    else some (.inr ⟨ty == 3, level == 3, on 50, on 49, on 48, on 47, on 46, field 54 e 38 8, frame.toNat⟩)
  else none

/-- A pair at a physical address, as the walker reads it: code 1 or 7 where it cannot. -/
def physPair (s : State) (die p : Nat) : Except Nat Int :=
  let ks := (List.range 6).map fun i => memKey die (p + i)
  if !backed s die p || !backed s die (p + 5) then .error 1
  else if brokenAt s ks then .error 7
  else .ok (ofTrytes (ks.map s.mem.get))

/-- The walk below the root: the address fields of the levels still to go, highest first. -/
def walkFrom (s : State) (die : Nat) : Nat → List Nat → Int → Except Nat Leaf
  | _, [], _ => .error 1
  | level, i :: rest, e =>
    match readEntry level e with
    | some (.inl frame) =>
      match physPair s die (frame * 3 ^ 10 + 6 * i) with
      | .error c => .error c
      | .ok x =>
        match readEntry (level + 1) x with
        | some (.inr leaf) => .ok leaf
        | some (.inl _) => walkFrom s die (level + 1) rest x
        | none => .error 1
    | _ => .error 1

/-- The address fields of a pointer, below the root's. -/
def walkFields (ptr : Int) : List Nat := [field 45 ptr 34 8, field 45 ptr 26 8, field 45 ptr 18 8, field 45 ptr 10 8]

def walk (s : State) (die : Nat) (root : List Int) (ptr : Int) : Except Nat Leaf :=
  walkFrom s die 0 (walkFields ptr) (root.getD (field 45 ptr 42 2) 0)

/-- The trytes that a walk reads below the root, through their home slices, to the entry that ends it (R361, R372). -/
def walkKeys (s : State) (die : Nat) : Nat → List Nat → Int → List Nat
  | _, [], _ => []
  | level, i :: rest, e =>
    match readEntry level e with
    | some (.inl frame) =>
      let p := frame * 3 ^ 10 + 6 * i
      if !backed s die p || !backed s die (p + 5) then []
      else
        ((List.range 6).map fun j => memKey die (p + j)) ++
          match physPair s die p with
          | .ok x => walkKeys s die (level + 1) rest x
          | .error _ => []
    | _ => []

/-- What the walk of a pointer reads. -/
def ptrKeys (s : State) (die : Nat) (root : List Int) (ptr : Int) : List Nat :=
  walkKeys s die 0 (walkFields ptr) (root.getD (field 45 ptr 42 2) 0)

/-- The offset within a leaf's page, with the exchange of a tiled page (R144). -/
def pageOffset (l : Leaf) (ptr : Int) : Nat :=
  let o := field 45 ptr 0 (if l.big then 18 else 10)
  if l.tiled then o / 3 ^ 10 * 3 ^ 10 + o / 3 ^ 4 % 27 * 3 ^ 7 + o / 3 ^ 7 % 27 * 3 ^ 4 + o % 3 ^ 4
  else o

/-- What an access wants of a page (R371). -/
inductive Want where
  | read | write | exec
  deriving DecidableEq, Repr

/-! ### TLBs (R372) -/

/-- Through which TLBs an access goes: a core's own and then its cluster's, its cluster's for an engine, or
none for reads of the device's own (log 82). -/
inductive Via where
  | core (c : Nat)
  | cluster (cl : Nat)
  | walker
  deriving DecidableEq, Repr

/-- The trits of a pointer above the offset in a page. -/
def pageOf (big : Bool) (ptr : Int) : Nat := if big then field 45 ptr 18 27 else field 45 ptr 10 35

def tlbOf (s : State) (via : Via) : List TlbEntry :=
  match via with
  | .core c => (s.core c).tlb ++ (s.cluster (clusterOf c)).tlb
  | .cluster cl => (s.cluster cl).tlb
  | .walker => []

/-- The leaf for a pointer: from a TLB, which may hold an older entry than the tables (R372), or by a walk. -/
def leafFor (s : State) (via : Via) (ctx : Nat) (root : List Int) (ptr : Int) : Except Nat Leaf :=
  match (tlbOf s via).find? fun e => e.ctx == ctx && e.page == pageOf e.leaf.big ptr with
  | some e => .ok e.leaf
  | none => walk s (ctx / 256) root ptr

/-- Keep an entry, first of its kind; in the core's TLB the last of a full set goes, in the cluster's the last
of all. -/
def keepCore (ts : List TlbEntry) (e : TlbEntry) : List TlbEntry :=
  let ts' := e :: ts.filter (· != e)
  let set := ts'.filter fun x => x.page % Config.tlbSets == e.page % Config.tlbSets
  if set.length ≤ Config.tlbWays then ts' else ts'.filter fun x => some x != set.getLast?
def keepCluster (ts : List TlbEntry) (e : TlbEntry) : List TlbEntry := (e :: ts.filter (· != e)).take Config.clusterTlb

/-- A physical address of a die through a context's tables, with no peer leaf followed. -/
def localWalk (s : State) (die : Nat) (root : List Int) (ptr : Int) : Except Nat (Leaf × Nat) := do
  let l ← walk s die root ptr
  let p := l.frame * 3 ^ 10 + pageOffset l ptr
  if l.peer || backed s die p then return (l, p) else throw 1

/-- What the hardware's own reading of a tryte of a context's device space reads: its walk and the tryte itself. -/
def tryteKeys (s : State) (die : Nat) (root : List Int) (ptr : Int) : List Nat :=
  ptrKeys s die root ptr ++ match localWalk s die root ptr with
    | .ok (l, p) => if l.peer then [] else [memKey die p]
    | .error _ => []

/-- What the hardware's own reading of a pair of a context's device space reads. -/
def pairKeys (s : State) (die : Nat) (root : List Int) (ptr : Int) : List Nat :=
  (List.range 6).flatMap fun (i : Nat) => tryteKeys s die root (ptr + (i : Int))

/-- What the translation of a pointer reads: its walk where no TLB holds the page, and a peer page's handle entry (R361,
R372, R399). -/
def xlateKeys (s : State) (via : Via) (ctx : Nat) (ptr : Int) : List Nat :=
  match s.contexts.get? ctx with
  | none => []
  | some c =>
    let die := ctx / 256
    let own := if (tlbOf s via).any fun e => e.ctx == ctx && e.page == pageOf e.leaf.big ptr then []
      else ptrKeys s die c.root ptr
    match leafFor s via ctx c.root ptr with
    | .ok l => own ++ (if l.peer then pairKeys s die c.root (c.handleTab + 6 * l.handle) else [])
    | .error _ => own

/-- A translation reads through the slices of the die, whether it ends in a leaf or not. -/
def touchXlate (s : State) (via : Via) (ctx : Nat) (ptr : Int) : State :=
  touchReads s (xlateKeys s via ctx ptr).eraseDups

/-- An access to a page leaves its entry in the TLBs that it went through; a walk that fails leaves none. -/
def fillTlb (s : State) (via : Via) (ctx : Nat) (ptr : Int) : State :=
  match s.contexts.get? ctx with
  | none => s
  | some c =>
    let s1 := touchXlate s via ctx ptr
    match leafFor s via ctx c.root ptr with
    | .error _ => s1
    | .ok l =>
      let e : TlbEntry := ⟨ctx, pageOf l.big ptr, l⟩
      let share (s : State) (cl : Nat) : State :=
        s.setCluster cl { s.cluster cl with tlb := keepCluster (s.cluster cl).tlb e }
      match via with
      | .core k => share (s1.modCore k fun x => { x with tlb := keepCore x.tlb e }) (clusterOf k)
      | .cluster cl => share s1 cl
      | .walker => s1

/-- Every page of a run of trytes. -/
def fillRun (s : State) (via : Via) (ctx : Nat) (ptr : Int) (n : Nat) : State :=
  let s1 := fillTlb s via ctx ptr
  if n ≤ 1 ∨ pageOf false ptr = pageOf false (ptr + (n : Int) - 1) then s1
  else fillTlb s1 via ctx (ptr + (n : Int) - 1)

/-- Entries of a context whose page meets a range of trytes go from every TLB of a die (R372, R417). -/
def dropTlb (s : State) (ctx : Nat) (lo hi : Int) : State :=
  let hit (e : TlbEntry) : Bool :=
    e.ctx == ctx && decide (pageOf e.leaf.big lo ≤ e.page) && decide (e.page ≤ pageOf e.leaf.big hi)
  { s with
    cores := s.cores.map fun x =>
      (x.1, if dieOf x.1 = ctx / 256 then { x.2 with tlb := x.2.tlb.filter fun e => !hit e } else x.2)
    clusters := s.clusters.map fun x =>
      (x.1, if x.1 / 16 = ctx / 256 then { x.2 with tlb := x.2.tlb.filter fun e => !hit e } else x.2) }

/-! ### Translation (R371, R399, R400) -/

/-- A pair of the context's device space read by the hardware itself. -/
def ctxPair (s : State) (die : Nat) (root : List Int) (ptr : Int) : Except Nat Int := do
  let ks ← (List.range 6).mapM fun (i : Nat) => do
    let (l, p) ← localWalk s die root (ptr + (i : Int))
    if l.peer then throw 1 else return memKey die p
  if brokenAt s ks then throw 7 else return ofTrytes (ks.map s.mem.get)

/-- What a leaf makes of a pointer, for an access: its place, or code 1, 2 or 7 of R318 (R371, R399). -/
def placeOf (s : State) (ctx : Nat) (c : Context) (want : Want) (l : Leaf) (ptr : Int) : Except Nat Place :=
  let die := ctx / 256
  let p := l.frame * 3 ^ 10 + pageOffset l ptr
  let allowed := match want with
    | .read => l.r
    | .write => l.w && !l.x
    | .exec => l.x
  if l.peer then
    match ctxPair s die c.root (c.handleTab + 6 * l.handle) with
    | .error e => .error e
    | .ok e =>
      -- the whole of the leaf's page lies within the entry's pages (R399)
      let last := l.frame + (if l.big then 3 ^ 8 - 1 else 0)
      if field 54 e 51 3 != 1 || decide ((sfield 54 e 8 30).toNat ≤ last) || field 54 e 48 3 > 7 then .error 1
      else
        let ok := match want with
          | .read => trit 54 e 47 == 1
          | .write => trit 54 e 46 == 1
          | .exec => false
        if allowed && ok then .ok (.peer (field 54 e 48 3) (field 54 e 38 8) p) else .error 2
  else if !backed s die p then .error 1
  else if allowed then .ok (.home (memKey die p) l.comp) else .error 2

/-- Translate one tryte for an access: code 1, 2 or 7 of R318 on failure. -/
def translate (s : State) (ctx : Nat) (want : Want) (ptr : Int) (via : Via := .walker) : Except Nat Place :=
  match s.contexts.get? ctx with
  | none => .error 1
  | some c => (leafFor s via ctx c.root ptr).bind fun l => placeOf s ctx c want l ptr

/-- What the walk of an exported offset reads at its owner (R361, R400). -/
def ownerKeys (s : State) : Place → List Nat
  | .home _ _ => []
  | .peer o e f =>
    match (s.die o).exports.get? e with
    | none => []
    | some (ctx, base, _) => ((s.contexts.get? ctx).map fun c => ptrKeys s o c.root (base + (f : Int))).getD []

/-- What the owner makes of an exported offset (R400): a home key on the owner's die. The access then
proceeds as a local one would, so a write to an executable page is refused (R158). -/
def ownerKey (s : State) (owner exp off : Nat) (want : Want) : Except Nat (Nat × Bool) :=
  match (s.die owner).exports.get? exp with
  | none => .error 1
  | some (ctx, base, pages) =>
    match s.contexts.get? ctx with
    | none => .error 1
    | some c =>
      match localWalk s owner c.root (base + (off : Int)) with
      | .error e => .error e
      | .ok (l, p) =>
        if l.peer || decide (pages * 3 ^ 10 ≤ off) then .error 1
        else if want == .write && l.x then .error 2
        else .ok (memKey owner p, l.comp)

/-- The home key of a place, peers resolved at their owners. -/
def placeKey (s : State) (want : Want) : Place → Except Nat (Nat × Bool)
  | .home k c => .ok (k, c)
  | .peer o e f => ownerKey s o e f want

/-- The home keys of `n` trytes from a pointer (R399, R400). Every tryte is translated before the permissions of
any are looked at (R253). -/
def homeKeys (s : State) (ctx : Nat) (want : Want) (ptr : Int) (n : Nat) (via : Via := .walker) :
    Except Nat (List (Nat × Bool)) :=
  let ts := (List.range n).map fun (i : Nat) => translate s ctx want (ptr + (i : Int)) via
  match ts.find? fun t => match t with | .error c => c != 2 | .ok _ => false with
  | some (.error c) => .error c
  | _ => ts.mapM fun t => t.bind (placeKey s want)

/-- The walks of the device's own access to a run of trytes (R361, R372): of one pointer for each page. -/
def touchPages (s : State) (ctx : Nat) (ptr : Int) (n : Nat) : State :=
  let steps := (List.range ((n + 3 ^ 10 - 1) / 3 ^ 10)).map (fun (i : Nat) => ptr + 3 ^ 10 * (i : Int)) ++
    if n = 0 then [] else [ptr + (n : Int) - 1]
  ((steps.map fun p => (pageOf false p, p)).foldl (fun a x => if a.any (·.1 == x.1) then a else a ++ [x]) []).foldl
    (fun s x => touchXlate s .walker ctx x.2) s

/-- The device's own reading of trytes of a context's device space goes through their home slices, and so do its walks
(R361). -/
def touchRun (s : State) (ctx : Nat) (ptr : Int) (n : Nat) : State :=
  let s1 := touchPages s ctx ptr n
  match homeKeys s ctx .read ptr n with
  | .ok ks => touchReads s1 (ks.map Prod.fst)
  | .error _ => s1

/-! ### Pointers (R93 to R98) -/

/-- Space trit and the address of trits 43:0. -/
def spaceOf (ptr : Int) : Int := sfield 45 ptr 44 1
def addrOf (ptr : Int) : Int := sfield 45 ptr 0 44
def devicePtr (a : Int) : Int := a - 3 ^ 44

/-- The address sum of R97: none where it leaves the range. -/
def addAddr (ptr d : Int) : Option Int :=
  let a := addrOf ptr + d
  if fits 44 a then some (ptr + d) else none

/-! ### Links and routes (R391, R394) -/

/-- Directed links leave a die clockwise, counter-clockwise and to the I/O die, and come from the I/O die:
4 × die + 0, 1, 2, 3. -/
def linkEnd (l : Nat) : Nat := if l % 4 = 0 then (l / 4 + 1) % 8 else (l / 4 + 7) % 8

/-- The link that a packet at a die takes towards another die. -/
def nextLink (s : State) (here src dst : Nat) : Nat :=
  let d := (dst + 8 - src) % 8
  if s.record.routing == 1 || decide (d ≤ 4) then 4 * here else 4 * here + 1

/-- The links still to be crossed. -/
def routeLinks (s : State) (src dst : Nat) : Nat → Nat → List Nat
  | 0, _ => []
  | fuel + 1, here =>
    if here = dst then [] else
      let l := nextLink s here src dst
      l :: routeLinks s src dst fuel (linkEnd l)

/-- Is some of these homes on another die, with a link of the route there or back down? Such an access is
answered with the data-integrity fault (R392). -/
def cutOff (s : State) (die : Nat) (ks : List Nat) : Bool :=
  ks.any fun k =>
    let o := k / 3 ^ 27
    (routeLinks s die o 8 die ++ routeLinks s o die 8 o).any fun l => (s.link l).down

/-- The weave of a strand. -/
def State.weaveOf (s : State) (st : Strand) : Weave :=
  (s.weaves.get? st.weave).getD
    { die := dieOf st.core, ctx := 0, launch := 0, cluster := clusterOf st.core % 16, codeBase := 0,
      codeSize := 0 }

/-! ### Reading and writing homes (R102, R104, R361) -/

def readKeys (s : State) (ks : List Nat) : List Int := ks.map s.mem.get

/-- The word at a wait's place. -/
def waitWord (s : State) (cl : Nat) (w : Wait) : Int :=
  if w.sp then (s.cluster cl).scratch.get (w.locs.headD 0) else ofTrytes (readKeys s w.locs)

/-- Does a scratchpad word meet the data-integrity fault on its next access (R432)? -/
def Cluster.lostWord (c : Cluster) (j : Nat) : Bool := (c.bad.get? j).any (2 ≤ ·)

/-- Can the word at a wait's place not be read (R366, R432)? -/
def waitLost (s : State) (cl : Nat) (w : Wait) : Bool :=
  w.seen.isNone && if w.sp then (s.cluster cl).lostWord (w.locs.headD 0) else brokenAt s w.locs

/-- Is this the read of a waitw at its owner, under way (R270, R401)? -/
def awaits (a : Acc) : Bool :=
  match a.i with
  | .waitw .. => true
  | _ => false

/-- Every wait on these locations whose word now differs ends (R270, R271); one on another die's word has still to read it
again (R401), and what is written between that read and its answer is kept with it. -/
def noticeWrite (s : State) (sp : Bool) (locs : List Nat) : State :=
  let hit (w : Wait) : Bool := w.sp == sp && w.seen.isNone && w.locs.any locs.contains
  let late (a : Acc) : Bool := !sp && awaits a && a.keys.any locs.contains
  { s with
    accs := s.accs.map fun a => if late a then { a with result := a.result ++ [ofTrytes (a.keys.map s.mem.get)] } else a
    strands := s.strands.map fun (k, st) =>
      (k, if st.threads.any (fun t => match t.status with | .waiting w => hit w | _ => false) then
        let look (w : Wait) : Int := waitWord s (clusterOf st.core) w
        { st with threads := st.threads.map fun t =>
            match t.status with
            | .waiting w => if hit w && look w != w.val then
                { t with status := .waiting { w with seen := some (look w), asks := !w.places.isEmpty } } else t
            | _ => t }
        else st) }

/-- Lines of keys are used at their homes by a write, which says for each key whether its mapping is compressible. -/
def touchWrites (s : State) (ks : List (Nat × Bool)) : State :=
  (ks.map fun k => lineOf k.1).eraseDups.foldl (fun s n =>
    touchLine s (n / 3 ^ 27) (n % 3 ^ 27) (some ((ks.filter fun k => lineOf k.1 == n).all (·.2)))) s

/-- Write trytes at their homes. A line that a write fetches or replaces keeps what memory held before it. -/
def writeKeys (s : State) (ks : List (Nat × Bool)) (xs : List Int) : State :=
  let s1 := mendWords (touchWrites s ks) (ks.map Prod.fst)
  let s2 := { s1 with mem := (ks.zip xs).foldl (fun m (k, x) => m.put k.1 x) s1.mem }
  noticeWrite s2 false (ks.map Prod.fst)

/-- Words of a context's device space as the device itself reads them, from a pointer: code 1, 2 or 7 where it
cannot (R366, R370, R371). -/
def ctxWords (s : State) (ctx : Nat) (ptr : Int) (n : Nat) : Except Nat (List Int) :=
  (List.range n).mapM fun (i : Nat) =>
    match homeKeys s ctx .read (ptr + 3 * (i : Int)) 3 with
    | .ok ks => if brokenAt s (ks.map Prod.fst) then .error 7 else .ok (ofTrytes (readKeys s (ks.map Prod.fst)))
    | .error c => .error c

/-- Write words into a context's device space; none where a tryte is not writable (R324), or its line cannot be read to be
written (R366). -/
def ctxWrite (s : State) (ctx : Nat) (ptr : Int) : List Int → Option State
  | [] => some s
  | w :: ws =>
    match homeKeys s ctx .write ptr 3 with
    | .ok ks =>
      if brokenAt s (ks.map Prod.fst) then none else ctxWrite (writeKeys s ks (toTrytes 3 w)) ctx (ptr + 3) ws
    | .error _ => none

/-! ### Host memory (R93, R94) -/

/-- A byte of host memory: 0 where none is listed (log 5). -/
def hostByte (s : State) (a : Nat) : Nat := ((s.host.find? fun c => c.1 == a).map fun c => c.2.toNat).getD 0
def hostBytes (s : State) (a n : Nat) : List Nat := (List.range n).map fun i => hostByte s (a + i)

/-- Put a byte into a host memory list, kept sorted and without zero entries. -/
def putHost : List Host.Cell → Nat → Nat → List Host.Cell
  | [], a, b => if b % 256 = 0 then [] else [(a, BitVec.ofNat 8 b)]
  | (k, v) :: r, a, b =>
    if a < k then (if b % 256 = 0 then (k, v) :: r else (a, BitVec.ofNat 8 b) :: (k, v) :: r)
    else if a = k then (if b % 256 = 0 then r else (a, BitVec.ofNat 8 b) :: r)
    else (k, v) :: putHost r a b

def writeHost (s : State) (a : Nat) : List Nat → State
  | [] => s
  | b :: bs => writeHost { s with host := putHost s.host a b } (a + 1) bs

/-- Little-endian number of bytes, and back. -/
def leNat : List Nat → Nat
  | [] => 0
  | b :: bs => b + 256 * leNat bs
def leBytes : Nat → Nat → List Nat
  | 0, _ => []
  | n + 1, x => x % 256 :: leBytes n (x / 256)
/-- A signed 64-bit field. -/
def leInt (bs : List Nat) : Int :=
  let x := leNat bs
  if x < 2 ^ (8 * bs.length - 1) then x else (x : Int) - 2 ^ (8 * bs.length)

/-- Capture records an entry for a context while it is armed for it. It stops when the capture area is full, and the log is
then incomplete (R437). -/
def capture (s : State) (ctx : Nat) (x : Captured) : State :=
  let c := s.mgmt.capture
  if c.armed = some (ctx / 256, ctx % 256) ∧ !c.incomplete then
    let room := s.record.captureArea - ((c.log.map fun y => y.bytes.length).sum)
    { s with mgmt := { s.mgmt with capture :=
      { c with log := c.log ++ [{ x with bytes := x.bytes.take room }], incomplete := decide (room ≤ x.bytes.length) } } }
  else s

/-! ### The data cache (R359, R360) -/

/-- Drop lines of a core's data cache. -/
def dropLines (s : State) (core : Nat) (p : Nat → Bool) : State :=
  if (s.core core).dcache.isEmpty then s
  else s.modCore core fun c => { c with dcache := c.dcache.filter fun l => !p l.line }
def dropAll (s : State) (core : Nat) : State := dropLines s core fun _ => true

/-- Allocate a line in a cache whose lines stand in order of use, replacing the least recently used of its
set, lines read with keep last. -/
def allocLine (ls : List DLine) (x : DLine) : List DLine :=
  let set := ls.filter fun l => l.line % 3 ^ 27 % Config.dcacheSets == x.line % 3 ^ 27 % Config.dcacheSets
  if set.length < Config.dcacheWays then x :: ls
  else
    let pool := if set.all (·.keep) then set else set.filter fun l => !l.keep
    x :: ls.filter fun l => some l.line != pool.getLast?.map (·.line)

/-- The trytes of a resident line that an access covers, replaced; what stands there now is as new as its home. -/
def DLine.store (l : DLine) (kxs : List (Nat × Int)) : DLine :=
  let l := { l with apart := l.apart.filter fun k => !kxs.any fun kx => kx.1 == k }
  kxs.foldl (fun l kx => if lineOf kx.1 == l.line then
    let i := kx.1 % 3 ^ 27 % 81
    { l with trytes := l.trytes.set i kx.2, behind := l.behind.filter fun x => x.2 != i } else l) l

/-- A core's own store keeps its resident copies current (R360). -/
def cachedWrite (s : State) (core : Nat) (ks : List Nat) (xs : List Int) : State :=
  if (s.core core).dcache.isEmpty then s
  else s.modCore core fun c => { c with dcache := c.dcache.map fun l => l.store (ks.zip xs) }

/-- The places of a line at which it holds other trytes than these. -/
def DLine.stale (l : DLine) (kxs : List (Nat × Int)) : List Nat :=
  (kxs.filter fun kx => lineOf kx.1 == l.line && l.trytes.getD (kx.1 % 3 ^ 27 % 81) 0 != kx.2).map fun kx =>
    kx.1 % 3 ^ 27 % 81

/-- A strand has these trytes from their homes: a resident line that holds others stays as it is (R360), but serves the
strand no more for them, or a later plain load would go back behind what it has read (R102, R103, log 31). -/
def markBehind (s : State) (core k : Nat) (ks : List Nat) (xs : List Int) : State :=
  if (s.core core).dcache.any fun l => !(l.stale (ks.zip xs)).isEmpty then
    s.modCore core fun c => { c with dcache := c.dcache.map fun l =>
      { l with behind := l.behind ++ ((l.stale (ks.zip xs)).map fun i => (k, i)).filter fun x => !l.behind.contains x } }
  else s

/-- A read by a strand of a core at the homes (R102). -/
def homeRead (s : State) (core k : Nat) (ks : List Nat) : State × List Int :=
  let xs := readKeys s ks
  (markBehind (touchReads s ks) core k ks xs, xs)

/-- Is the line of these trytes resident in a core's data cache? -/
def resident (s : State) (core : Nat) (ks : List Nat) : Bool :=
  (s.core core).dcache.any fun l => l.line == lineOf (ks.headD 0)

/-- The resident lines that serve a strand's plain load of these trytes. Stream loads are served at the homes; so is a load
of what the strand has read newer (log 31), of a word that came in broken (R432), and of a pair over two lines that would not
be the whole of one write (R104, log 107). -/
def residentFor (s : State) (core k hint : Nat) (ks : List Nat) : Option (List DLine) :=
  if hint == 1 then none
  else
    (ks.map lineOf).eraseDups.mapM fun n => (s.core core).dcache.find? fun l =>
      l.line == n && !(ks.any l.apart.contains) &&
        !l.behind.any fun x => x.1 == k && ks.any fun key => lineOf key == n && key % 3 ^ 27 % 81 == x.2

/-- The words of a line that cannot be corrected as it is read, by their trytes. -/
def brokenTrytes (s : State) (line : Nat) : List Nat :=
  match held s (line / 3 ^ 27) (line % 3 ^ 27) with
  | some x => (x.bad.filter fun b => decide (2 ≤ b.2)).flatMap fun b => (List.range 3).map fun i => lineBase line + 3 * b.1 + i
  | none => []

/-- The trytes at a resident line's ends, where a pair may go over to another line, that it holds older than their homes. -/
def DLine.oldEnds (s : State) (l : DLine) : List Nat :=
  ([0, 1, 2, 78, 79, 80].map (lineBase l.line + ·)).filter fun k =>
    l.trytes.getD (k % 3 ^ 27 % 81) 0 != s.mem.get k

/-- Bring a line into a core's data cache. -/
def fetchLine (s : State) (core line : Nat) (keep : Bool) : State :=
  let s1 := touchReads s ((List.range 81).map fun i => lineBase line + i)
  s1.modCore core fun c =>
    let rest := c.dcache.map fun l => { l with apart := l.apart.filter fun k => lineOf k != line }
    let old := (c.dcache.filter fun l => l.line != line).flatMap (DLine.oldEnds s1)
    let x : DLine := { line, trytes := s.mem.getRun (lineBase line) 81, keep, apart := brokenTrytes s1 line ++ old }
    { c with dcache := allocLine rest x }

/-- A plain load of trytes by a strand of a core (R254, R359): from resident lines, or from the homes, which
allocates the lines that are not resident. -/
def cachedRead (s : State) (core k : Nat) (hint : Nat) (ks : List Nat) : State × List Int :=
  match residentFor s core k hint ks with
  | some ls =>
    (s.modCore core fun c =>
        { c with dcache := ls.map (fun l => { l with keep := l.keep || hint == 2 }) ++
            c.dcache.filter fun m => !ls.any fun l => l.line == m.line },
      ks.map fun key => ((ls.find? fun l => l.line == lineOf key).map fun l => l.trytes.getD (key - lineBase l.line) 0).getD 0)
  | none =>
    if hint == 1 then homeRead s core k ks
    else
      let away (n : Nat) : Bool := !resident s core [lineBase n]
      let here := ks.filter fun key => !away (lineOf key)
      let s1 := (((ks.map lineOf).eraseDups).filter away).foldl (fun s n => fetchLine s core n (hint == 2)) s
      (markBehind (touchReads s1 here) core k ks (readKeys s ks), readKeys s ks)

/-- A strand that comes to a core has seen what the homes hold (R102, R334): the core's resident lines serve it no more
where they are older. -/
def markResident (s : State) (core k : Nat) : State :=
  (s.core core).dcache.foldl (fun s l =>
    let ks := (List.range 81).map fun i => lineBase l.line + i
    markBehind s core k ks (readKeys s ks)) s

/-! ### The instruction cache (R246, R359) -/

/-- Does a cache line hold trytes of a pinned code line (R246)? Code lines count from the start of the segment, and may
stand across two device lines. -/
def pinned (pins : List (Nat × Int)) (l : ILine) : Bool :=
  pins.any fun p => p.1 == l.ctx && decide (l.first < p.2 + 81) && decide (p.2 < l.first + 81)

/-- Allocate a line in an instruction cache whose lines stand in order of use: the least recently used of a full set
goes, but for pinned ones, and with nothing to replace the line is not kept. -/
def allocCode (pins : List (Nat × Int)) (ls : List ILine) (x : ILine) : List ILine :=
  let set := ls.filter fun l => l.line % 3 ^ 27 % Config.icacheSets == x.line % 3 ^ 27 % Config.icacheSets
  if set.length < Config.icacheWays then x :: ls
  else
    match (set.filter fun l => !pinned pins l).getLast? with
    | some v => x :: ls.filter (· != v)
    | none => ls

/-- The resident code line with a home line key. -/
def codeHeld? (s : State) (core ctx line : Nat) : Option ILine :=
  (s.core core).icache.find? fun l => l.ctx == ctx && l.line == line

/-- Bring the line of a code pointer into a core's instruction cache, or use it there. One that does not translate,
cannot be read, or would have to wait is left out. -/
def fetchCode (s : State) (core ctx : Nat) (p : Int) (via : Via) : State :=
  match homeKeys s ctx .exec p 1 via with
  | .ok [(k, _)] =>
    let line := lineOf k
    match codeHeld? s core ctx line with
    | some l => s.modCore core fun c => { c with icache := l :: c.icache.filter (· != l) }
    | none =>
      let ks := (List.range 81).map fun i => lineBase line + i
      if brokenAt s ks || tierWaits s ks then s
      else
        (touchReads (fillTlb s via ctx p) ks).modCore core fun c =>
          { c with icache := allocCode c.pins c.icache ⟨ctx, p - (k - lineBase line : Nat), line, s.mem.getRun (lineBase line) 81⟩ }
  | _ => s

/-- Bring a code line, from its first tryte, into a core's instruction cache: the one or two device lines it stands in. -/
def fetchCodeLine (s : State) (core ctx : Nat) (p : Int) : State :=
  fetchCode (fetchCode s core ctx p (.core core)) core ctx (p + 80) (.core core)

/-- A tryte of code as a core fetches it: from the instruction cache, or from its home. -/
def codeTryte (s : State) (core ctx key : Nat) : Int :=
  match codeHeld? s core ctx (lineOf key) with
  | some l => l.trytes.getD (key - lineBase l.line) 0
  | none => s.mem.get key

end Sys2Proof.Machine
end

