-- ==== Sys2Proof/Machine/Ops.lean ====
section
/-!
DEFINITION. The named operations that change the course of a strand or context: raising a fault and beginning a
halt (R318, R319, R321), and taking and leaving a trap (R245, R316).
-/
namespace Sys2Proof.Machine

/-! ### Faults (R318, R319) -/

/-- Is the partition that holds a cluster of a context halting already? -/
def halting (p : Part) : Bool :=
  match p.phase with
  | .halt _ _ _ | .imaging _ _ => true
  | _ => false

/-- The partitions of a die that a context holds. -/
def partsOf (s : State) (ctx : Nat) : List Nat :=
  (List.range 3).filter fun p => let x := s.part (ctx / 256) p; x.phase != .free && x.ctx == ctx

/-- Cycles of a number of microseconds. -/
def us (n : Nat) : Nat := n * Config.usCycles

/-- The time that a halt counts in (R321): cycles of the core that raised it, or reference cycles. -/
def clockTime (s : State) (clock : Option Nat) : Nat :=
  match clock with
  | some c => (counter s c).toNat
  | none => s.cycle

/-- Registers from number `n` on are removed or granted anew: none of them is in the invalid state. -/
def Strand.dropBad (st : Strand) (n : Nat) : Strand :=
  { st with bad := st.bad.filter fun b => b.cls != 1 || decide (b.idx < n) }

/-- Granules are granted up to a holding (R42): the registers beyond the old one are there now, and read 0 in every
lane. -/
def Strand.granted (st : Strand) (granules : Nat) : Strand :=
  { st.dropBad (9 * st.granules) with
    granules := granules,
    threads := st.threads.map fun t => { t with v := t.v.clear (9 * st.granules) (9 * granules) } }

/-- A register that is written in lanes is valid there again (R47). -/
def Strand.validLanes (st : Strand) (cls idx : Nat) (lanes : List Nat) : Strand :=
  { st with bad := st.bad.filter fun b => !(b.cls == cls && b.idx == idx && lanes.contains b.lane) }
/-- An s pair that is written is valid again (R47). -/
def Strand.validPair (st : Strand) (d : Nat) : Strand :=
  { st with bad := st.bad.filter fun b => !(b.cls == 2 && (b.idx == d || b.idx == d + 1)) }

/-- A grow completes with a status (R42): the lanes go on, their condition register written. -/
def endGrow (st : Strand) (r : GrowReq) (status : Int) (granules : Nat) : Strand :=
  (st.granted granules).modThreads r.lanes fun _ t => { t.setCond r.c { sign := status } with status := .ready }

/-- Queued grows of strands complete with status 0 (R44, R45). -/
def denyGrows (s : State) (core : Nat) (p : Nat → Bool) : State :=
  let q := (s.core core).growQ
  if q.any fun r => p r.strand then
    (q.filter fun r => p r.strand).foldl (fun s r => s.modStrand r.strand fun st => endGrow st r 0 st.granules)
      (s.modCore core fun c => { c with growQ := c.growQ.filter fun r => !p r.strand })
  else s

/-- The cores of a partition of a die. -/
def coresOf (die p : Nat) : List Nat :=
  ((List.range 64).map fun i => 64 * die + i).filter fun c => partHolds p (clusterOf c % 16)

/-- Is a strand of a weave on this partition of the die? -/
def onPart (s : State) (die p : Nat) (k : Nat) : Bool :=
  ((s.strands.get? k).bind fun st => s.weaves.get? st.weave).any fun w => w.die == die && w.part == p

/-- Begin a halt of one partition (R321): cores issue for 27 more cycles of the clock, queued grows end
with status 0 (R45), the swap deadline runs. -/
def beginHalt (s : State) (die p reason : Nat) (clock : Option Nat) : State :=
  let swap := s.cycle + us (s.die die).swapUs
  let s1 := s.modPart die p fun x => { x with phase := .halt (clockTime s clock) swap reason, clock := clock }
  (coresOf die p).foldl (fun s c => denyGrows s c (onPart s1 die p)) s1

/-- A fault against a context (R319). The first is the context's and raises the halt line of every partition it
occupies, those of a pre-emption halt already under way left as they are (log 74); a later one is recorded in its
own strand or operation alone. `core` is the faulting core where no strand or operation gives it. -/
def raiseFault (s : State) (ctx : Nat) (strand op : Option Nat) (f : FaultInfo) (core : Option Nat := none) :
    State :=
  let die := ctx / 256
  let clock := (core.or ((strand.bind s.strands.get?).map (·.core))).or ((op.bind s.ops.get?).map (·.core))
  let s1 := match strand with
    | some k => s.modStrand k fun st =>
        { st with fault := st.fault.or (some f), faultAddr := f.addr.getD st.faultAddr }
    | none => s
  let s2 := match op with
    | some o => s1.modOp o fun x => { x with fault := x.fault.or (some f) }
    | none => s1
  match s2.contexts.get? ctx with
  | none => s2
  | some c =>
    if c.status != .alive then s2
    else
      let s3 := s2.modCtx ctx fun c =>
        { c with status := .faulted, fault := some f, faultStrand := strand, faultOp := op,
                 faultCycle := clockTime s clock }
      (partsOf s3 ctx).foldl (fun s p => if halting (s.part die p) then s else beginHalt s die p 0 clock) s3

/-! ### Traps (R181, R315 to R317, R245) -/

/-- A trap raised by a clause or by a completing cpt: the first cause is kept while one is pending,
every lane is added (R181, R316); behind the global trit it is held (R285). -/
def raiseTrap (st : Strand) (cause : Int) (lanes : List Nat) : Strand :=
  let add (a b : List Nat) := a ++ b.filter fun x => !a.contains x
  if st.mask.global then
    match st.heldTrap with
    | some (c, ls) => { st with heldTrap := some (c, add ls lanes) }
    | none => { st with heldTrap := some (cause, lanes) }
  else if st.pending then { st with trapLanes := add st.trapLanes lanes }
  else { st with pending := true, cause := cause, trapLanes := lanes }

/-- The timer condition (R57). -/
def timerDue (s : State) (st : Strand) : Bool :=
  st.mask.timer && decide (st.comparator ≤ counter s st.core)

/-- May a trap be delivered now, but for the global trit (R316, R238)? -/
def atBoundary (st : Strand) : Bool := st.pick.isNone && !st.threads.any fun t => t.status == .inGrow

/-- The word a waiting thread sees now. -/
def waitValue (s : State) (st : Strand) (w : Wait) : Int :=
  w.seen.getD (waitWord s (clusterOf st.core) w)

/-- One thread enters the handler (R316, R238): sleeps and waits end, a barrier is remembered. A thread that enters from within
a handler, at no barrier, keeps the barrier it came from first: R238 says nothing of a second entry (DESIGN CHOICE, log 94). -/
def enterHandler (s : State) (st : Strand) (t : Thread) : Thread :=
  if !t.active then t
  else
    let t1 := match t.status with
      | .waiting w => t.vput w.dest (waitValue s st w)
      | _ => t
    let ret := match t.status with
      | .bar n => some (n, false)
      | .barw n => some (n, true)
      | _ => t.ret
    { t1 with status := .ready, savedPc := t.pc, savedPos := t.pos, pc := st.handlerPc, pos := 0,
              age := 0, inHandler := true, awaits := false, ret := ret }

/-- A thread of a strand ends its wait with a value of the word (R270): no older copy of it serves the strand any more
(R102, log 31). -/
def endWait (s : State) (k : Nat) (st : Strand) (w : Wait) : State :=
  if w.sp then s else markBehind s st.core k w.locs (toTrytes 3 (waitValue s st w))

/-- The wait of a strand's thread ends if the word differs or a wake named it (R270, R271): the register receives the
word, and the thread goes on. Of a word of another die the core sees no change but those that it is told of. -/
def finishWait (s : State) (k lane : Nat) : State :=
  match s.strands.get? k with
  | none => s
  | some st =>
    let t := st.thread lane
    match t.status with
    | .waiting w =>
      let v := waitValue s st w
      if w.seen.isSome || (w.places.isEmpty && !waitLost s (clusterOf st.core) w && v != w.val) then
        (endWait s k st w).setStrand k
          ((st.setThread lane { t.vput w.dest v with status := .ready }).validLanes 1 w.dest [lane])
      else s
    | _ => s

/-- Every wait of a strand ends, as a trap is delivered (R316). -/
def endWaits (s : State) (k : Nat) (st : Strand) : State :=
  st.threads.foldl (fun s t => match t.status with
    | .waiting w => endWait s k st w
    | _ => s) s

/-- The registers that waits ended by a trap receive are valid again (R47, R316). -/
def validWaits (st : Strand) : List RegName :=
  st.bad.filter fun b => !(b.cls == 1 && match (st.thread b.lane).status with
    | .waiting w => w.dest == b.idx
    | _ => false)

/-- TAKING A TRAP, in one step (R316): saved PC and position, handler address, cause, trap lanes,
global trit. With no thread left to enter, the trap is discarded. -/
def takeTrap (s : State) (st : Strand) (cause : Int) (lanes : List Nat) : Strand :=
  if st.threads.any Thread.active then
    { st with threads := st.threads.map (enterHandler s st), cause := cause, trapLanes := lanes,
              pending := false, mask := { st.mask with global := true }, bad := validWaits st }
  else { st with pending := false, cause := causeNone, trapLanes := [] }

/-- The lowest thread of a strand whose wait stands at a word that cannot be read (R366, R432). -/
def lostWait (s : State) (st : Strand) : Option (Nat × Wait) :=
  (List.range 32).findSome? fun l => match (st.thread l).status with
    | .waiting w => if waitLost s (clusterOf st.core) w then some (l, w) else none
    | _ => none

/-- The fault of a thread whose wait ends at a word that cannot be read. -/
def waitFault (s : State) (k : Nat) (st : Strand) (lane : Nat) (w : Wait) : State :=
  raiseFault s (s.weaveOf st).ctx (some k) none { code := 7, pos := w.before + 1, lane, addr := some w.ptr }

/-- DELIVERING A TRAP to a strand (R316): every wait ends with its word's value, which is read now, and the trap is taken. A
wait whose word cannot be read is a data-integrity fault instead. -/
def deliverTrap (s : State) (k : Nat) (st : Strand) (cause : Int) (lanes : List Nat) : State :=
  match lostWait s st with
  | some (l, w) => waitFault s k st l w
  | none => (endWaits s k st).setStrand k (takeTrap s st cause lanes)

/-- LEAVING A HANDLER (R245): once no thread of the handler is still running, every thread waiting
in tret goes to its saved PC and position, or back to its barrier while the round that marked it is
open (R238). A trap still pending as the last tret completes is discarded with the cause that R245 sets to none; R316
would deliver it at the boundary (DESIGN CHOICE, log 105). -/
def leaveHandler (st : Strand) : Strand :=
  let still := st.threads.any fun t => t.inHandler && t.live && t.status != .inTret
  let some_ := st.threads.any fun t => t.status == .inTret
  if still || !some_ then st
  else
    { st with
      threads := st.threads.map fun t =>
        if t.status == .inTret then
          let status := match t.ret with
            | some (n, w) => if w then .barw n else .bar n
            | none => .ready
          { t with status := status, pc := t.savedPc, pos := t.savedPos, inHandler := false, ret := none }
        else t
      cause := causeNone, trapLanes := [], pending := false,
      mask := { st.mask with global := false } }

end Sys2Proof.Machine
end

