-- ==== Sys2Proof/Machine/Events.lean ====
section
/-!
DEFINITION. Event records and interrupts (R325, R413, R415).
-/
namespace Sys2Proof.Machine

/-- A stop cause word (R325). -/
def stopWord (reason code : Nat) (pos lane cls reg : Nat) : Int :=
  ((reason : Int) - 13) * 3 ^ 24 + ((code : Int) - 13) * 3 ^ 21 + ((pos : Int) - 13) * 3 ^ 18 +
    ((lane : Int) - 40) * 3 ^ 14 + ((cls : Int) - 13) * 3 ^ 11 + ((reg : Int) - 121) * 3 ^ 6

/-- The stop cause word of a fault, with reason 0. -/
def faultWord (f : FaultInfo) : Int := stopWord 0 f.code f.pos f.lane f.cls f.reg

/-- Send an MSI-X message; a masked vector stays pending (R413). -/
def sendMsix (s : State) (die v : Nat) : State :=
  let d := s.die die
  if d.unmasked.contains v then { s with msix := (die, v) :: s.msix }
  else if d.vectors.contains v then s
  else s.setDie die { d with vectors := d.vectors ++ [v] }

/-- Post an event record and send vector 0; a full ring drops it and raises the overflow bit (R415). -/
def postEvent (s : State) (die type ctx queue : Nat) (cause : Int) : State :=
  let b := (s.die die).bar
  if b.eventSize ≤ (b.events + 2 ^ 64 - b.eventHead) % 2 ^ 64 then
    s.modDie die fun d => { d with bar := { d.bar with overflow := true } }
  else
    let bytes := leBytes 2 type ++ leBytes 2 ctx ++ leBytes 2 queue ++ [0, 0] ++ wordBytes cause ++
      List.replicate 18 0
    let s1 := writeHost s (b.eventRing + 32 * (b.events % b.eventSize)) bytes
    let s2 := s1.modDie die fun d => { d with bar := { d.bar with events := (d.bar.events + 1) % 2 ^ 64 } }
    sendMsix s2 die 0

end Sys2Proof.Machine
end

