-- ==== Sys2Proof/Machine/Flags.lean ====
section
/-!
DEFINITION. What an instruction leaves in a condition register: the packed rule of R67 and the
element-wise fitting of R182.
-/
namespace Sys2Proof.Machine

/-- The last element that is not 0, else 0: the rule R67 gives for sign and for overflow. -/
def lastNonzero (xs : List Int) : Int := (xs.reverse.find? (· != 0)).getD 0

/-- setcc with the packed rule (R67); a single element is its own packed word. -/
def packedCond (ws cys ovs : List Int) : Cond :=
  { sign := (lastNonzero ws).sign, carry := cys.getLastD 0, ovf := lastNonzero ovs }

/-- The fitting that an instruction's modifier selects (R181). -/
def fitBy (m : Fit) (x : Int) (n : Nat) : Fitted :=
  match m with
  | .wrap => wrap x n
  | _ => saturate x n

/-- Width and element count of an integer type (R63, R178). -/
def width (t : IType) : Nat := WF.trits t
def count (t : IType) : Nat := WF.elems t

/-- The elements of an operand value of an integer type: the word's elements, or the pair. -/
def elemsOf (t : IType) (x : Int) : List Int :=
  match t with
  | .t27 | .p => [x]
  | _ => (List.range (count t)).map fun j => elem (width t) x j

/-- The operand value that elements make (R64). -/
def ofElems (t : IType) (xs : List Int) : Int := packElems (width t) xs

/-- The packed result and its condition (R182). -/
structure Packed where
  value : Int
  cond : Cond
  overflowed : Bool
  deriving DecidableEq, Repr

def packFits (t : IType) (fs : List Fitted) : Packed :=
  { value := ofElems t (fs.map (·.w))
    cond := packedCond (fs.map (·.w)) (fs.map (·.carry)) (fs.map (·.ovf))
    overflowed := fs.any fun f => f.ovf != 0 }

/-- Fit the exact element values of an instruction (R182). -/
def fitAll (t : IType) (m : Fit) (xs : List Int) : Packed := packFits t (xs.map fun x => fitBy m x (width t))

end Sys2Proof.Machine
end

