-- ==== Sys2Proof/Machine/Floats.lean ====
section
/-!
DEFINITION. Ternary floats (R68 to R78): decoding, exact values, trunc, summed groups, and the
roots and functions of three (R211, R212), each formed exactly and rounded once.
-/
namespace Sys2Proof.Machine

/-- Float format parameters (R71): width, significand trits, largest exponent. -/
structure Fmt where
  n : Nat
  p : Nat
  emax : Int
  deriving DecidableEq, Repr

def fmt9 : Fmt := ⟨9, 6, 13⟩
def fmt27 : Fmt := ⟨27, 22, 121⟩
def fmtOf : FType → Fmt
  | .f9 => fmt9
  | .f27 => fmt27

/-- A float operand's value: m·3^e, an infinity, or a NaN with its payload and the significand width
it was read in. -/
inductive FVal where
  | fin (m e : Int)
  | inf (sign : Int)
  | nan (p : Nat) (payload : Int)
  deriving DecidableEq, Repr

def FVal.zero : FVal := .fin 0 0

/-- The classes of R70, with the codes of fcls (R214). -/
structure Decoded where
  val : FVal
  code : Int
  deriving DecidableEq, Repr

/-- decode(w, F) (R70). -/
def fclass (f : Fmt) (w : Int) : Decoded :=
  let e := sfield f.n w f.p (f.n - f.p)
  let s := sfield f.n w 0 f.p
  if trit f.p s (f.p - 1) != 0 then ⟨.fin s (e - f.p + 1), s.sign⟩
  else if e = 0 then
    if s = 0 then ⟨.zero, 0⟩ else ⟨.fin s (-f.emax - f.p + 1), 2 * s.sign⟩
  else if e = f.emax then
    if s = 1 ∨ s = -1 then ⟨.inf s, 3 * s⟩ else ⟨.nan f.p s, 4⟩
  else ⟨.nan f.p 0, 5⟩

def fdecode (f : Fmt) (w : Int) : FVal := (fclass f w).val

/-- encode(F, E, S) (R75). -/
def fencode (f : Fmt) (e s : Int) : Int := e * 3 ^ f.p + s
/-- The canonical NaN (R71), an infinity, and a NaN that takes an operand's payload (R72). -/
def canonNan (f : Fmt) : Int := fencode f f.emax 0
def encInf (f : Fmt) (s : Int) : Int := fencode f f.emax s
def encNan (f : Fmt) (p : Nat) (pay : Int) : Int :=
  if p = f.p then fencode f f.emax pay
  else if p < f.p then fencode f f.emax (pay * 3 ^ 16)
  else
    let s := nearestDiv pay (3 ^ 16)
    fencode f f.emax (if s = 1 ∨ s = -1 then 0 else s)

/-- Negation inverts S; a payload passes unchanged (R72, R73). -/
def FVal.neg : FVal → FVal
  | .fin m e => .fin (-m) e
  | .inf s => .inf (-s)
  | .nan p x => .nan p x

def FVal.sign : FVal → Int
  | .fin m _ => m.sign
  | .inf s => s
  | .nan _ _ => 0

/-! ### Exact numbers and trunc -/

/-- An exact number: num / den · 3^exp, den positive. -/
structure Exact where
  num : Int
  den : Nat
  exp : Int
  deriving DecidableEq, Repr

def exactOf (m e : Int) : Exact := ⟨m, 1, e⟩

/-- Raise `t` while 3^(t+1) is at most `n`. -/
def log3Up (n : Nat) : Nat → Nat → Nat
  | 0, t => t
  | fuel + 1, t => if 3 ^ (t + 1) ≤ n then log3Up n fuel (t + 1) else t

/-- The largest t with 3^t at most `n`, for `n` at least 1. -/
def ilog3 (n : Nat) : Nat := let b := Nat.log2 n; log3Up n (b / 500 + 5) (b * 630 / 1000)

/-- The integer t with 3^t ≤ a / b < 3^(t+1). -/
def ratLog3 (a b : Nat) : Int :=
  if b ≤ a then ilog3 (a / b)
  else
    let r := ilog3 ((b + a - 1) / a)
    if b ≤ 3 ^ r * a then -(r : Int) else -(r : Int) - 1

/-- nearest(x / 3^k) (R66). -/
def nearestAt (x : Exact) (k : Int) : Int :=
  if k ≤ x.exp then nearestDiv (x.num * 3 ^ (x.exp - k).toNat) x.den
  else nearestDiv x.num (x.den * 3 ^ (k - x.exp).toNat)

/-- trunc(x, F, mode) (R75): the encoding and the overflow direction. -/
def trunc (x : Exact) (f : Fmt) (sat : Bool) : Int × Int :=
  if x.num = 0 then (0, 0)
  else
    let e0 := ratLog3 (2 * x.num.natAbs) x.den + x.exp
    let e := max (-f.emax) (min f.emax e0)
    let s := nearestAt x (e - f.p + 1)
    let low := (3 ^ (f.p - 1) + 1 : Nat) / 2
    if half f.p < s.natAbs then
      if sat then (fencode f f.emax (x.num.sign * half f.p), x.num.sign)
      else (encInf f x.num.sign, x.num.sign)
    else
      let lower := decide (s.natAbs < low) && decide (-f.emax < e)
      let s1 := if lower then 3 * s else s
      let e1 := if lower then e - 1 else e
      if s1.natAbs < low then (fencode f 0 s1, 0) else (fencode f e1 s1, 0)

/-! ### Results -/

/-- The exceptions of R181 and R207. -/
inductive Exn where
  | overflow | divide | invalid
  deriving DecidableEq, Repr

/-- One element's result: encoding, overflow direction, exception, and its sign for R78. -/
structure FRes where
  w : Int
  ovf : Int := 0
  exn : Option Exn := none
  sign : Int := 0
  deriving DecidableEq, Repr

/-- A value rounded into a format; only a finite value that overflows signals (R207). -/
def roundTo (f : Fmt) (sat : Bool) (x : Exact) : FRes :=
  let (w, o) := trunc x f sat
  { w, ovf := o, exn := if o = 0 then none else some .overflow,
    sign := if w = 0 then 0 else x.num.sign }

def resNan (f : Fmt) (p : Nat) (pay : Int) : FRes := { w := encNan f p pay }
/-- An infinite result. Of one that is exact (an infinite operand, or a division by zero) R78 names no overflow direction:
the overflow trit is 0 (DESIGN CHOICE, log 91). -/
def resInf (f : Fmt) (s : Int) : FRes := { w := encInf f s, sign := s }
def resInvalid (f : Fmt) : FRes := { w := canonNan f, exn := some .invalid }
def resDivide (f : Fmt) (s : Int) : FRes := { w := encInf f s, exn := some .divide, sign := s }
def resZero : FRes := { w := 0 }

/-- First NaN of an operand list (R72). -/
def firstNan : List FVal → Option (Nat × Int)
  | [] => none
  | .nan p x :: _ => some (p, x)
  | _ :: r => firstNan r

/-- A product of operands that are not NaN: none for 0 × ∞ (R77). -/
def product : List FVal → Option FVal
  | [] => some (.fin 1 0)
  | x :: r =>
    match product r with
    | none => none
    | some y =>
      match x, y with
      | .fin a e, .fin b g => some (.fin (a * b) (e + g))
      | .inf s, z | z, .inf s => if z.sign = 0 then none else some (.inf (s * z.sign))
      | _, _ => none

/-- Exact sum of finite values. -/
def addFin (m e n g : Int) : Int × Int :=
  if e ≤ g then (m + n * 3 ^ (g - e).toNat, e) else (m * 3 ^ (e - g).toNat + n, g)

/-- The exact sum of values that are not NaN: none for opposite infinities (R77). -/
def sumVals : List FVal → Option FVal
  | [] => some .zero
  | x :: r =>
    match sumVals r with
    | none => none
    | some y =>
      match x, y with
      | .fin a e, .fin b g => let (m, k) := addFin a e b g; some (.fin m k)
      | .inf s, .inf t => if s = t then some (.inf s) else none
      | .inf s, _ | _, .inf s => some (.inf s)
      | _, _ => none

/-- The value of a summed group of products before rounding (R77, R81): a NaN operand first, then an
invalid product or opposite infinities, then the exact sum. -/
inductive Summed where
  | nan (p : Nat) (pay : Int)
  | invalid
  | val (v : FVal)
  deriving DecidableEq, Repr

def sumGroup (terms : List (List FVal)) : Summed :=
  match firstNan terms.flatten with
  | some (p, x) => .nan p x
  | none =>
    match (terms.mapM product).bind sumVals with
    | none => .invalid
    | some v => .val v

/-- A summed group rounded once (R81, R207). -/
def fsum (f : Fmt) (sat : Bool) (terms : List (List FVal)) : FRes :=
  match sumGroup terms with
  | .nan p x => resNan f p x
  | .invalid => resInvalid f
  | .val (.inf s) => resInf f s
  | .val (.fin m e) => roundTo f sat (exactOf m e)
  | .val (.nan p x) => resNan f p x

/-- Division (R77, R211). -/
def fdivVal (f : Fmt) (sat : Bool) (a b : FVal) : FRes :=
  match firstNan [a, b] with
  | some (p, x) => resNan f p x
  | none =>
    match a, b with
    | .fin m e, .fin n g =>
      if n = 0 then (if m = 0 then resInvalid f else resDivide f m.sign)
      else roundTo f sat ⟨m * n.sign, n.natAbs, e - g⟩
    | .inf s, .fin n _ => resInf f (if n < 0 then -s else s)
    | .fin _ _, .inf _ => resZero
    | _, _ => resInvalid f

/-! ### Roots (R211) -/

/-- Bisection for the largest r below 2^bits with r^k at most n. -/
def rootBits (k n : Nat) : Nat → Nat → Nat
  | 0, r => r
  | b + 1, r => let c := r + 2 ^ b; rootBits k n b (if c ^ k ≤ n then c else r)

def iroot (k n : Nat) : Nat := rootBits k n (Nat.log2 n / k + 1) 0

/-- √(a / b · 3^(2k)) as an exact number, or as one strictly between two neighbouring rounding
points when it is irrational (a, b positive). -/
def sqrtExact (a b : Nat) (k : Int) : Exact :=
  -- scaled by (2·3^j)^2, with j large enough for 60 trits
  let j := 60 + (ratLog3 (b + a) a).toNat
  let n := a * 4 * 3 ^ (2 * j) / b
  let r := iroot 2 n
  if r * r * b = a * 4 * 3 ^ (2 * j) then ⟨r, 2, k - j⟩ else ⟨2 * r + 1, 4, k - j⟩

def fsqrtVal (f : Fmt) (x : FVal) : FRes :=
  match x with
  | .nan p y => resNan f p y
  | .inf s => if s < 0 then resInvalid f else resInf f 1
  | .fin m e =>
    if m = 0 then resZero
    else if m < 0 then resInvalid f
    else if e % 2 = 0 then roundTo f false (sqrtExact m.toNat 1 (e / 2))
    else roundTo f false (sqrtExact (3 * m.toNat) 1 ((e - 1) / 2))

def frsqVal (f : Fmt) (x : FVal) : FRes :=
  match x with
  | .nan p y => resNan f p y
  | .inf s => if s < 0 then resInvalid f else resZero
  | .fin m e =>
    if m = 0 then resDivide f 1
    else if m < 0 then resInvalid f
    else if e % 2 = 0 then roundTo f false (sqrtExact 1 m.toNat (-(e / 2)))
    else roundTo f false (sqrtExact 1 (3 * m.toNat) (-((e - 1) / 2)))

/-! ### Functions of three (R212)

Both are irrational but in the exact cases, so bounds that round to one encoding decide it; the
precision is raised until they do. -/

/-- Lower and upper bounds over 3^scale. -/
structure Bounds where
  lo : Nat
  hi : Nat
  deriving DecidableEq, Repr

/-- Cube root of bounds over 3^m. -/
def cbrtBounds (m : Nat) (b : Bounds) : Bounds :=
  ⟨iroot 3 (b.lo * 3 ^ (2 * m)), iroot 3 (b.hi * 3 ^ (2 * m)) + 1⟩
def mulBounds (m : Nat) (a b : Bounds) : Bounds :=
  ⟨a.lo * b.lo / 3 ^ m, a.hi * b.hi / 3 ^ m + 1⟩
def invBounds (m : Nat) (a : Bounds) : Bounds := ⟨3 ^ (2 * m) / a.hi, 3 ^ (2 * m) / a.lo + 1⟩

/-- Multiply by 3^(d·3^-i) for the trits d of a fraction, most significant first, the root so far
given. -/
def exp3Trits (m : Nat) : List Int → Bounds → Bounds → Bounds
  | [], _, acc => acc
  | d :: ds, c, acc =>
    let r := cbrtBounds m c
    exp3Trits m ds r
      (if d = 0 then acc else if d = 1 then mulBounds m acc r else mulBounds m acc (invBounds m r))

/-- Round bounds lo·3^-m·3^k and hi·3^-m·3^k: the answer when both round alike. -/
def agree (f : Fmt) (sat : Bool) (m : Nat) (k : Int) (b : Bounds) : Option FRes :=
  let x := roundTo f sat ⟨b.lo, 1, k - m⟩
  if x = roundTo f sat ⟨b.hi, 1, k - m⟩ then some x else none

/-- 3^(n / 3^j) with n not a multiple of 3^j: integer part by nearest, fraction trit by trit. -/
def exp3At (f : Fmt) (sat : Bool) (n : Int) (j m : Nat) : Option FRes :=
  let i := nearestDiv n (3 ^ j)
  let fr := n - i * 3 ^ j
  let ds := ((tritsOf j fr).reverse).take m
  let b := exp3Trits m ds ⟨3 ^ (m + 1), 3 ^ (m + 1)⟩ ⟨3 ^ m, 3 ^ m⟩
  -- trits below 3^-m move the value by less than one part in 3^(m-2)
  let b' := if j ≤ m then b else ⟨b.lo - b.lo / 3 ^ (m - 2) - 1, b.hi + b.hi / 3 ^ (m - 2) + 1⟩
  agree f sat m i b'

/-- The first precision that decides. -/
def firstOf (g : Nat → Option FRes) (dflt : FRes) : List Nat → FRes
  | [] => dflt
  | m :: ms => match g m with
    | some x => x
    | none => firstOf g dflt ms

def fex3Val (f : Fmt) (sat : Bool) (x : FVal) : FRes :=
  match x with
  | .nan p y => resNan f p y
  | .inf s => if s < 0 then resZero else resInf f 1
  | .fin m e =>
    -- beyond these bounds the result overflows or vanishes whatever the fraction is
    let bound := 3 * f.emax + 60
    let small := if 0 ≤ e then m * 3 ^ (min e.toNat 10) else nearestDiv m (3 ^ (-e).toNat)
    if bound < small then roundTo f sat ⟨1, 1, bound⟩
    else if small < -bound then roundTo f sat ⟨1, 1, -bound⟩
    else if 0 ≤ e then roundTo f sat ⟨1, 1, m * 3 ^ e.toNat⟩
    else
      let j := (-e).toNat
      if m % 3 ^ j = 0 then roundTo f sat ⟨1, 1, m / 3 ^ j⟩
      else firstOf (exp3At f sat m j) (roundTo f sat ⟨1, 1, small⟩) [60, 120, 240]

/-- Base-3 digits of log3 of bounds over 3^m lying in [1, 3): d of `digits` places. Each cubing keeps
the bounds; none once the bounds no longer agree on a digit. -/
def log3Digits (m : Nat) : Nat → Bounds → Nat → Option Nat
  | 0, _, acc => some acc
  | n + 1, b, acc =>
    let c := mulBounds m b (mulBounds m b b)
    let d := if c.lo < 3 ^ (m + 1) then 0 else if c.lo < 3 ^ (m + 2) then 1 else 2
    if c.hi ≤ 3 ^ (m + 1 + d) then
      log3Digits m n ⟨c.lo / 3 ^ d, c.hi / 3 ^ d + 1⟩ (3 * acc + d)
    else none

def log3At (f : Fmt) (a : Nat) (k : Int) (digits : Nat) : Option FRes :=
  -- a·3^k = r·3^t with r in [1, 3)
  let t := ilog3 a
  let m := 3 * digits
  let r := if t ≤ m then a * 3 ^ (m - t) else a / 3 ^ (t - m)
  match log3Digits m digits ⟨r, if t ≤ m then r else r + 1⟩ 0 with
  | none => none
  | some d =>
    let base := (k + t) * 3 ^ digits + d
    let x := roundTo f false ⟨base, 1, -(digits : Int)⟩
    if x = roundTo f false ⟨base + 1, 1, -(digits : Int)⟩ then some x else none

def flg3Val (f : Fmt) (x : FVal) : FRes :=
  match x with
  | .nan p y => resNan f p y
  | .inf s => if s < 0 then resInvalid f else resInf f 1
  | .fin m e =>
    if m = 0 then resDivide f (-1)
    else if m < 0 then resInvalid f
    else
      let t := ilog3 m.toNat
      if m.toNat = 3 ^ t then roundTo f false ⟨e + t, 1, 0⟩
      else firstOf (log3At f m.toNat e) (roundTo f false ⟨e + t, 1, 0⟩) [80, 160, 320]

/-! ### Comparisons and the condition of R78 -/

/-- Exact comparison of values that are not NaN. -/
def fcompare (a b : FVal) : Int :=
  match a, b with
  | .fin m e, .fin n g => (addFin m e (-n) g).1.sign
  | .inf s, .inf t => (s - t).sign
  | .inf s, _ => s
  | _, .inf t => -t
  | _, _ => 0

/-- Condition of a packed float result (R78): the highest element that is not zero gives the sign,
a NaN counting as not zero. -/
def fcond (rs : List FRes) : Cond :=
  { sign := ((rs.reverse.find? fun r => r.w != 0).map (·.sign)).getD 0
    carry := 0
    ovf := lastNonzero (rs.map (·.ovf)) }

/-- Elements of a float type in a word (R206). -/
def fcount : FType → Nat
  | .f9 => 3
  | .f27 => 1
def felems (t : FType) (w : Int) : List Int :=
  match t with
  | .f9 => (List.range 3).map fun j => elem 9 w j
  | .f27 => [w]
def ofFelems (t : FType) (ws : List Int) : Int := packElems (fmtOf t).n ws
def fvals (t : FType) (w : Int) : List FVal := (felems t w).map (fdecode (fmtOf t))

end Sys2Proof.Machine
end

