-- ==== Sys2Proof/Machine/Operands.lean ====
section
/-!
DEFINITION. Operand forms: which registers a word names (R161, R41, R47, R52, R155), effective
addresses (R252), and the template that issues one word of a pick (R25, R163, R168, R169).
-/
namespace Sys2Proof.Machine

/-! ### Registers a word names -/

/-- Register classes by the index of R325. -/
def clsV : Nat := 1
def clsS : Nat := 2
def clsA : Nat := 3
def clsC : Nat := 4
def clsM : Nat := 5
def clsF : Nat := 6

/-- A run of registers of one class, and whether the word reads and writes it. -/
structure Use where
  cls : Nat
  first : Nat
  n : Nat := 1
  r : Bool := true
  w : Bool := false
  deriving DecidableEq, Repr

def rdV (x : Nat) (n : Nat := 1) : Use := ⟨clsV, x, n, true, false⟩
def wrV (x : Nat) (n : Nat := 1) : Use := ⟨clsV, x, n, false, true⟩
def rwV (x : Nat) (n : Nat := 1) : Use := ⟨clsV, x, n, true, true⟩
def rdS (x : Nat) (n : Nat := 1) : Use := ⟨clsS, x, n, true, false⟩
def wrS (x : Nat) (n : Nat := 1) : Use := ⟨clsS, x, n, false, true⟩
def rdA (x : Nat) : Use := ⟨clsA, x, 1, true, false⟩
def wrA (x : Nat) : Use := ⟨clsA, x, 1, false, true⟩
def rdC (x : Nat) : Use := ⟨clsC, x, 1, true, false⟩
def wrC (x : Nat) : Use := ⟨clsC, x, 1, false, true⟩
def rdM (x : Nat) : Use := ⟨clsM, x, 1, true, false⟩
def wrM (x : Nat) : Use := ⟨clsM, x, 1, false, true⟩
def rwM (x : Nat) : Use := ⟨clsM, x, 1, true, true⟩
def rdF (x : Nat) (n : Nat := 1) : Use := ⟨clsF, x, n, true, false⟩
/-- A vector register that a word names and reads in other lanes than its active ones (`sources`). -/
def nmV (x : Nat) : Use := ⟨clsV, x, 1, false, false⟩

/-- Registers an operand of a type takes (R65). -/
def regsI : IType → Nat
  | .p => 2
  | _ => 1
def regsE : EType → Nat
  | .p => 2
  | _ => 1
def regsP (p : Bool) : Nat := if p then 2 else 1

def ix : Option Nat → List Use
  | some x => [rdV x]
  | none => []
def sigUse : Option SigCtl → List Use
  | some x => [rdA x.areg, rdS x.sreg]
  | none => []
def mapUse : Option Nat → List Use
  | some x => [rdS x 2]
  | none => []

def guardOfInstr (i : Instr) : Guard :=
  match i with
  | .brI g .. | .brL g .. | .callI g .. | .callL g .. | .brx g .. | .ret g .. | .exit g | .nop g
  | .yield g | .sleep g .. | .addV g .. | .addI g .. | .addc g .. | .sub g .. | .subc g .. | .neg g ..
  | .abs g .. | .minV g .. | .minI g .. | .maxV g .. | .maxI g .. | .clamp g .. | .mulV g ..
  | .mulI g .. | .mulh g .. | .mad g .. | .div g .. | .mod g .. | .cmpV g .. | .cmpI g .. | .sgn g ..
  | .sel g .. | .sat g .. | .mov g .. | .movi g .. | .ldi g .. | .shlV g .. | .shlI g .. | .shrV g ..
  | .shrI g .. | .rolV g .. | .rolI g .. | .rorV g .. | .rorI g .. | .tand g .. | .tor g .. | .tmul g ..
  | .tcon g .. | .tlut g .. | .tcnt g .. | .tlz g .. | .text g .. | .tins g .. | .pack g ..
  | .unpack g .. | .perm g .. | .shfl g .. | .lred g .. | .lscan g .. | .fadd g .. | .fsub g ..
  | .fmul g .. | .fma g .. | .fnma g .. | .fmin g .. | .fmax g .. | .fcmp g .. | .fabs g .. | .fdiv g ..
  | .fsqrt g .. | .frcp g .. | .frsq g .. | .fex3 g .. | .flg3 g .. | .fsclV g .. | .fsclI g ..
  | .fcls g .. | .ffix g .. | .fflt g .. | .fcvt g .. | .frnd g .. | .dot g .. | .dotf g .. | .cmul g ..
  | .sadd g .. | .ssub g .. | .smul g .. | .smad g .. | .smin g .. | .smax g .. | .scmp g .. | .sshl g ..
  | .sshr g .. | .smov g .. | .sldi g .. | .sget g .. | .vrd g .. | .sbc g .. | .sbal g .. | .aadd g ..
  | .amov g .. | .aset g .. | .aget g .. | .lea g .. | .bar g .. | .bara g .. | .barw g .. | .matchV g ..
  | .vote g .. | .ldI g .. | .ldL g .. | .stI g .. | .stL g .. | .lduI g .. | .lduL g .. | .stuI g ..
  | .stuL g .. | .ldsI g .. | .ldsL g .. | .stsI g .. | .stsL g .. | .ldh g .. | .sth g .. | .dpf g ..
  | .cwb g .. | .cinv g .. | .atom g .. | .atoms g .. | .red g .. | .acq g .. | .rel g .. | .bind g ..
  | .unbind g .. | .fence g .. | .fencex g .. | .waitw g .. | .wake g .. | .emit g .. | .spz g ..
  | .cpt g .. | .cpm g .. | .cpg g .. | .cpf g .. | .cpw g .. | .xff g .. | .xfi g .. | .mma g ..
  | .mmc g .. | .mzr g .. | .mld g .. | .mst g .. | .mrd g .. | .mwr g .. | .mtag g .. | .thnd g ..
  | .msg g .. | .trap g .. | .tret g .. | .tmsk g .. | .tcmp g .. | .brk g | .ipf g .. | .ipin g ..
  | .iunpin g .. | .grow g .. | .shrink g .. => g
  | _ => .always

/-- The registers that a word's fields name, with pairs and ranges written out. -/
def uses (i : Instr) : List Use :=
  match i with
  | .callI _ d _ | .callL _ d _ => [wrV d]
  | .brx _ a | .ret _ a => [rdV a]
  | .sleep _ b => [rdS b]
  | .addV _ t _ d a b | .sub _ t _ d a b | .mulV _ t _ d a b | .shlV _ t _ d a b
  | .minV _ t d a b | .maxV _ t d a b | .clamp _ t d a b
  | .mulh _ t d a b | .div _ t d a b | .mod _ t d a b | .shrV _ t d a b | .rolV _ t d a b
  | .rorV _ t d a b | .tand _ t d a b | .tor _ t d a b | .tmul _ t d a b | .tcon _ t d a b
  | .tlut _ t d a b _ => [wrV d (regsI t), rdV a (regsI t), rdV b (regsI t)]
  | .addc _ t d a b | .subc _ t d a b =>
    [wrV d (regsI t), rdV a (regsI t), rdV b (regsI t), rdC 0]
  | .mad _ t _ d a b | .sel _ t d a b => [rwV d (regsI t), rdV a (regsI t), rdV b (regsI t)]
  | .addI _ t _ d a _ | .mulI _ t _ d a _ | .shlI _ t _ d a _ | .minI _ t d a _ | .maxI _ t d a _
  | .shrI _ t d a _ | .rolI _ t d a _ | .rorI _ t d a _ | .neg _ t d a | .abs _ t d a | .sgn _ t d a
  | .sat _ t d a _ | .mov _ t d a | .tcnt _ t d a _ | .tlz _ t d a | .text _ t d a _ _
  | .lred _ t _ _ d a | .lscan _ t _ _ d a => [wrV d (regsI t), rdV a (regsI t)]
  | .tins _ t d a _ _ => [rwV d (regsI t), rdV a (regsI t)]
  | .cmpV _ t c a b => [wrC c, rdV a (regsI t), rdV b (regsI t)]
  | .cmpI _ t c a _ => [wrC c, rdV a (regsI t)]
  | .movi _ t d _ => [wrV d (regsI t)]
  | .ldi _ d _ => [wrV d]
  | .pack _ t _ d a => [wrV d, rdV a (count t)]
  | .unpack _ t d a => [wrV d (count t), rdV a]
  | .perm _ d a b => [wrV d, nmV a, rdV b]
  | .shfl _ _ d a b => [wrV d, nmV a, rdS b]
  | .fadd _ _ _ d a b | .fsub _ _ _ d a b | .fmul _ _ _ d a b | .fdiv _ _ _ d a b
  | .fsclV _ _ _ d a b | .fmin _ _ d a b | .fmax _ _ d a b => [wrV d, rdV a, rdV b]
  | .fma _ _ _ d a b | .fnma _ _ _ d a b | .dot _ _ d a b | .dotf _ _ d a b => [rwV d, rdV a, rdV b]
  | .fcmp _ _ c a b => [wrC c, rdV a, rdV b]
  | .fabs _ _ d a | .fsqrt _ _ d a | .frsq _ _ d a | .flg3 _ _ d a | .fcls _ _ d a | .fflt _ _ d a
  | .frcp _ _ _ d a | .fex3 _ _ _ d a | .fsclI _ _ _ d a _ | .ffix _ _ _ d a
  | .frnd _ _ _ d a => [wrV d, rdV a]
  | .fcvt _ .f27 _ d a _ => [wrV d, rdV a]
  | .fcvt _ .f9 _ d a _ => [rwV d, rdV a]
  | .cmul _ _ _ d a b => [rwV d 2, rdV a 2, rdV b 2]
  | .sadd _ p _ d a b | .ssub _ p _ d a b | .smul _ p _ d a b | .smin _ p d a b
  | .smax _ p d a b => [wrS d (regsP p), rdS a (regsP p), rdS b (regsP p)]
  | .smad _ p _ d a b => [rdS d (regsP p), wrS d (regsP p), rdS a (regsP p), rdS b (regsP p)]
  | .scmp _ p c a b => [wrC c, rdS a (regsP p), rdS b (regsP p)]
  | .sshl _ p _ d a b | .sshr _ p d a b => [wrS d (regsP p), rdS a (regsP p), rdS b]
  | .smov _ p d a => [wrS d (regsP p), rdS a (regsP p)]
  | .sldi _ d _ => [wrS d]
  | .sget _ d i =>
    if i ≤ 5 then [wrV d]
    else [wrS d (if i == 15 || i == 20 || i == 21 then 2 else 1)] ++ (if i == 24 then [rdF 0 12] else []) ++
      (if 25 ≤ i ∧ i ≤ 33 then [rdM (i - 25)] else [])
  | .exit _ => [rdF 0 12]
  | .vrd _ d a _ => [wrS d, nmV a]
  | .sbc _ p d a => [wrV d (regsP p), rdS a (regsP p)]
  | .sbal _ d c _ => [wrS d 2, rdC c]
  | .aadd _ d a b | .lea _ _ d a b => [wrA d, rdA a, rdS b]
  | .amov _ d a => [wrA d, rdA a]
  | .aset _ d a => [wrA d, rdS a 2]
  | .aget _ d (.reg a) => [wrS d 2, rdA a]
  | .aget _ d .spc => [wrV d 2]
  | .aget _ d _ => [wrS d 2]
  | .bar _ _ b | .bara _ _ b => [rdS b]
  | .matchV _ _ d a => [wrV d, rdV a]
  | .vote _ _ d c _ => [wrC d, rdC c]
  | .ldI _ t d a _ => [wrV d (regsE t), rdA a]
  | .ldL _ t d a x => [wrV d (regsE t), rdA a] ++ ix x.index
  | .stI _ t d a _ => [rdV d (regsE t), rdA a]
  | .stL _ t d a x => [rdV d (regsE t), rdA a] ++ ix x.index
  | .lduI _ t d a _ | .lduL _ t d a _ => [wrS d (regsE t), rdA a]
  | .stuI _ t d a _ | .stuL _ t d a _ => [rdS d (regsE t), rdA a]
  | .ldsI _ p d a _ => [wrV d (regsP p), rdA a]
  | .ldsL _ p d a x => [wrV d (regsP p), rdA a] ++ ix x.index
  | .stsI _ p d a _ => [rdV d (regsP p), rdA a]
  | .stsL _ p d a x => [rdV d (regsP p), rdA a] ++ ix x.index
  | .ldh _ _ t _ d a x => [wrV d (regsE t), rdA a] ++ ix x.index
  | .sth _ _ t _ d a x => [rdV d (regsE t), rdA a] ++ ix x.index
  | .dpf _ a b | .cwb _ a b | .cinv _ a b => [rdA a, rdS b]
  | .atom _ t _ d a b x | .atoms _ t _ d a b x =>
    [wrV d (regsE t), rdA a, rdV b (regsE t)] ++ ix x.index ++
      (if x.op == .cas then [rdV d (regsE t)] else [])
  | .red _ t _ a b x => [rdA a, rdV b (regsE t)] ++ ix x.index
  | .acq _ _ _ d a b => [wrV d, rdA a, rdV b]
  | .rel _ _ _ d a b => [rdV d, rdA a, rdV b]
  | .bind _ c a b _ n => [wrC c, rdA a, rdA b, rdS n]
  | .unbind _ a (some b) => [rdA a, rdA b]
  | .unbind _ a none => [rdA a]
  | .waitw _ _ d a b => [wrV d, rdA a, rdV b]
  | .wake _ _ _ a => [rdA a]
  -- the range that an emit reads follows from its queue (R273)
  | .emit _ c _ _ => [wrC c]
  | .spz _ _ (.configure a b _ _) => [rdA a, rdA b]
  | .cpt _ _ _ d a b x => [rdA d, rdA a, rdS b (3 * x.dims)] ++ mapUse x.map ++ sigUse x.sig
  | .cpm _ _ d a b x => [rdA d, rdA a, rdS b (3 * x.dims + 4)] ++ sigUse x.sig
  | .cpg _ _ _ d a b x => [rdA d, rdA a, rdS b (4 * x.dims + 1)] ++ sigUse x.sig
  | .cpf _ t d a b x =>
    [rdA d, rdS a (regsE t), rdS b (3 * x.dims)] ++ mapUse x.map ++ sigUse x.sig
  | .cpw _ _ _ d a _ => [rdA d, rdS a]
  | .xff _ _ _ d a x | .xfi _ _ _ d a x => [rdA d, rdA a] ++ sigUse x.sig
  | .mma _ f d a b p _ =>
    [rwM d, rdS b 2, match p with | .regs => rdV a (WF.aWords f) | _ => rdS a 2]
  | .mmc _ t d a b x =>
    [rwM d, rwM (d + 1), rdS b 2, match x.wsrc with | .regs => rdV a (WF.wRegs t x.blocks) | _ => rdS a 2]
  | .mzr _ d => [wrM d]
  | .mld _ d a _ => [wrM d, rdA a]
  | .mst _ _ _ d a x => [rdM d, rdA a] ++ sigUse x.sig
  | .mrd _ d m (some _) => [wrV d, rdM m]
  | .mrd _ d m none => [wrV d 27, rdM m]
  | .mwr _ m a (some _) => [rwM m, rdV a]
  | .mwr _ m a none => [rwM m, rdV a 27]
  | .mtag _ d a => [rwM d, rdS a]
  | .thnd _ d a _ => [wrS d 2, rdA a]
  | .msg _ a b _ n => [rdS a n, rdS b]
  | .tret _ (some a) => [rdV a]
  | .tmsk _ d a => [wrS d, rdS a]
  | .tcmp _ _ a => [rdS a 2]
  | .ipf _ a b | .iunpin _ a b => [rdS a, rdS b]
  | .ipin _ c a b => [wrC c, rdS a, rdS b]
  | .grow _ c _ => [wrC c]
  | _ => []

/-- Condition registers written beside those that `uses` names: c0 (R161, R180, R205). -/
def writesC0 (i : Instr) : Bool :=
  match i with
  | .addV .. | .addI .. | .addc .. | .sub .. | .subc .. | .neg .. | .abs .. | .clamp .. | .mulV ..
  | .mulI .. | .mad .. | .div .. | .mod .. | .sat .. | .shlV .. | .shlI .. | .pack ..
  | .fadd .. | .fsub .. | .fmul .. | .fma .. | .fnma .. | .fabs .. | .fdiv .. | .fsqrt .. | .frcp ..
  | .frsq .. | .fex3 .. | .flg3 .. | .fsclV .. | .fsclI .. | .ffix .. | .fflt .. | .fcvt .. | .frnd ..
  | .dot .. | .dotf .. => true
  | .lred _ _ _ op .. => op == .add
  | .lscan _ _ _ op .. => op == .add || op == .addEx
  | _ => false

/-! ### Operands at the machine -/

/-- Does a tile's attribute give the format of a real plane (R53)? -/
def realPlane (t : Tile) : Bool := idx t.attr 24 3 == 2

/-- The partner tile m(k+1) that a complex mld writes or a complex mst reads (R305, R306). Whether an mld is
complex its descriptor says when it runs, so an mld at an even tile waits for both. -/
def partner (st : Strand) (i : Instr) : List Use :=
  match i with
  | .mld _ d _ _ => if d % 2 = 0 then [wrM (d + 1)] else []
  | .mst _ _ _ d _ _ => if d % 2 = 0 ∧ (st.tiles.get? d).any realPlane then [rdM (d + 1)] else []
  | _ => []

/-- The lane that perm and shfl name for a lane (R201, R202). -/
def permLane (st : Strand) (b l : Nat) : Int := (st.thread l).vget b % 32
def shflLane (st : Strand) (dir : ShflDir) (b l : Nat) : Int :=
  match dir with
  | .up => l - st.sget b
  | .dn => l + st.sget b
  | .rot => (l + st.sget b) % 32

/-- The lane whose register a lane receives: its own where the lane it names is not present (R201). -/
def sourceLane (st : Strand) (l : Nat) (src : Int) : Nat :=
  if decide (0 ≤ src) && decide (src < 32) && (st.thread src.toNat).present then src.toNat else l

/-- The vector registers that a word reads of lanes it names (R183, R201, R229), as (register, lane). -/
def sources (st : Strand) (act : List Nat) (i : Instr) : List (Nat × Nat) :=
  match i with
  | .perm _ _ a b => act.map fun l => (a, sourceLane st l (permLane st b l))
  | .shfl _ dir _ a b => act.map fun l => (a, sourceLane st l (shflLane st dir b l))
  | .vrd _ _ a lane => if (st.thread lane).present then [(a, lane)] else []
  | _ => []

/-- Undeclared tiles (R52). -/
def tilesOk (st : Strand) (us : List Use) : Bool :=
  us.all fun u => u.cls != clsM || (List.range u.n).all fun j => (st.tiles.get? (u.first + j)).isSome

/-- Vector registers within the allocation (R41). -/
def allocOk (st : Strand) (us : List Use) : Bool :=
  us.all fun u => u.cls != clsV || decide (u.first + u.n ≤ 9 * st.granules)

/-- The first register in the invalid two-wire state that these lanes read (R47). Of several, which R47 and R325 do not
rank, it is the one that stands first in `Strand.bad`, the one that broke first (DESIGN CHOICE, log 104). -/
def badRead (st : Strand) (act : List Nat) (us : List Use) : Option RegName :=
  let perLane (c : Nat) := c == clsV || c == clsC
  st.bad.find? fun b => us.any fun u =>
    u.r && u.cls == b.cls && decide (u.first ≤ b.idx) && decide (b.idx < u.first + u.n) &&
      (!perLane b.cls || act.contains b.lane)

/-- The first condition register in the invalid state that a guard reads, in any thread of the pick (R47, R163). It is
found before the guard tells which lanes are active, so a word that no other lane passes still meets it, and no other
check of the word comes first: R204 lists both cases and ranks neither (DEDUCED, log 84). -/
def badGuard (st : Strand) (lanes : List Nat) (g : Guard) : Option RegName :=
  badRead st lanes (match g with | .on c _ => [rdC c] | .always => [])

/-- The data-integrity fault for a register in the invalid state, which it names (R47, R325). -/
def regFault (b : RegName) : FaultInfo := { code := 7, lane := b.lane, cls := b.cls, reg := b.idx }

/-- The first register in the invalid state that a word reads, sources of other lanes among them (R47). -/
def invalidReg (st : Strand) (act : List Nat) (i : Instr) : Option RegName :=
  (badRead st act (uses i ++ partner st i)).or
    (st.bad.find? fun b => b.cls == clsV && (sources st act i).contains (b.idx, b.lane))

/-- What a word has written once it is done. The tiles of an mld, the pair of a thnd and the register of a waitw are
written later, and until then they stay as they are (R47). -/
def writtenBy (i : Instr) : List Use :=
  match i with
  | .mld .. | .thnd .. | .waitw .. => []
  | _ => uses i

/-- A written register is valid again. -/
def clearBad (st : Strand) (act : List Nat) (us : List Use) (c0 : Bool) : Strand :=
  if st.bad.isEmpty then st
  else
    let ws := us ++ (if c0 then [wrC 0] else [])
    { st with bad := st.bad.filter fun b => !ws.any fun u =>
        u.w && u.cls == b.cls && decide (u.first ≤ b.idx) && decide (b.idx < u.first + u.n) &&
          (!(b.cls == clsV || b.cls == clsC) || act.contains b.lane) }

/-- Does an operation in flight still write or use what this word names (R54, R155)? A tile named by
an operation of the strand, or an s pair that a thnd will write. -/
def opBlocks (k : Nat) (us : List Use) (o : EngOp) : Bool :=
  if o.strand != some k then false
  else
    let tiles : List Nat := match o.i with
      | .mma _ _ d _ _ _ _ => [d]
      | .mmc _ _ d _ _ _ => [d, d + 1]
      | .mld _ d _ _ => [d, d + 1]
      | .mst _ _ _ d _ _ => [d, d + 1]
      | _ => []
    let pair : List Nat := match o.i with
      | .thnd _ d _ _ => [d, d + 1]
      | _ => []
    us.any fun u =>
      (u.cls == clsM && (List.range u.n).any fun j => tiles.contains (u.first + j)) ||
      (u.cls == clsS && (List.range u.n).any fun j => pair.contains (u.first + j))

/-- Does a thread's waitw still write this register (R270)? -/
def willWrite (t : Thread) (v : Nat) : Bool :=
  match t.status with
  | .waiting w => w.dest == v
  | _ => false

/-- Does a word wait for a tile, a pair, or a register of another lane that is still to be written
(R54, R155, R183)? -/
def waitsFor (s : State) (k : Nat) (st : Strand) (act : List Nat) (i : Instr) : Bool :=
  (s.ops.any fun (_, o) => opBlocks k (uses i ++ partner st i) o) ||
    (sources st act i).any fun (v, l) => willWrite (st.thread l) v

/-! ### One word of a pick -/

/-- What a meaning sees: the machine, the strand, its active lanes, the clause's header and the
word's place in it. -/
structure Word_ where
  s : State
  k : Nat
  st : Strand
  act : List Nat
  header : Int
  pos : Nat
  deriving Repr

/-- Words of an instruction (R160). -/
def wordCount (i : Instr) : Nat := (encode i).length

/-- Long-latency words and matrix words (R154, R354). -/
def isLongInstr (i : Instr) : Bool :=
  match i with
  | .cpt .. | .cpm .. | .cpg .. | .cpf .. | .cpw .. | .xff .. | .xfi .. | .mma .. | .mmc .. | .mld ..
  | .mst .. | .thnd .. | .msg .. => true
  | _ => false
def isMatrixInstr (i : Instr) : Bool :=
  match i with
  | .mma .. | .mmc .. => true
  | _ => false

/-- The fall-through address of a clause (R25, R151). -/
def fallThrough (p : Pick) : Int := p.header + 3 * (p.words.length + 1)

/-- Where a thread that leaves its pick rests (R25): its jump target, or the fall-through address. -/
def settle (p : Pick) (t : Thread) : Thread :=
  { t with pc := t.jump.getD (fallThrough p), pos := 0, jump := none }

/-- Close a pick whose last word has issued (R25). Threads that left it earlier rest already. -/
def closePick (st : Strand) (p : Pick) : Strand :=
  { st.modThreads p.lanes (fun _ t => settle p t) with pick := none, yielded := p.yield }

/-- Go on after `n` words: count them, and close the pick after its last word. -/
def advanceBy (s : State) (k n : Nat) (long : Bool) : State :=
  s.modStrand k fun st =>
    match st.pick with
    | none => st
    | some p =>
      let p' := { p with pos := p.pos + n, busy := none, longs := p.longs + (if long then 1 else 0) }
      if p'.words.length ≤ p'.pos || p'.lanes.isEmpty then closePick st p' else { st with pick := some p' }
def advance (s : State) (k : Nat) (i : Instr) : State := advanceBy s k (wordCount i) (isLongInstr i)

/-- A blocking word takes lanes out of the pick: they rest after the word (R25). -/
def leavePick (st : Strand) (lanes : List Nat) (after : Nat) (f : Nat → Thread → Thread) : Strand :=
  match st.pick with
  | none => st
  | some p =>
    let rest (t : Thread) : Thread :=
      if p.words.length ≤ after then { t with pc := fallThrough p, pos := 0 }
      else { t with pc := p.header, pos := after }
    { st.modThreads lanes (fun l t => f l (rest t)) with
      pick := some { p with lanes := p.lanes.filter fun l => !lanes.contains l } }

/-- A word fault (R169): the pick stays where it stood, and the context's fault is raised. -/
def wordFault (w : Word_) (f : FaultInfo) : State :=
  let ctx := ((w.s.weaves.get? w.st.weave).map (·.ctx)).getD 0
  raiseFault w.s ctx (some w.k) none { f with pos := w.pos + 1 }

/-- A matrix word uses one of its core's window budget, with or without active lanes (R354). -/
def useBudget (s : State) (core : Nat) (i : Instr) : State :=
  if isMatrixInstr i then s.modCore core fun c => { c with used := c.used + 1 } else s

abbrev Out := Host.Outcome State Fault Refusal

/-- What a meaning answers: a fault of the word, a state in which the word has still to go on, or a
state in which it is done. -/
inductive Did where
  | fault (f : FaultInfo)
  /-- A fault that the word meets after it has read page tables, in the state that this leaves. -/
  | faultIn (s : State) (f : FaultInfo)
  | stay (s : State)
  | done (s : State)

def Did.of : Except FaultInfo State → Did
  | .error f => .fault f
  | .ok s => .done s

/-- ISSUE ONE WORD (R25, R163, R168): on the cursor's strand and its open pick. The guard's register is read first, in every
lane of the pick (R47, R163). With no active lane the word is a nop and nothing else is checked. Checks follow the rows of
R168: undeclared tiles, then the allocation, then invalid registers (R47), then what the meaning itself finds. A word whose
registers or tile an earlier operation still writes waits (R54, R155), and so does a strand whose word in progress has
accesses in flight. -/
def issueDid (i : Instr) (s : State) (body : Word_ → Did) : Out :=
  match s.strands.get? s.cursor with
  | none => .next s
  | some st =>
    match st.pick with
    | none => .next s
    | some p =>
      if st.fault.isSome || p.busy.isSome then .next s
      else
        let g := guardOfInstr i
        let act := p.lanes.filter fun l => passes g (st.thread l)
        let w : Word_ := ⟨s, s.cursor, st, act, p.header, p.pos⟩
        match badGuard st p.lanes g with
        | some b => .next (wordFault w (regFault b))
        | none =>
          if act.isEmpty then .next (advance (useBudget s st.core i) s.cursor i)
          else
            let us := uses i
            if !tilesOk st us then .next (wordFault w { code := 3, lane := act.headD 0 })
            else if !allocOk st us then .next (wordFault w { code := 10, lane := act.headD 0 })
            else if waitsFor s s.cursor st act i then .next s
            else
              match invalidReg st act i with
              | some b => .next (wordFault w (regFault b))
              | none =>
                match body w with
                | .fault f => .next (wordFault w f)
                | .faultIn s' f => .next (wordFault { w with s := s' } f)
                | .stay s' => .next s'
                | .done s' =>
                  let s'' := s'.modStrand s.cursor fun st => clearBad st act (writtenBy i) (writesC0 i)
                  .next (advance (useBudget s'' st.core i) s.cursor i)

/-- A word that is done at its issue, or faults. -/
def issue (i : Instr) (s : State) (body : Word_ → Except FaultInfo State) : Out :=
  issueDid i s fun w => .of (body w)

/-- A word that acts on strand state alone. -/
def strandWord (i : Instr) (s : State) (f : Word_ → Except FaultInfo Strand) : Out :=
  issue i s fun w => (f w).map fun st => w.s.setStrand w.k st

/-- What a lane leaves: its thread, and the exceptions it signals. -/
structure LaneOut where
  t : Thread
  exn : List Exn := []
  deriving Repr

/-- Does an exception trap (R181, R207, R317)? Overflow only in a trapping form. -/
def exnTraps (m : Mask) (trp : Bool) : Exn → Bool
  | .overflow => trp && m.ovf && !m.global
  | .divide => m.divide && !m.global
  | .invalid => m.invalid && !m.global

def exnDetail : Exn → Int
  | .overflow => 1
  | .divide => 2
  | .invalid => 3

/-- Raise the arithmetic trap of a word (R181, R207): of several kinds, invalid before divide before
overflow. -/
def raiseArith (st : Strand) (trp : Bool) (xs : List (Nat × List Exn)) : Strand :=
  let hits := xs.flatMap fun (l, es) => (es.filter (exnTraps st.mask trp)).map fun x => (l, x)
  match hits with
  | [] => st
  | _ =>
    let kind : Exn := if hits.any (·.2 == .invalid) then .invalid
      else if hits.any (·.2 == .divide) then .divide else .overflow
    raiseTrap st (causeWord 4 (exnDetail kind)) (hits.map Prod.fst).eraseDups

/-- A word that acts lane by lane: every lane reads the state before the word (R15), the active lanes
are written, and the exceptions that trap mark their lanes. -/
def laneWord (i : Instr) (trp : Bool) (s : State) (f : Strand → Nat → Thread → LaneOut) : Out :=
  strandWord i s fun w =>
    let outs := w.act.map fun l => (l, f w.st l (w.st.thread l))
    let st := outs.foldl (fun st (l, o) => st.setThread l o.t) w.st
    .ok (raiseArith st trp (outs.map fun (l, o) => (l, o.exn)))

/-- Write a condition register in the active lanes. -/
def condLanes (st : Strand) (act : List Nat) (c : Nat) (x : Cond) : Strand :=
  st.modThreads act fun _ t => t.setCond c x

/-! ### Operand values -/

/-- A v operand of an integer type (R65). -/
def vI (th : Thread) (t : IType) (n : Nat) : Int :=
  match t with
  | .p => th.vpair n
  | _ => th.vget n
def vIput (th : Thread) (t : IType) (n : Nat) (x : Int) : Thread :=
  match t with
  | .p => th.vputPair n x
  | _ => th.vput n x
def eI (th : Thread) (t : IType) (n : Nat) : List Int := elemsOf t (vI th t n)

/-- Element size in trytes, and words in a window (R250, R252). -/
def trytesOf : EType → Nat
  | .t9 | .f9 => 1
  | .p => 6
  | _ => 3
def wordsOf (p : Bool) : Nat := if p then 2 else 1

/-- A value as it leaves a register for memory, and as it enters one (R250). -/
def outTrytes (t : EType) (x : Int) : List Int :=
  match t with
  | .t9 | .f9 => [wrapVal x 9]
  | .p => toTrytes 6 x
  | _ => toTrytes 3 x

def vE (th : Thread) (t : EType) (n : Nat) : Int :=
  match t with
  | .p => th.vpair n
  | _ => th.vget n
def vEput (th : Thread) (t : EType) (n : Nat) (x : Int) : Thread :=
  match t with
  | .p => th.vputPair n x
  | _ => th.vput n x

/-! ### Effective addresses (R252, R253) -/

/-- The checks of R253 that need no memory: range, selector, space, alignment. `host` says which
space the instruction requires. -/
def checkPtr (base d : Int) (host : Bool) (align : Nat) : Except Nat Int :=
  match addAddr base d with
  | none => .error 6
  | some p =>
    if spaceOf p = 1 then .error 5
    else if (spaceOf p = 0) != host then .error 2
    else if addrOf p % align != 0 then .error 4
    else .ok p

/-- The fault of a failed check: for a space crossing the base register's value (R318). -/
def addrFault (base d : Int) (lane : Nat) (code : Nat) : FaultInfo :=
  { code, lane, addr := some (if code = 6 then base else base + d) }

/-- The window word that an index names (R49, R252): the protection fault outside the window. -/
def windowIndex (wv : Weave) (reg : Int) (n : Nat) : Except Nat Nat :=
  if reg < 0 || trit 45 reg 44 != 0 || !fits 44 reg then .error 2
  else if reg < wv.base || decide ((wv.base + wv.len : Nat) < reg + n) then .error 2
  else .ok reg.toNat

end Sys2Proof.Machine
end

