-- ==== Sys2Proof/Machine/Integer.lean ====
section
/-!
DEFINITION. Integer arithmetic, compare and moves: rows 1 of the opcode map (R178 to R193).
-/
namespace Sys2Proof.Machine

/-! ### Templates (R182) -/

/-- A word that fits exact element values, writes d and c0, and may trap on overflow. -/
def fitWord (i : Instr) (t : IType) (m : Fit) (d : Nat) (s : State) (f : Thread → List Int) : Out :=
  laneWord i (m == .trp) s fun _ _ th =>
    let r := fitAll t m (f th)
    { t := (vIput th t d r.value).setCond 0 r.cond, exn := if r.overflowed then [.overflow] else [] }

/-- A word whose fitted elements are formed one by one, written with c0 and without a trap. -/
def fittedWord (i : Instr) (t : IType) (d : Nat) (s : State) (f : Thread → List Fitted) : Out :=
  laneWord i false s fun _ _ th =>
    let r := packFits t (f th)
    { t := (vIput th t d r.value).setCond 0 r.cond }

/-- A word that writes elements that fit, and no condition register. -/
def plainWord (i : Instr) (t : IType) (d : Nat) (s : State) (f : Thread → List Int) : Out :=
  laneWord i false s fun _ _ th => { t := vIput th t d (ofElems t (f th)) }

/-- Element by element on two operands. -/
def zipE (th : Thread) (t : IType) (a b : Nat) (f : Int → Int → Int) : List Int :=
  (eI th t a).zipWith f (eI th t b)
def mapE (th : Thread) (t : IType) (a : Nat) (f : Int → Int) : List Int := (eI th t a).map f

/-! ### Addition and subtraction (R184, R185) -/

def execAddV (g : Guard) (t : IType) (m : Fit) (d a b : Nat) (s : State) : Out :=
  fitWord (.addV g t m d a b) t m d s fun th => zipE th t a b (· + ·)
def execAddI (g : Guard) (t : IType) (m : Fit) (d a : Nat) (imm : Int) (s : State) : Out :=
  fitWord (.addI g t m d a imm) t m d s fun th => mapE th t a (· + imm)
def execAddc (g : Guard) (t : IType) (d a b : Nat) (s : State) : Out :=
  fitWord (.addc g t d a b) t .wrap d s fun th => zipE th t a b fun x y => x + y + (th.cond 0).carry
def execSub (g : Guard) (t : IType) (m : Fit) (d a b : Nat) (s : State) : Out :=
  fitWord (.sub g t m d a b) t m d s fun th => zipE th t a b (· - ·)
def execSubc (g : Guard) (t : IType) (d a b : Nat) (s : State) : Out :=
  fitWord (.subc g t d a b) t .wrap d s fun th => zipE th t a b fun x y => x - y + (th.cond 0).carry
def execNeg (g : Guard) (t : IType) (d a : Nat) (s : State) : Out :=
  fitWord (.neg g t d a) t .wrap d s fun th => mapE th t a fun x => -x
def execAbs (g : Guard) (t : IType) (d a : Nat) (s : State) : Out :=
  fitWord (.abs g t d a) t .wrap d s fun th => mapE th t a fun x => x.natAbs

/-! ### Minimum, maximum and limits (R186 to R188) -/

def execMinV (g : Guard) (t : IType) (d a b : Nat) (s : State) : Out :=
  plainWord (.minV g t d a b) t d s fun th => zipE th t a b fun x y => min x y
def execMinI (g : Guard) (t : IType) (d a : Nat) (imm : Int) (s : State) : Out :=
  plainWord (.minI g t d a imm) t d s fun th => mapE th t a fun x => min x imm
def execMaxV (g : Guard) (t : IType) (d a b : Nat) (s : State) : Out :=
  plainWord (.maxV g t d a b) t d s fun th => zipE th t a b fun x y => max x y
def execMaxI (g : Guard) (t : IType) (d a : Nat) (imm : Int) (s : State) : Out :=
  plainWord (.maxI g t d a imm) t d s fun th => mapE th t a fun x => max x imm

/-- a limited symmetrically to the magnitude of b, reported as saturate reports (R186). -/
def limitTo (a b : Int) : Fitted :=
  let w := min (b.natAbs : Int) (max (-(b.natAbs : Int)) a)
  ⟨w, 0, (a - w).sign⟩

def execClamp (g : Guard) (t : IType) (d a b : Nat) (s : State) : Out :=
  fittedWord (.clamp g t d a b) t d s fun th => (eI th t a).zipWith limitTo (eI th t b)
def execSat (g : Guard) (t : IType) (d a k : Nat) (s : State) : Out :=
  fittedWord (.sat g t d a k) t d s fun th => (eI th t a).map fun x => saturate x k
def execSgn (g : Guard) (t : IType) (d a : Nat) (s : State) : Out :=
  plainWord (.sgn g t d a) t d s fun th => mapE th t a Int.sign

/-! ### Multiplication and division (R189, R190) -/

def execMulV (g : Guard) (t : IType) (m : Fit) (d a b : Nat) (s : State) : Out :=
  fitWord (.mulV g t m d a b) t m d s fun th => zipE th t a b (· * ·)
def execMulI (g : Guard) (t : IType) (m : Fit) (d a : Nat) (imm : Int) (s : State) : Out :=
  fitWord (.mulI g t m d a imm) t m d s fun th => mapE th t a (· * imm)
def execMulh (g : Guard) (t : IType) (d a b : Nat) (s : State) : Out :=
  plainWord (.mulh g t d a b) t d s fun th => zipE th t a b fun x y => nearestDiv (x * y) (3 ^ width t)
def execMad (g : Guard) (t : IType) (m : Fit) (d a b : Nat) (s : State) : Out :=
  fitWord (.mad g t m d a b) t m d s fun th => (zipE th t a b (· * ·)).zipWith (· + ·) (eI th t d)

/-- Quotient and remainder with the defined values for a zero divisor (R190). -/
def quotient (n : Nat) (a b : Int) : Int := if b = 0 then a.sign * half n else nearestQuot a b
def remainder (a b : Int) : Int := if b = 0 then a else a - b * nearestQuot a b

/-- div and mod: c0 from the result, and a divide exception where an element's divisor is 0. -/
def divWord (i : Instr) (t : IType) (d b : Nat) (s : State) (f : Thread → List Int) : Out :=
  laneWord i false s fun _ _ th =>
    let r := fitAll t .wrap (f th)
    { t := (vIput th t d r.value).setCond 0 r.cond,
      exn := if (eI th t b).any (· == 0) then [.divide] else [] }

def execDiv (g : Guard) (t : IType) (d a b : Nat) (s : State) : Out :=
  divWord (.div g t d a b) t d b s fun th => zipE th t a b (quotient (width t))
def execMod (g : Guard) (t : IType) (d a b : Nat) (s : State) : Out :=
  divWord (.mod g t d a b) t d b s fun th => zipE th t a b remainder

/-! ### Compare, select, moves (R191 to R193) -/

/-- The sign of the highest difference that is not 0 (R191). -/
def compareCond (xs ys : List Int) : Cond :=
  { sign := (lastNonzero (xs.zipWith (· - ·) ys)).sign }

def execCmpV (g : Guard) (t : IType) (c a b : Nat) (s : State) : Out :=
  laneWord (.cmpV g t c a b) false s fun _ _ th =>
    { t := th.setCond c (compareCond (eI th t a) (eI th t b)) }
def execCmpI (g : Guard) (t : IType) (c a : Nat) (imm : Int) (s : State) : Out :=
  laneWord (.cmpI g t c a imm) false s fun _ _ th =>
    { t := th.setCond c (compareCond (eI th t a) ((eI th t a).map fun _ => imm)) }

def select (d a b : Int) : Int := if d < 0 then a else if d = 0 then 0 else b

def execSel (g : Guard) (t : IType) (d a b : Nat) (s : State) : Out :=
  plainWord (.sel g t d a b) t d s fun th =>
    ((eI th t d).zip ((eI th t a).zip (eI th t b))).map fun (x, y, z) => select x y z
def execMov (g : Guard) (t : IType) (d a : Nat) (s : State) : Out :=
  plainWord (.mov g t d a) t d s fun th => mapE th t a id
def execMovi (g : Guard) (t : IType) (d : Nat) (imm : Int) (s : State) : Out :=
  plainWord (.movi g t d imm) t d s fun _ => List.replicate (count t) imm
def execLdi (g : Guard) (d : Nat) (imm : Int) (s : State) : Out :=
  laneWord (.ldi g d imm) false s fun _ _ th => { t := th.vput d imm }

end Sys2Proof.Machine
end

