-- ==== Sys2Proof/Machine/Tritwise.lean ====
section
/-!
DEFINITION. Shifts, rotates, tritwise operations, packing and lane operations: row 2 of the opcode
map (R194 to R203).
-/
namespace Sys2Proof.Machine

/-! ### Shifts and rotates (R194, R195) -/

/-- A count beyond one more than the width acts as one more than the width: the element is empty and
the carry 0 either way. -/
def limitCount (n : Nat) (k : Int) : Int := max (-((n : Int) + 1)) (min ((n : Int) + 1) k)

/-- a · 3^k, with nearest applied when k is negative (R194). -/
def scale3 (a k : Int) : Int := if 0 ≤ k then a * 3 ^ k.toNat else nearestDiv a (3 ^ (-k).toNat)

def shiftBy (n : Nat) (a k : Int) : Int := scale3 a (limitCount n k)

def execShlV (g : Guard) (t : IType) (m : Fit) (d a b : Nat) (s : State) : Out :=
  fitWord (.shlV g t m d a b) t m d s fun th => zipE th t a b (shiftBy (width t))
def execShlI (g : Guard) (t : IType) (m : Fit) (d a : Nat) (imm : Int) (s : State) : Out :=
  fitWord (.shlI g t m d a imm) t m d s fun th => mapE th t a fun x => shiftBy (width t) x imm
def execShrV (g : Guard) (t : IType) (d a b : Nat) (s : State) : Out :=
  plainWord (.shrV g t d a b) t d s fun th =>
    zipE th t a b fun x k => wrapVal (shiftBy (width t) x (-k)) (width t)
def execShrI (g : Guard) (t : IType) (d a : Nat) (imm : Int) (s : State) : Out :=
  plainWord (.shrI g t d a imm) t d s fun th =>
    mapE th t a fun x => wrapVal (shiftBy (width t) x (-imm)) (width t)
def execRolV (g : Guard) (t : IType) (d a b : Nat) (s : State) : Out :=
  plainWord (.rolV g t d a b) t d s fun th => zipE th t a b fun x k => rotl (width t) x k
def execRolI (g : Guard) (t : IType) (d a : Nat) (imm : Int) (s : State) : Out :=
  plainWord (.rolI g t d a imm) t d s fun th => mapE th t a fun x => rotl (width t) x imm
def execRorV (g : Guard) (t : IType) (d a b : Nat) (s : State) : Out :=
  plainWord (.rorV g t d a b) t d s fun th => zipE th t a b fun x k => rotl (width t) x (-k)
def execRorI (g : Guard) (t : IType) (d a : Nat) (imm : Int) (s : State) : Out :=
  plainWord (.rorI g t d a imm) t d s fun th => mapE th t a fun x => rotl (width t) x (-imm)

/-! ### Tritwise (R196 to R199) -/

/-- Trit by trit on the operand values, whatever the element type. -/
def tritWord (i : Instr) (t : IType) (d a b : Nat) (s : State) (f : Int → Int → Int) : Out :=
  plainWord i t d s fun th => zipE th t a b (tritwise f (width t))

def execTand (g : Guard) (t : IType) (d a b : Nat) (s : State) : Out :=
  tritWord (.tand g t d a b) t d a b s min
def execTor (g : Guard) (t : IType) (d a b : Nat) (s : State) : Out :=
  tritWord (.tor g t d a b) t d a b s max
def execTmul (g : Guard) (t : IType) (d a b : Nat) (s : State) : Out :=
  tritWord (.tmul g t d a b) t d a b s (· * ·)
def execTcon (g : Guard) (t : IType) (d a b : Nat) (s : State) : Out :=
  tritWord (.tcon g t d a b) t d a b s fun x y => if x = y then x else 0

/-- Trit e = 3(x + 1) + (y + 1) of a table given by its index (R197). -/
def tableTrit (table : Nat) (x y : Int) : Int :=
  ((table / 3 ^ (3 * (x + 1) + (y + 1)).toNat % 3 : Nat) : Int) - 1

def execTlut (g : Guard) (t : IType) (d a b table : Nat) (s : State) : Out :=
  tritWord (.tlut g t d a b table) t d a b s (tableTrit table)
def execTcnt (g : Guard) (t : IType) (d a digit : Nat) (s : State) : Out :=
  plainWord (.tcnt g t d a digit) t d s fun th =>
    mapE th t a fun x => countTrits (width t) x ((digit : Int) - 1)
def execTlz (g : Guard) (t : IType) (d a : Nat) (s : State) : Out :=
  plainWord (.tlz g t d a) t d s fun th => mapE th t a fun x => leadingZeros (width t) x
def execText (g : Guard) (t : IType) (d a pos len : Nat) (s : State) : Out :=
  plainWord (.text g t d a pos len) t d s fun th => mapE th t a fun x => sfield (width t) x pos len
def execTins (g : Guard) (t : IType) (d a pos len : Nat) (s : State) : Out :=
  plainWord (.tins g t d a pos len) t d s fun th =>
    (eI th t d).zipWith (fun x y => setField (width t) x pos len (lowTrits y len)) (eI th t a)

/-! ### Packing (R200) -/

def execPack (g : Guard) (t : IType) (m : Fit) (d a : Nat) (s : State) : Out :=
  laneWord (.pack g t m d a) (m == .trp) s fun _ _ th =>
    let r := fitAll t m ((List.range (count t)).map fun j => th.vget (a + j))
    { t := (th.vput d r.value).setCond 0 r.cond, exn := if r.overflowed then [.overflow] else [] }
def execUnpack (g : Guard) (t : IType) (d a : Nat) (s : State) : Out :=
  laneWord (.unpack g t d a) false s fun _ _ th =>
    { t := (elemsOf t (th.vget a)).zipIdx.foldl (fun th (x, j) => th.vput (d + j) x) th }

/-! ### Lane operations (R201 to R203) -/

/-- Lane `src`'s register, or the lane's own where the source is not a present lane (R201). -/
def fromLane (st : Strand) (l : Nat) (a : Nat) (src : Int) : Int := (st.thread (sourceLane st l src)).vget a

def execPerm (g : Guard) (d a b : Nat) (s : State) : Out :=
  laneWord (.perm g d a b) false s fun st l th => { t := th.vput d (fromLane st l a (permLane st b l)) }
def execShfl (g : Guard) (dir : ShflDir) (d a b : Nat) (s : State) : Out :=
  laneWord (.shfl g dir d a b) false s fun st l th =>
    { t := th.vput d (fromLane st l a (shflLane st dir b l)) }

/-- A reduction of one element position (R203). -/
inductive Red where
  | add | min | max
  deriving DecidableEq, Repr

def reduce (op : Red) (n : Nat) (xs : List Int) : Int :=
  match op with
  | .add => xs.foldl (· + ·) 0
  | .min => xs.foldl min (half n)
  | .max => xs.foldl max (-half n)

/-- Each active lane receives the reduction over the lanes that `pick` selects for it. -/
def reduceWord (i : Instr) (t : IType) (m : Fit) (op : Red) (d a : Nat) (s : State)
    (pick : Nat → Nat → Bool) : Out :=
  strandWord i s fun w =>
    let value (l : Nat) : List Int :=
      let ls := w.act.filter (pick l)
      (List.range (count t)).map fun j =>
        reduce op (width t) (ls.map fun q => (eI (w.st.thread q) t a).getD j 0)
    let outs := w.act.map fun l =>
      let th := w.st.thread l
      match op with
      | .add =>
        let r := fitAll t m (value l)
        (l, (vIput th t d r.value).setCond 0 r.cond, if r.overflowed then [Exn.overflow] else [])
      | _ => (l, vIput th t d (ofElems t (value l)), [])
    let st := outs.foldl (fun st (l, th, _) => st.setThread l th) w.st
    .ok (raiseArith st (m == .trp) (outs.map fun (l, _, e) => (l, e)))

def execLred (g : Guard) (t : IType) (m : Fit) (op : RedOp) (d a : Nat) (s : State) : Out :=
  let r : Red := match op with | .add => .add | .min => .min | .max => .max
  reduceWord (.lred g t m op d a) t m r d a s fun _ _ => true
def execLscan (g : Guard) (t : IType) (m : Fit) (op : ScanOp) (d a : Nat) (s : State) : Out :=
  let r : Red := match op with
    | .add | .addEx => .add
    | .min | .minEx => .min
    | .max | .maxEx => .max
  let ex := match op with | .addEx | .minEx | .maxEx => true | _ => false
  reduceWord (.lscan g t m op d a) t m r d a s fun l q => if ex then decide (q < l) else decide (q ≤ l)

end Sys2Proof.Machine
end

