-- ==== Sys2Proof/Machine/Float.lean ====
section
/-!
DEFINITION. Float, dot-product and conversion instructions: row 3 of the opcode map (R205 to R220).
-/
namespace Sys2Proof.Machine

/-- The template of R207: element results written to d, c0 by R78, and the exceptions that trap. -/
def floatWord (i : Instr) (t : FType) (trp : Bool) (d : Nat) (s : State) (f : Thread → List FRes) : Out :=
  laneWord i trp s fun _ _ th =>
    let rs := f th
    { t := (th.vput d (ofFelems t (rs.map (·.w)))).setCond 0 (fcond rs), exn := rs.filterMap (·.exn) }

/-- The same without a condition register. -/
def floatPlain (i : Instr) (t : FType) (d : Nat) (s : State) (f : Thread → List FRes) : Out :=
  laneWord i false s fun _ _ th => { t := th.vput d (ofFelems t ((f th).map (·.w))), exn := (f th).filterMap (·.exn) }

def satMode (m : Fit) : Bool := m != .wrap

def fz (th : Thread) (t : FType) (a b : Nat) (f : FVal → FVal → FRes) : List FRes :=
  (fvals t (th.vget a)).zipWith f (fvals t (th.vget b))
def fz3 (th : Thread) (t : FType) (d a b : Nat) (f : FVal → FVal → FVal → FRes) : List FRes :=
  ((fvals t (th.vget d)).zip ((fvals t (th.vget a)).zip (fvals t (th.vget b)))).map
    fun (x, y, z) => f x y z
def fm (th : Thread) (t : FType) (a : Nat) (f : FVal → FRes) : List FRes := (fvals t (th.vget a)).map f

/-! ### Sums and products (R208) -/

def execFadd (g : Guard) (t : FType) (m : Fit) (d a b : Nat) (s : State) : Out :=
  floatWord (.fadd g t m d a b) t (m == .trp) d s fun th =>
    fz th t a b fun x y => fsum (fmtOf t) (satMode m) [[x], [y]]
def execFsub (g : Guard) (t : FType) (m : Fit) (d a b : Nat) (s : State) : Out :=
  floatWord (.fsub g t m d a b) t (m == .trp) d s fun th =>
    fz th t a b fun x y => fsum (fmtOf t) (satMode m) [[x], [y.neg]]
def execFmul (g : Guard) (t : FType) (m : Fit) (d a b : Nat) (s : State) : Out :=
  floatWord (.fmul g t m d a b) t (m == .trp) d s fun th =>
    fz th t a b fun x y => fsum (fmtOf t) (satMode m) [[x, y]]
def execFma (g : Guard) (t : FType) (m : Fit) (d a b : Nat) (s : State) : Out :=
  floatWord (.fma g t m d a b) t (m == .trp) d s fun th =>
    fz3 th t d a b fun x y z => fsum (fmtOf t) (satMode m) [[x], [y, z]]
def execFnma (g : Guard) (t : FType) (m : Fit) (d a b : Nat) (s : State) : Out :=
  floatWord (.fnma g t m d a b) t (m == .trp) d s fun th =>
    fz3 th t d a b fun x y z => fsum (fmtOf t) (satMode m) [[x], [y.neg, z]]

/-! ### Order and magnitude (R209, R210) -/

/-- A value that is written unchanged: its own encoding in canonical class. -/
def resVal (f : Fmt) (x : FVal) : FRes :=
  match x with
  | .nan p y => resNan f p y
  | .inf s => resInf f s
  | .fin m e => roundTo f false (exactOf m e)

/-- The smaller or the larger of two values; a NaN operand decides (R209). -/
def fpick (f : Fmt) (larger : Bool) (x y : FVal) : FRes :=
  match firstNan [x, y] with
  | some (p, z) => resNan f p z
  | none =>
    let c := fcompare x y
    resVal f (if larger then (if c < 0 then y else x) else (if 0 < c then y else x))

def execFmin (g : Guard) (t : FType) (d a b : Nat) (s : State) : Out :=
  floatPlain (.fmin g t d a b) t d s fun th => fz th t a b (fpick (fmtOf t) false)
def execFmax (g : Guard) (t : FType) (d a b : Nat) (s : State) : Out :=
  floatPlain (.fmax g t d a b) t d s fun th => fz th t a b (fpick (fmtOf t) true)
def execFabs (g : Guard) (t : FType) (d a : Nat) (s : State) : Out :=
  floatWord (.fabs g t d a) t false d s fun th =>
    fm th t a fun x => resVal (fmtOf t) (if x.sign < 0 then x.neg else x)

/-- Results of a float compare by element: none where unordered (R210). -/
def fcmpElem (x y : FVal) : Option Int := if (firstNan [x, y]).isSome then none else some (fcompare x y)
def fcmpCond (rs : List (Option Int)) : Cond :=
  { sign := lastNonzero (rs.filterMap id), carry := if rs.any Option.isNone then 1 else 0 }

def execFcmp (g : Guard) (t : FType) (c a b : Nat) (s : State) : Out :=
  laneWord (.fcmp g t c a b) false s fun _ _ th =>
    { t := th.setCond c (fcmpCond ((fvals t (th.vget a)).zipWith fcmpElem (fvals t (th.vget b)))) }

/-! ### Division, roots, functions of three (R211 to R213) -/

def execFdiv (g : Guard) (t : FType) (m : Fit) (d a b : Nat) (s : State) : Out :=
  floatWord (.fdiv g t m d a b) t (m == .trp) d s fun th => fz th t a b (fdivVal (fmtOf t) (satMode m))
def execFsqrt (g : Guard) (t : FType) (d a : Nat) (s : State) : Out :=
  floatWord (.fsqrt g t d a) t false d s fun th => fm th t a (fsqrtVal (fmtOf t))
def execFrcp (g : Guard) (t : FType) (m : Fit) (d a : Nat) (s : State) : Out :=
  floatWord (.frcp g t m d a) t (m == .trp) d s fun th =>
    fm th t a (fdivVal (fmtOf t) (satMode m) (.fin 1 0))
def execFrsq (g : Guard) (t : FType) (d a : Nat) (s : State) : Out :=
  floatWord (.frsq g t d a) t false d s fun th => fm th t a (frsqVal (fmtOf t))
def execFex3 (g : Guard) (t : FType) (m : Fit) (d a : Nat) (s : State) : Out :=
  floatWord (.fex3 g t m d a) t (m == .trp) d s fun th => fm th t a (fex3Val (fmtOf t) (satMode m))
def execFlg3 (g : Guard) (t : FType) (d a : Nat) (s : State) : Out :=
  floatWord (.flg3 g t d a) t false d s fun th => fm th t a (flg3Val (fmtOf t))

/-- x · 3^k (R213). Counts beyond what moves every value out of range act alike. -/
def fscale (f : Fmt) (sat : Bool) (x : FVal) (k : Int) : FRes :=
  match x with
  | .fin m e => roundTo f sat (exactOf m (e + max (-1000) (min 1000 k)))
  | y => resVal f y

def execFsclV (g : Guard) (t : FType) (m : Fit) (d a b : Nat) (s : State) : Out :=
  floatWord (.fsclV g t m d a b) t (m == .trp) d s fun th =>
    (fvals t (th.vget a)).zipWith (fscale (fmtOf t) (satMode m)) (felems t (th.vget b))
def execFsclI (g : Guard) (t : FType) (m : Fit) (d a : Nat) (imm : Int) (s : State) : Out :=
  floatWord (.fsclI g t m d a imm) t (m == .trp) d s fun th =>
    fm th t a fun x => fscale (fmtOf t) (satMode m) x imm

/-! ### Classification and conversion (R214 to R217) -/

def execFcls (g : Guard) (t : FType) (d a : Nat) (s : State) : Out :=
  laneWord (.fcls g t d a) false s fun _ _ th =>
    { t := th.vput d (ofFelems t ((felems t (th.vget a)).map fun w => (fclass (fmtOf t) w).code)) }

/-- nearest(x) of m·3^e, and ⌊x⌋ and the least integer not below x (R215). -/
def nearestInt (m e : Int) : Int := nearestAt (exactOf m e) 0
def floorInt (m e : Int) : Int := if 0 ≤ e then m * 3 ^ e.toNat else m / 3 ^ (-e).toNat
def roundInt (dir : RndDir) (m e : Int) : Int :=
  match dir with
  | .near => nearestInt m e
  | .floor => floorInt m e
  | .ceil => -floorInt (-m) e

def execFrnd (g : Guard) (t : FType) (dir : RndDir) (d a : Nat) (s : State) : Out :=
  floatWord (.frnd g t dir d a) t false d s fun th =>
    fm th t a fun x => match x with
      | .fin m e => roundTo (fmtOf t) false (exactOf (roundInt dir m e) 0)
      | y => resVal (fmtOf t) y

/-- Float to integer (R79): nearest, then saturate; 0 and invalid for a NaN. -/
def fixElem (n : Nat) (x : FVal) : Fitted × Option Exn :=
  match x with
  | .nan _ _ => (⟨0, 0, 0⟩, some .invalid)
  | .inf s => (⟨s * half n, 0, s⟩, some .overflow)
  | .fin m e =>
    let f := saturate (nearestInt m e) n
    (f, if f.ovf = 0 then none else some .overflow)

def execFfix (g : Guard) (t : FType) (trp : Bool) (d a : Nat) (s : State) : Out :=
  laneWord (.ffix g t trp d a) trp s fun _ _ th =>
    let rs := (fvals t (th.vget a)).map (fixElem (fmtOf t).n)
    let fs := rs.map Prod.fst
    { t := (th.vput d (ofFelems t (fs.map (·.w)))).setCond 0
        (packedCond (fs.map (·.w)) (fs.map (·.carry)) (fs.map (·.ovf))), exn := rs.filterMap Prod.snd }
def execFflt (g : Guard) (t : FType) (d a : Nat) (s : State) : Out :=
  floatWord (.fflt g t d a) t false d s fun th =>
    (felems t (th.vget a)).map fun x => roundTo (fmtOf t) false (exactOf x 0)

/-- A value of one format in the other (R79, R72). -/
def execFcvt (g : Guard) (t : FType) (m : Fit) (d a j : Nat) (s : State) : Out :=
  laneWord (.fcvt g t m d a j) (m == .trp) s fun _ _ th =>
    match t with
    | .f27 =>
      let r := resVal fmt27 (fdecode fmt9 (elem 9 (th.vget a) j))
      { t := (th.vput d r.w).setCond 0 (fcond [r]), exn := r.exn.toList }
    | .f9 =>
      let r := match fdecode fmt27 (th.vget a) with
        | .fin n e => roundTo fmt9 (satMode m) (exactOf n e)
        | y => resVal fmt9 y
      { t := (th.vput d (setField 27 (th.vget d) (9 * j) 9 r.w)).setCond 0 (fcond [r]), exn := r.exn.toList }

/-! ### Dot products (R218 to R220) -/

def execDot (g : Guard) (t : IType) (d a b : Nat) (s : State) : Out :=
  laneWord (.dot g t d a b) false s fun _ _ th =>
    let f := wrap ((zipE th t a b (· * ·)).foldl (· + ·) (th.vget d)) 27
    { t := (th.vput d f.w).setCond 0 (packedCond [f.w] [f.carry] [f.ovf]) }
def execDotf (g : Guard) (m : Fit) (d a b : Nat) (s : State) : Out :=
  laneWord (.dotf g m d a b) (m == .trp) s fun _ _ th =>
    let prods := (fvals .f9 (th.vget a)).zipWith (fun x y => [x, y]) (fvals .f9 (th.vget b))
    let r := fsum fmt27 (satMode m) ([fdecode fmt27 (th.vget d)] :: prods)
    { t := (th.vput d r.w).setCond 0 (fcond [r]), exn := r.exn.toList }
def execCmul (g : Guard) (t : FType) (m : Fit) (d a b : Nat) (s : State) : Out :=
  laneWord (.cmul g t m d a b) (m == .trp) s fun _ _ th =>
    let v (n : Nat) := fvals t (th.vget n)
    let at_ (n j : Nat) := (v n).getD j .zero
    let js := List.range (fcount t)
    let re := js.map fun j => fsum (fmtOf t) (satMode m)
      [[at_ d j], [at_ a j, at_ b j], [(at_ (a + 1) j).neg, at_ (b + 1) j]]
    let im := js.map fun j => fsum (fmtOf t) (satMode m)
      [[at_ (d + 1) j], [at_ (a + 1) j, at_ b j], [at_ a j, at_ (b + 1) j]]
    { t := (th.vput d (ofFelems t (re.map (·.w)))).vput (d + 1) (ofFelems t (im.map (·.w))),
      exn := (re ++ im).filterMap (·.exn) }

end Sys2Proof.Machine
end

