-- ==== Sys2Proof/Machine/Sched.lean ====
section
/-!
DEFINITION. What follows from a thread, strand, weave, launch or node ending (R22, R36 to R45), the
register allocator, barrier rounds (R235, R236), partitions and pre-emption triggers (R348, R349).
-/
namespace Sys2Proof.Machine

/-! ### Launch records (R340 to R343) -/

def recWord (r : List Int) (i : Nat) : Int := r.getD i 0
def recPair (r : List Int) (i : Nat) : Int := pairOf (recWord r i) (recWord r (i + 1))
def recKind (r : List Int) : Nat := idx (recWord r 0) 24 3
def recArgs (r : List Int) : Nat := idx (recWord r 0) 17 4
def recPush (r : List Int) : Nat := idx (recWord r 0) 14 3
def recBindings (r : List Int) : Nat := idx (recWord r 0) 11 3
def recSuccs (r : List Int) : Nat := idx (recWord r 0) 8 3
def recGranules (r : List Int) : Nat := idx (recWord r 13) 24 3 + 1
def recTiles (r : List Int) : List Nat := (List.range 9).filter fun i => trit 27 (recWord r 13) (15 + i) == 1
def recPass (r : List Int) : Nat := idx (recWord r 13) 12 3
def recLevel (r : List Int) : Int := sgd (recWord r 13) 9 3
def recGrid (r : List Int) : List Nat := [7, 8, 9].map fun i => (recWord r i).toNat
def recShape (r : List Int) : List Nat := [10, 11, 12].map fun i => (recWord r i).toNat
def recThreads (r : List Int) : Nat := (recShape r).foldl (· * ·) 1
def recStrands (r : List Int) : Nat := (recThreads r + 31) / 32
def recWindow (r : List Int) : Nat := (recWord r 14).toNat
/-- Coalescing threshold, records per weave, record size, queue capacity (R343). -/
def recC (r : List Int) : Nat := (sgd (recWord r 21) 18 9).toNat
def recW (r : List Int) : Nat := (sgd (recWord r 21) 9 9).toNat
def recSize (r : List Int) : Nat := idx (recWord r 23) 24 3 + 1
def recCapacity (r : List Int) : Nat := (sgd (recWord r 23) 9 15).toNat

/-! ### Commands (R412, R413) -/

def endCmd (s : State) (c : Option Nat) (code result : Nat) : State :=
  match c with
  | some n => s.modCmd n fun x =>
      match x.phase with
      | .ended _ _ | .counted => x
      | _ => { x with phase := .ended code result, io := .queued }
  | none => s

/-! ### Contexts and partitions (R319, R348, R349) -/

def waiting (l : Launch) : Bool := decide (l.next < l.total)
/-- Launches of a context that have weaves undispatched. -/
def undispatched (s : State) (ctx : Nat) : List (Nat × Launch) :=
  s.launches.filter fun (_, l) => l.ctx == ctx && waiting l
/-- Weaves resident on a partition of a die. -/
def residents (s : State) (die part : Nat) : List (Nat × Weave) :=
  s.weaves.filter fun (_, w) => w.die == die && w.part == part

/-- A context that may be given a partition: it has undispatched or swapped-out weaves. -/
def isReady (s : State) (ctx : Nat) : Bool :=
  match s.contexts.get? ctx with
  | none => false
  | some c => c.status == .alive && (!(undispatched s ctx).isEmpty || !c.images.isEmpty || !c.stored.isEmpty)

/-- The launches of a context's weaves that a pre-emption of one of its partitions is saving. -/
def savedLaunches (s : State) (ctx : Nat) : List Nat :=
  (List.range 3).flatMap fun p =>
    let x := s.part (ctx / 256) p
    match x.phase with
    | .imaging _ _ => if x.ctx = ctx then ((x.shadow.map (·.kept)).getD []).map (·.launch) else []
    | _ => []

/-- A context's level on a partition (R348): the highest among its launches with weaves undispatched or resident
there, weaves swapped out, or being swapped out, counting as undispatched. -/
def levelOf (s : State) (ctx part : Nat) : Int :=
  let resident (l : Nat) : Bool := s.weaves.any fun (_, w) => w.ctx == ctx && w.launch == l && w.part == part
  let ls := s.launches.filter fun (n, l) => l.ctx == ctx && (waiting l || resident n)
  let kept (r : ImageRef) : List Nat := match r with
    | .shadow p => (((s.part (ctx / 256) p).shadow.map (·.kept)).getD []).map (·.launch)
    | .area _ _ ks => ks.map (·.launch)
  let out := ((s.contexts.get? ctx).map fun c =>
    c.stored.map (·.weave.launch) ++ c.images.flatMap kept ++ savedLaunches s ctx).getD []
  let stored := out.filterMap fun l => (s.launches.get? l).map (·.level)
  (ls.map (·.2.level) ++ stored).foldl max (-13)

/-- Is the partition usable, given what the other mode holds (R419)? -/
def partFree (s : State) (die p : Nat) : Bool :=
  let held (q : Nat) := (s.part die q).phase != .free
  let d := s.die die
  if p = 2 then d.wholeDie && !held 0 && !held 1 && !held 2
  else !d.wholeDie && !held p && !held 2

/-- A partition becomes free: commands that wait for it complete, and a context that is still ready begins to
wait. -/
def releasePart (s : State) (die p : Nat) : State :=
  let x := s.part die p
  let s1 := s.setPart die p { x with phase := .free, forCtx := none, waiters := [] }
  let s2 := s1.modCtx x.ctx fun c => { c with waitSince := s.cycle }
  -- a PREEMPT that names several partitions completes when all of them are free
  let still (c : Nat) : Bool := (List.range 3).any fun q => (s2.part die q).waiters.contains c
  x.waiters.foldl (fun s c => if still c then s else endCmd s (some c) 0 0) s2

/-- A context's first weave on the die restarts its watchdog's count (R320). -/
def becomesResident (s : State) (ctx : Nat) : State :=
  if s.weaves.any fun x => x.2.ctx == ctx then s else s.modCtx ctx fun c => { c with progress := s.cycle }

/-- Begin a pre-emption (R330): a context with no weave on the partition leaves it at once; else a drain with its
deadline, at once a halt for a deadline of 0. -/
def beginPreempt (s : State) (die p : Nat) (forCtx : Option Nat) : State :=
  match (s.part die p).phase with
  | .run =>
    let d := (s.die die).drainUs
    let s1 := s.modPart die p fun x => { x with forCtx := forCtx }
    if (residents s die p).isEmpty then releasePart s1 die p
    else if d = 0 then beginHalt s1 die p 2 none
    else s1.modPart die p fun x => { x with phase := .drain (s.cycle + us d) }
  | _ => s

/-- Does a context run on a partition, for the first trigger of R349? One whose halt its own fault or a command began runs
there no more (DEDUCED, log 96). -/
def runsOn (p : Part) : Bool :=
  match p.phase with
  | .run | .drain _ | .imaging _ _ => true
  | .halt _ _ reason => reason == 2
  | .free => false

/-- The first trigger of R349, of a context that is ready above a running context's level with no partition free: the
partition of the lowest level, then the one held longest, then the lower number. Where a pre-emption runs on that one
already, the trigger waits for it to end. A partition that the pre-emption leaves free at once is a change of hands:
the triggers are tested again. -/
def triggerOnce (again : State → State) (s : State) (ctx : Nat) : State :=
  let die := ctx / 256
  let parts := (List.range 3).filter fun p => (s.part die p).phase != .free
  let running := parts.any fun p => (s.part die p).forCtx == some ctx
  let free := (List.range 3).any fun p => partFree s die p
  if !isReady s ctx || running || free then s
  else
    let cands := parts.filter fun p =>
      runsOn (s.part die p) && (s.part die p).ctx != ctx &&
        decide (levelOf s (s.part die p).ctx p < levelOf s ctx p)
    let better (a b : Nat) : Bool :=
      let la := levelOf s (s.part die a).ctx a
      let lb := levelOf s (s.part die b).ctx b
      decide (la < lb) || (la == lb && decide ((s.part die a).since ≤ (s.part die b).since))
    match leastBy better cands with
    | some p =>
      let s1 := beginPreempt s die p (some ctx)
      if (s1.part die p).phase = .free then again s1 else s1
    | none => s

/-- Every ready context of a die tests its trigger; each time that this frees a partition at once they are tested again. -/
def triggersFor (die : Nat) : Nat → State → State
  | 0, s => s
  | n + 1, s => (s.contexts.keys.filter fun c => c / 256 == die).foldl (triggerOnce (triggersFor die n)) s

/-- A context tests its trigger, as it becomes ready or its level rises (R349). -/
def trigger (s : State) (ctx : Nat) : State := triggerOnce (triggersFor (ctx / 256) 3) s ctx

/-- Every ready context of a die tests its trigger, as a partition changes hands (R349). -/
def triggers (s : State) (die : Nat) : State := triggersFor die 4 s

/-- A pre-emption that the quantum or a command begins: a partition that it leaves free at once has changed hands (R349). -/
def preempt (s : State) (die p : Nat) : State :=
  let s1 := beginPreempt s die p none
  if (s1.part die p).phase = .free then triggers s1 die else s1

/-- A partition becomes free, and triggers are tested again. -/
def freePart (s : State) (die p : Nat) : State := triggers (releasePart s die p) die

/-- A context leaves a partition on which it has nothing undispatched and nothing resident (R348),
or, in a drain, nothing resident (R330). -/
def leaveCheck (s : State) (die p : Nat) : State :=
  let x := s.part die p
  if !(residents s die p).isEmpty then s
  else
    match x.phase with
    | .run => if isReady s x.ctx then s else freePart s die p
    | .drain _ => freePart s die p
    | _ => s

/-- A context becomes ready: its wait begins if it had nothing undispatched (R348). -/
def becomeReady (s : State) (ctx : Nat) : State :=
  if isReady s ctx then s else s.modCtx ctx fun c => { c with waitSince := s.cycle }

/-! ### Graph nodes (R37 to R40) -/

/-- Form a group of the oldest `n` records of a node: ⌈n/W⌉ weaves, entered as a launch. -/
def formGroup (s : State) (g node n : Nat) : State :=
  match s.graphs.get? g with
  | none => s
  | some gr =>
    match gr.nodes[node]? with
    | none => s
    | some nd =>
      let recs := (nd.queue.take n).map Prod.snd
      let w := recW nd.record
      let batches := chunks w recs.length recs
      let l : Launch :=
        { die := gr.die, ctx := gr.ctx, cmd := none, graph := some (g, node), recPtr := nd.recPtr,
          record := nd.record, level := recLevel nd.record, seq := s.nextId, total := batches.length,
          batches }
      let nd' : Node := { nd with queue := nd.queue.drop n, open_ := nd.open_ + 1, started := true }
      let gr' := { gr with nodes := gr.nodes.set node nd' }
      let s1 := becomeReady s gr.ctx
      let s2 := { s1 with graphs := s1.graphs.put g gr', launches := s1.launches.put s.nextId l,
                          nextId := s.nextId + 1 }
      trigger s2 gr.ctx

def predsDone (gr : Graph) (nd : Node) : Bool :=
  nd.preds.all fun p => ((gr.nodes[p]?).map (·.complete)).getD true

/-- One pass over a graph's nodes: a node whose predecessors are complete launches what is pending,
or is complete once nothing is pending or open (R38, R40). -/
def nodePass (s : State) (g : Nat) : State :=
  match s.graphs.get? g with
  | none => s
  | some gr =>
    (List.range gr.nodes.length).foldl (fun s n =>
      match s.graphs.get? g with
      | none => s
      | some gr =>
        match gr.nodes[n]? with
        | none => s
        | some nd =>
          if nd.complete || !predsDone gr nd then s
          else if !nd.queue.isEmpty then formGroup s g n nd.queue.length
          else if nd.open_ = 0 ∧ (nd.started ∨ !nd.preds.isEmpty) then
            { s with graphs := s.graphs.put g { gr with nodes := gr.nodes.set n { nd with complete := true } } }
          else s) s

/-- Repeat passes, and end the run when the last node is complete (R40). -/
def graphProgress (s : State) (g : Nat) : State :=
  match s.graphs.get? g with
  | none => s
  | some gr =>
    let s1 := (List.range (gr.nodes.length + 1)).foldl (fun s _ => nodePass s g) s
    match s1.graphs.get? g with
    | none => s1
    | some gr' =>
      if gr'.running.isSome && gr'.nodes.all (·.complete) then
        endCmd { s1 with graphs := s1.graphs.put g { gr' with running := none } } gr'.running (if gr'.failed then 4 else 0) 0
      else s1

/-- A launch whose weaves have all ended (R416, R40). -/
def endLaunch (s : State) (n : Nat) (l : Launch) : State :=
  let s1 := { s with launches := s.launches.del n }
  match l.graph with
  | none => endCmd s1 l.cmd (if l.failed = 0 then 0 else 4) 0
  | some (g, node) =>
    let s2 := { s1 with graphs := s1.graphs.upd g fun gr =>
      match gr.nodes[node]? with
      | some nd => { gr with nodes := gr.nodes.set node { nd with open_ := nd.open_ - 1 } }
      | none => gr }
    -- the run of a graph with a failed weave reports it when it completes (R412, R416)
    let s3 := if l.failed = 0 then s2 else { s2 with graphs := s2.graphs.upd g fun gr => { gr with failed := true } }
    graphProgress s3 g

/-- A weave has ended (R22): its window, barriers and tiles are free, its launch counts it, and its
context may leave the partition. -/
def endWeave (s : State) (w : Nat) : State :=
  match s.weaves.get? w with
  | none => s
  | some wv =>
    let s1 := { s with weaves := s.weaves.del w }
    let s2 := match s1.launches.get? wv.launch with
      | none => s1
      | some l =>
        let l' := { l with ended := l.ended + 1, failed := l.failed + (if wv.failed then 1 else 0) }
        if l'.ended = l'.total then endLaunch s1 wv.launch l'
        else { s1 with launches := s1.launches.put wv.launch l' }
    leaveCheck s2 wv.die wv.part

/-! ### The register allocator (R41 to R45) -/

/-- The cluster's lowest-numbered enabled core holds its handler slots (R353). -/
def handlerCore (s : State) (cluster : Nat) : Option Nat := (enabledCores s cluster).head?

/-- Granules allocated to ordinary strands of a core, and those free for them (R31, R41, R353). -/
def allocated (s : State) (core : Nat) : Nat :=
  ((s.strands.filter fun (_, st) => st.core == core && !st.handler).map (·.2.granules)).sum
def poolOf (s : State) (core : Nat) : Nat :=
  if handlerCore s (clusterOf core) == some core then Config.granules - 27 * (s.die (dieOf core)).handlers
  else Config.granules
def freeGranules (s : State) (core : Nat) : Nat := poolOf s core - allocated s core

/-- May a strand of a core be granted `n` granules (R42)? A handler strand's slot always has them (R353). -/
def fitsGrow (s : State) (st : Strand) (n : Nat) : Bool := st.handler || decide (n ≤ freeGranules s st.core)

/-- Grant heads of the queue for as long as they fit (R43). A request whose strand an earlier grant has
brought so far that it would pass 27 granules gets status -1 (log 73). -/
def grants (s : State) (core : Nat) : Nat → State
  | 0 => s
  | fuel + 1 =>
    match (s.core core).growQ with
    | [] => s
    | r :: rest =>
      let s1 := s.modCore core fun c => { c with growQ := rest }
      match s.strands.get? r.strand with
      | none => grants s1 core fuel
      | some st =>
        if 27 < st.granules + r.n then grants (s1.setStrand r.strand (endGrow st r (-1) st.granules)) core fuel
        else if fitsGrow s st r.n then
          grants (s1.setStrand r.strand (endGrow st r 1 (st.granules + r.n))) core fuel
        else s

/-- Is every thread of a strand that has not ended blocked in grow, at a barrier, or held (R44)?
A queued grow blocks its whole strand once no lane of the pick it stopped goes on (R43, R25). -/
def strandBlocked (st : Strand) : Bool :=
  st.pick.all (·.lanes.isEmpty) && (st.threads.any (·.status == .inGrow) ||
    st.threads.all fun t => t.awaits || match t.status with
      | .absent | .ended | .inGrow | .bar _ | .barw _ => true
      | _ => false)

/-- The denial of R44: every pending request gets status 0 at once. -/
def denyTest (s : State) (core : Nat) : State :=
  let sts := s.strands.filter fun (_, st) => st.core == core
  match (s.core core).growQ with
  | [] => s
  | r :: _ =>
    if (s.strands.get? r.strand).any fun st => fitsGrow s st r.n then s
    else if sts.all fun (_, st) => strandBlocked st then denyGrows s core fun _ => true
    else s

/-- The denial test on every core that has a grow queued (R44). -/
def denials (s : State) : State :=
  ((s.cores.filter fun (x : Nat × Core) => !x.2.growQ.isEmpty).map Prod.fst).foldl denyTest s

/-- Grants, then the denial test. -/
def allocate (s : State) (core : Nat) : State :=
  denyTest (grants s core (s.core core).growQ.length) core

/-! ### Barrier rounds (R235, R236) -/

/-- A strand's arrival trit on a barrier. -/
def arrivalTrit (st : Strand) (n : Nat) : Int :=
  let marked := st.threads.any fun t => t.present && t.marks.contains n
  if !marked then 0
  else if st.threads.all fun t => !t.present || t.ended || t.marks.contains n then 1 else -1

def Weave.barrier (w : Weave) (n : Nat) : Barrier := w.barriers.getD n {}
def Weave.setBarrier (w : Weave) (n : Nat) (b : Barrier) : Weave := { w with barriers := w.barriers.set n b }

/-- A thread at the completion of a round: its mark goes, it is eligible again, and a return to the barrier
is off (R238). -/
def releaseFrom (n : Nat) (t : Thread) : Thread :=
  let t1 := { t with marks := t.marks.filter (· != n), ret := t.ret.filter fun r => r.1 != n }
  match t.status with
  | .bar m | .barw m => if m = n then { t1 with status := .ready } else t1
  | _ => t1

/-- Complete a round (R236, R237, R360): every blocked thread goes on, and each core of the weave
discards its cached lines. -/
def completeRound (s : State) (w n : Nat) : State :=
  let s1 := s.modWeave w fun wv => wv.setBarrier n {}
  let rel (st : Strand) : Strand :=
    if st.weave = w then { st with threads := st.threads.map (releaseFrom n) } else st
  let s2 : State := { s1 with strands := s1.strands.map fun p => (p.1, rel p.2) }
  ((s2.strandsOf w).map (·.2.core)).foldl dropAll s2

/-- The completion test (R236). With a count of 0 the strands that have not ended all count. -/
def roundTest (s : State) (w n : Nat) : State :=
  match s.weaves.get? w with
  | none => s
  | some wv =>
    let b := wv.barrier n
    match b.expected with
    | none => s
    | some 0 =>
      let sts := s.strandsOf w
      if sts.all fun (_, st) => arrivalTrit st n == 1 then completeRound s w n else s
    | some k => if k ≤ b.arrivals then completeRound s w n else s

/-- Count a strand whose trit has become +1, then test. `before` is the trit before the change. -/
def arrive (s : State) (w k n : Nat) (before : Int) : State :=
  match s.strands.get? k with
  | none => s
  | some st =>
    let s1 := if before != 1 && arrivalTrit st n == 1 then
        s.modWeave w fun wv => wv.setBarrier n { wv.barrier n with arrivals := (wv.barrier n).arrivals + 1 }
      else s
    roundTest s1 w n

/-! ### Threads and strands that end (R22, R232) -/

def allEnded (st : Strand) : Bool := st.threads.all fun t => !t.present || t.ended

/-- A strand ends (R22): slot and granules return, its tiles stay with the weave, pins of a context that has left the core go,
queued grows are served, barriers of count 0 are tested without it. -/
def endStrand (s : State) (k : Nat) : State :=
  match s.strands.get? k with
  | none => s
  | some st =>
    let ctx := (s.weaveOf st).ctx
    -- a round of count 0 no longer counts the strand
    let s0 := (List.range 27).foldl (fun s n =>
      if arrivalTrit st n == 1 then
        s.modWeave st.weave fun wv =>
          if (wv.barrier n).expected == some 0 then
            wv.setBarrier n { wv.barrier n with arrivals := (wv.barrier n).arrivals - 1 }
          else wv
      else s) s
    let s1 := { s0 with strands := s0.strands.del k }.modWeave st.weave fun wv =>
      if st.tiles.isEmpty then wv else { wv with spent := (st.core, st.tiles.length) :: wv.spent }
    let here := s1.strands.any fun (_, x) => x.core == st.core && (s1.weaveOf x).ctx == ctx
    let s2 := if here then s1
      else s1.modCore st.core fun c => { c with pins := c.pins.filter fun p => p.1 != ctx }
    let s3 := allocate s2 st.core
    if (s3.strandsOf st.weave).isEmpty then endWeave s3 st.weave
    else (List.range 27).foldl (fun s n => roundTest s st.weave n) s3

/-- After threads of a strand have ended: barriers see them as arrived, a handler they were in may be
left, and the strand ends with its last thread. `before` gives the trits before. -/
def afterEnd (s : State) (k : Nat) (before : List Int) : State :=
  match s.strands.get? k with
  | none => s
  | some st =>
    let s1 := (List.range 27).foldl (fun s n => arrive s st.weave k n (before.getD n 0)) s
    let s2 := s1.modStrand k leaveHandler
    match s2.strands.get? k with
    | some st => if allEnded st then endStrand s2 k else s2
    | none => s2

def tritsAll (st : Strand) : List Int := (List.range 27).map (arrivalTrit st)

/-- Threads that executed exit end once no flag of the strand is set (R22, R232). -/
def finishExits (s : State) (k : Nat) : State :=
  match s.strands.get? k with
  | none => s
  | some st =>
    if st.flags.any id || !st.threads.any (·.status == .exiting) then s
    else
      let before := tritsAll st
      let s1 := s.setStrand k { st with threads := st.threads.map fun t =>
        if t.status == .exiting then { t with status := .ended } else t }
      afterEnd s1 k before

/-- A flag clears (R55), and exits that waited for it end; in a halt their threads stay at exit (R338). -/
def clearFlag (s : State) (k f : Nat) : State :=
  let s1 := s.modStrand k fun st =>
    { st with flags := st.flags.set f false, bad := st.bad.filter fun b => b.cls != clsF || b.idx != f }
  let rests := (s.strands.get? k).any fun st => let wv := s.weaveOf st; halting (s.part wv.die wv.part)
  if rests then s1 else finishExits s1 k

end Sys2Proof.Machine
end

