-- ==== Sys2Proof/Machine/Access.lean ====
section
/-!
DEFINITION. Core-path accesses to device space: what a word asks of each lane (R252), the checks made
before any lane acts (R253), the act at the home (R254, R263), and accesses whose home is another die,
which keep their word in progress until every lane has its answer (R323, R401).
-/
namespace Sys2Proof.Machine

/-! ### What a word asks -/

/-- One device-space word: its size in trytes, each lane's address and operands, what the home does,
and where a lane's answer goes. -/
structure Mem where
  want : Want
  size : Nat
  /-- 0 normal, 1 stream, 2 keep, 3 at the home. -/
  hint : Nat := 3
  base : Nat
  disp : Strand → Nat → Int
  once : Bool := false
  data : Strand → Nat → Int := fun _ _ => 0
  expect : Strand → Nat → Int := fun _ _ => 0
  kind : AccKind
  /-- The new value of an atomic from the old one, the operand and the expected value (R262). -/
  rmw : Int → Int → Int → Option Int := fun _ _ _ => none
  put : Strand → Nat → Int → Strand := fun st _ _ => st
  /-- An acquire, and whether it is .all. -/
  acquire : Option Bool := none

/-- An index register's value in a lane, or 0 (R252). -/
def indexOf (x : Option Nat) (st : Strand) (l : Nat) : Int :=
  match x with
  | some r => (st.thread l).vget r
  | none => 0

/-- A register value as its element (R250). -/
def narrowTo (t : EType) (x : Int) : Int := if trytesOf t = 1 then wrapVal x 9 else x

def putV (t : EType) (d : Nat) (st : Strand) (l : Nat) (x : Int) : Strand :=
  st.setThread l (vEput (st.thread l) t d x)
def dataV (t : EType) (d : Nat) (st : Strand) (l : Nat) : Int := narrowTo t (vE (st.thread l) t d)

/-- A uniform element: s register, or s pair for .p. -/
def isPair (t : EType) : Bool := t == .p

def etypeFloat : EType → Option FType
  | .f9 => some .f9
  | .f27 => some .f27
  | _ => none

/-- The new value of an atomic operation (R262). -/
def atomNew (t : EType) (sat : Bool) (op : AtomOp) (o b e : Int) : Option Int :=
  let n := 9 * trytesOf t
  match op with
  | .add =>
    match etypeFloat t with
    | some f => some (fsum (fmtOf f) sat [[fdecode (fmtOf f) o], [fdecode (fmtOf f) b]]).w
    | none => some (if sat then (saturate (o + b) n).w else wrapVal (o + b) n)
  | .min =>
    match etypeFloat t with
    | some f => some (fpick (fmtOf f) false (fdecode (fmtOf f) o) (fdecode (fmtOf f) b)).w
    | none => some (min o b)
  | .max =>
    match etypeFloat t with
    | some f => some (fpick (fmtOf f) true (fdecode (fmtOf f) o) (fdecode (fmtOf f) b)).w
    | none => some (max o b)
  | .xchg => some b
  | .cas => if o = e then some b else none
  | .tand => some (tritwise min n o b)
  | .tor => some (tritwise max n o b)
  | .tins pos len => some (setField n o pos len (lowTrits b len))

def acquireOf (x : AtomExt) : Option Bool :=
  match x.order with
  | .acq | .ar => some x.all
  | _ => none

/-- The device-space access of each instruction that makes one (R252, R254, R255, R261, R265). -/
def memOf (i : Instr) : Option Mem :=
  match i with
  | .ldI _ t d a imm => some
      { want := .read, size := trytesOf t, hint := 0, base := a, kind := .load, put := putV t d,
        disp := fun _ l => trytesOf t * (imm + l) }
  | .ldL _ t d a x => some
      { want := .read, size := trytesOf t, hint := x.hint, base := a, kind := .load, put := putV t d,
        disp := fun st l => trytesOf t * (indexOf x.index st l + x.disp) }
  | .stI _ t d a imm => some
      { want := .write, size := trytesOf t, base := a, kind := .store, data := dataV t d,
        disp := fun _ l => trytesOf t * (imm + l) }
  | .stL _ t d a x => some
      { want := .write, size := trytesOf t, base := a, kind := .store, data := dataV t d,
        disp := fun st l => trytesOf t * (indexOf x.index st l + x.disp) }
  | .lduI _ t d a imm | .lduL _ t d a imm => some
      { want := .read, size := trytesOf t, hint := 0, base := a, kind := .load, once := true,
        put := fun st _ x => st.suput (isPair t) d x, disp := fun _ _ => trytesOf t * imm }
  | .stuI _ t d a imm | .stuL _ t d a imm => some
      { want := .write, size := trytesOf t, base := a, kind := .store, once := true,
        data := fun st _ => narrowTo t (st.su (isPair t) d), disp := fun _ _ => trytesOf t * imm }
  | .atom _ t sat d a b x => some
      { want := .write, size := trytesOf t, base := a, kind := .atomic, data := dataV t b,
        expect := dataV t d, rmw := atomNew t sat x.op, put := putV t d, acquire := acquireOf x,
        disp := fun st l => trytesOf t * indexOf x.index st l }
  | .red _ t sat a b x => some
      { want := .write, size := trytesOf t, base := a, kind := .atomic, data := dataV t b,
        rmw := atomNew t sat x.op, disp := fun st l => trytesOf t * indexOf x.index st l }
  | .acq _ _ all d a b => some
      { want := .read, size := 3, base := a, kind := .load, put := putV .t27 d, acquire := some all,
        disp := fun st l => 3 * (st.thread l).vget b }
  | .rel _ _ _ d a b => some
      { want := .write, size := 3, base := a, kind := .store, data := dataV .t27 d,
        disp := fun st l => 3 * (st.thread l).vget b }
  | _ => none

/-- What a core's request asks of a home: a device word's access, the read of a waitw, or a prefetch's line (R121, R270,
R272). -/
def requestOf (i : Instr) : Option Mem :=
  match i with
  | .dpf _ a _ => some { want := .read, size := 81, hint := 0, base := a, kind := .load, once := true, disp := fun _ _ => 0 }
  | .waitw _ false _ a _ => some { want := .read, size := 3, base := a, kind := .load, once := true, disp := fun _ _ => 0 }
  | _ => memOf i

/-! ### Where an access goes -/

/-- At homes that the core reaches itself, or at an owner through its tracker (R399): the owner, export and
offset of its first peer tryte, and its places one by one where they do not follow on from there. -/
inductive Route where
  | here (ks : List (Nat × Bool))
  | peer (owner exp off : Nat) (split : List Place)
  deriving DecidableEq, Repr

def isPeer : Place → Bool
  | .peer _ _ _ => true
  | .home _ _ => false

/-- The request that takes these places, the first peer one naming the owner; none where no place is a peer's. An
access that lies partly elsewhere is served as a whole at that owner (log 30). -/
def requestFor (ps : List Place) : Option (Nat × Nat × Nat × List Place) :=
  match ps.find? isPeer with
  | some (.peer o e f) =>
    some (o, e, f, if ps = (List.range ps.length).map (fun i => Place.peer o e (f + i)) then [] else ps)
  | _ => none

/-- Translation and permissions of an access, the owner's among them (R253, R370, R371, R399, R400): its home keys,
and where it goes. -/
def route (s : State) (ctx : Nat) (want : Want) (ptr : Int) (z : Nat) (via : Via) :
    Except Nat (List (Nat × Bool) × Route) := do
  let ks ← homeKeys s ctx want ptr z via
  let ps ← (List.range z).mapM fun (i : Nat) => translate s ctx want (ptr + (i : Int)) via
  match requestFor ps with
  | some (o, e, f, split) => return (ks, .peer o e f split)
  | none => return (ks, .here ks)

/-- One lane as the checks leave it, with its home keys. `waits` is a fetch that a retraining I/O link holds back (R364,
R392). -/
structure LaneAcc where
  lane : Nat
  ptr : Int
  target : Route
  data : Int
  expect : Int
  ks : List (Nat × Bool) := []
  waits : Bool := false
  deriving Repr

def LaneAcc.keys (x : LaneAcc) : List Nat := x.ks.map Prod.fst

/-- The checks of R253 for one lane, in order. -/
def checkLane (w : Word_) (m : Mem) (l : Nat) : Except FaultInfo LaneAcc :=
  let base := w.st.areg m.base
  let d := m.disp w.st l
  match checkPtr base d false m.size with
  | .error c => .error (addrFault base d l c)
  | .ok p =>
    match route w.s (w.s.weaveOf w.st).ctx m.want p m.size (.core w.st.core) with
    | .error c => .error (addrFault base d l c)
    | .ok (ks, r) => .ok { lane := l, ptr := p, target := r, data := m.data w.st l, expect := m.expect w.st l, ks }

/-- What a lane whose address has passed meets next: the check code of what it reads (R366). A plain load that hits in
the data cache needs no home (R359, R360, R401). -/
def checkCode (w : Word_) (m : Mem) (x : LaneAcc) : Except FaultInfo LaneAcc :=
  if m.kind = .load ∧ m.hint ≠ 3 ∧ (residentFor w.s w.st.core w.k m.hint x.keys).isSome then .ok { x with target := .here x.ks }
  else if brokenAt w.s x.keys then .error { code := 7, lane := x.lane, addr := some x.ptr }
  else .ok { x with waits := tierWaits w.s x.keys }

def isHere (x : LaneAcc) : Bool :=
  match x.target with
  | .here _ => true
  | .peer .. => false

/-- The way that a lane takes after lanes below it: that of one that names its location, an atomic's lanes or an acquire's
in one request (R119, R263, R265). -/
def joinLane (below : List LaneAcc) (x : LaneAcc) : LaneAcc :=
  match below.find? fun y => y.keys == x.keys with
  | some y => { x with target := if isHere y then .here x.ks else y.target }
  | none => x

/-- Do two lanes' accesses share a home tryte? -/
def meets (x y : LaneAcc) : Bool := x.keys.any y.keys.contains

/-- Lanes in groups that shared trytes tie together, directly or through other lanes, and one more lane. -/
def tieLane (gs : List (List LaneAcc)) (x : LaneAcc) : List (List LaneAcc) :=
  ((gs.filter fun g => g.any (meets x)).flatten ++ [x]) :: gs.filter fun g => !g.any (meets x)

/-- The way that a store's lane takes: where a lane that it is tied to goes to an owner, to the owner of the lowest such
lane, so that all of them act there in ascending lane order (R103, R254, R274). -/
def joinStore (gs : List (List LaneAcc)) (ls : List LaneAcc) (x : LaneAcc) : LaneAcc :=
  let tie := ((gs.find? fun g => g.any (·.lane == x.lane)).getD []).map (·.lane)
  let first : Option Route := (ls.find? fun y => !isHere y && tie.contains y.lane).map (·.target)
  match first, x.target with
  | some (.peer o e f _), .peer o' _ _ _ => if o = o' then x else { x with target := .peer o e f (x.ks.map fun k => .home k.1 k.2) }
  | some (.peer o e f _), .here _ => { x with target := .peer o e f (x.ks.map fun k => .home k.1 k.2) }
  | _, _ => x

/-- The ways of a word's lanes; plain loads need no order, and stores that all act at issue act in theirs. -/
def joinLanes (m : Mem) (ls : List LaneAcc) : List LaneAcc :=
  if m.kind = .store then (if ls.all isHere then ls else ls.map (joinStore (ls.foldl tieLane []) ls))
  else if m.kind = .load ∧ m.acquire.isNone then ls
  else ls.foldl (fun ys x => ys ++ [joinLane ys x]) []

/-- Lanes with those of one location next to one another, in the order in which the locations come first. -/
def byLocation : Nat → List LaneAcc → List LaneAcc
  | 0, _ => []
  | _, [] => []
  | fuel + 1, x :: xs =>
    x :: xs.filter (fun y => y.keys == x.keys) ++ byLocation fuel (xs.filter fun y => y.keys != x.keys)

/-- The order in which a word's lanes act: ascending (R103), and an atomic's lanes of one location with no other write
between them (R119). -/
def actOrder (m : Mem) (ls : List LaneAcc) : List LaneAcc := if m.kind = .atomic then byLocation ls.length ls else ls

/-- Every active lane, in ascending order: the lowest lane whose address fails gives the fault (R253), and then the lowest
whose data cannot be read. -/
def checkLanes (w : Word_) (m : Mem) : Except FaultInfo (List LaneAcc) := do
  let xs ← (if m.once then w.act.take 1 else w.act).mapM (checkLane w m)
  return joinLanes m (← xs.mapM (checkCode w m))

/-- The translations that a word which stops has made, those of its lanes up to the first whose checks fail, have read
tables and filled the TLBs (R253, R361, R372). -/
def triedLanes (w : Word_) (m : Mem) : State :=
  let ls := if m.once then w.act.take 1 else w.act
  let n := ((ls.findIdx? fun l => !(checkLane w m l).toBool).map (· + 1)).getD ls.length
  (ls.take n).foldl (fun s l => match checkPtr (w.st.areg m.base) (m.disp w.st l) false m.size with
    | .ok p => fillRun s (.core w.st.core) (w.s.weaveOf w.st).ctx p m.size
    | .error _ => s) w.s

/-- The pages of the lanes' addresses enter the TLBs (R372). -/
def fillLanes (w : Word_) (m : Mem) (ls : List LaneAcc) : Word_ :=
  { w with s := ls.foldl (fun s x => fillRun s (.core w.st.core) (w.s.weaveOf w.st).ctx x.ptr m.size) w.s }

/-! ### The act at the home -/

/-- One lane's access at its home, for a strand of a core (R254, R263). -/
def perform (s : State) (core k : Nat) (m : Mem) (ks : List (Nat × Bool)) (data expect : Int) : State × Int :=
  let keys := ks.map Prod.fst
  match m.kind with
  | .load =>
    let r := if m.hint = 3 then homeRead s core k keys else cachedRead s core k m.hint keys
    (r.1, ofTrytes r.2)
  | .store =>
    let xs := toTrytes m.size data
    (cachedWrite (writeKeys s ks xs) core keys xs, 0)
  | .atomic =>
    let r := homeRead s core k keys
    let o := ofTrytes r.2
    match m.rmw o data expect with
    | none => (r.1, o)
    | some n =>
      let xs := toTrytes m.size n
      (cachedWrite (writeKeys r.1 ks xs) core keys xs, o)

/-! ### Acquires (R111, R112, R360) -/

/-- The home lines at which a core's loads may find a tryte that a region binds: by the tables, and by entries that its TLBs
still hold (R107, R112, R372). Its page need not be one that this context may read. -/
def boundLines (s : State) (core ctx : Nat) (p : Int) : List Nat :=
  match s.contexts.get? ctx with
  | none => []
  | some c =>
    let kept := (tlbOf s (.core core)).filter fun e => e.ctx == ctx && e.page == pageOf e.leaf.big p
    (kept.map (·.leaf) ++ (walk s (ctx / 256) c.root p).toOption.toList).filterMap fun l =>
      [Want.read, .write, .exec].findSome? fun want =>
        ((placeOf s ctx c want l p).bind (placeKey s want)).toOption.map fun k => lineOf k.1

/-- Does a cached line hold a tryte of a region? -/
def inBound (s : State) (core ctx : Nat) (b : Binding) (line : Nat) : Bool :=
  (List.range b.len).any fun (i : Nat) => (boundLines s core ctx (b.base + (i : Int))).contains line

/-- The bindings in force on the objects that an access of this size at a pointer touches (R108). Objects are words
(R106): that an atom of a tryte acts on the word it lies in, and one of a pair on both of its words, is DEDUCED
(log 85). -/
def boundTo (s : State) (ctx : Nat) (p : Int) (size : Nat) : List Binding :=
  ((s.contexts.get? ctx).map fun c =>
    c.bindings.filter fun b => decide (b.obj < p + size) && decide (p < b.obj + 3)).getD []

/-- An acquire (R111): .all discards every line of the core's data cache, the plain form the lines that fall in
the regions that were bound to its objects at its issue (R108, R112, R360). -/
def acquire (s : State) (core ctx : Nat) (all : Bool) (bs : List Binding) : State :=
  if all then dropAll s core
  else if bs.isEmpty then s else dropLines s core fun line => bs.any fun b => inBound s core ctx b line

/-- What follows the last lane of a word: registers, then the acquire. -/
def settleMem (s : State) (k : Nat) (m : Mem) (outs : List (Nat × Int)) (bs : List Binding) : State :=
  let s1 := s.modStrand k fun st => outs.foldl (fun st o => m.put st o.1 o.2) st
  match m.acquire, s1.strands.get? k with
  | some all, some st => acquire s1 st.core (s1.weaveOf st).ctx all bs
  | _, _ => s1

/-! ### Peer requests (R393, R401) -/

def addPacket (s : State) (p : Packet) : State :=
  { s with packets := s.packets.put s.nextId p, nextId := s.nextId + 1 }

/-- Number a requester's next request to an owner (R401). -/
def takeSeq (s : State) (requester owner : Nat) : State × Nat :=
  let key := 8 * requester + owner
  let n := (s.seqs.get? key).getD 0
  ({ s with seqs := s.seqs.put key ((n + 1) % 65536) }, n)

/-- A core's requester number (R393), with its die. -/
def coreRequester (core : Nat) : Nat := 128 * (core / 64) + core % 64

def packetType : AccKind → PktType
  | .load => .read
  | .store => .write
  | .atomic => .atomic

/-- Beats of a packet with a number of payload bytes (R393). -/
def beatsFor (n : Nat) : Nat := if n ≤ 32 then 1 else 1 + (n - 32 + 61) / 62

/-- A request packet for an access. To the requester's own die it goes through the slath and stands at
its destination at once (R399). A load-store unit sends the operands that a replay entry holds (R327). -/
def requestPacket (requester : Nat) (a : Acc) : Packet :=
  let die := requester / 128
  let (o, e, f) := a.peer.getD (die, 0, 0)
  let payload : List Int := match a.kind with
    | .load => []
    | .store => toTrytes a.size a.data
    | .atomic => toTrytes a.size a.data ++ toTrytes a.size a.expect
  { type := packetType a.kind, src := die, dst := o, requester, seq := a.seq, export_ := e, offset := f,
    w0 := a.w0, w1 := a.w1, payload, size := a.size, split := a.split,
    beats := if a.eng.isSome && a.kind == .store && !a.once then 3 else beatsFor (streamLength payload.length),
    serves := a.group, at_ := die }

/-- Is an access a lane's acquire (R265)? -/
def acquires (a : Acc) : Bool := ((memOf a.i).bind (·.acquire)).isSome

/-- Accesses that share one request: the lanes of a word's atomic at one location (R119), those of an acquire on
one object (R265), else one. A location is its home trytes, by whatever leaf or export a lane names it. -/
def sameRequest (a b : Acc) : Bool :=
  a.group == b.group &&
    (a.lane == b.lane || (a.eng.isNone && (a.kind == .atomic || acquires a) && a.keys == b.keys && a.peer.isSome && b.peer.isSome))

/-- The requester and owner of a peer access. -/
def routeOf (s : State) (a : Acc) : Option (Nat × Nat) :=
  match a.peer, (a.eng.or a.prefetch).or ((s.strands.get? a.strand).map fun st => coreRequester st.core) with
  | some p, some r => some (r, p.1)
  | _, _ => none

def isSent : AccPhase → Bool
  | .sent => true
  | _ => false

/-- Requests of a requester at an owner that hold a permit (R401). -/
def permitsHeld (s : State) (requester owner : Nat) : Nat :=
  (((s.accs.filter fun a => isSent a.phase && routeOf s a == some (requester, owner)).map (·.seq)).eraseDups).length

/-- Does an access wait for its refused request to go out again? -/
def isRefused : AccPhase → Bool
  | .refused _ => true
  | _ => false

/-- The operations that wait on a refused request of an engine: its own, and those whose requests wait behind it (R320,
R402). -/
def heldUp (s : State) (requester owner : Nat) : List Nat :=
  let mine := s.accs.filter fun a => a.eng.isSome && routeOf s a == some (requester, owner)
  if mine.any fun a => isRefused a.phase then
    ((mine.filter fun a => isRefused a.phase || a.phase == .ready).map (·.group)).eraseDups
  else []

/-- Send an access and those that share its request. The operations that a refused request has held up are so no longer as
it goes out again (R320). -/
def sendAcc (s : State) (requester : Nat) (a : Acc) : State :=
  let owner := (a.peer.map fun p => p.1).getD 0
  let r : State × Nat := match a.phase with
    | .refused _ =>
      ((heldUp s requester owner).foldl (fun s n => s.modOp n fun o => { o with movedAt := (counter s o.core).toNat }) s,
       a.seq)
    | _ => takeSeq s requester owner
  let (s1, n) := r
  let s2 := { s1 with accs := s1.accs.map fun b => if sameRequest a b then { b with seq := n, phase := .sent } else b }
  addPacket s2 (requestPacket requester { a with seq := n })

/-- The next request that a requester may send to an owner: refused ones first, in sequence order, and
nothing while one waits for its slot-ready (R323, R402, R403). -/
def nextRequest (s : State) (requester owner : Nat) : Option Acc :=
  let mine := s.accs.filter fun a => routeOf s a == some (requester, owner)
  let refused := mine.filter fun a => isRefused a.phase
  if refused.any (fun a => a.phase == .refused true) then none
  else
    match leastBy (fun (a b : Acc) => decide ((a.seq + 65536 - b.seq) % 65536 = 0 ∨ 32768 ≤ (a.seq + 65536 - b.seq) % 65536))
        refused with
    | some a => some a
    | none => mine.find? fun a => a.phase == .ready

/-- Send requests for as long as there are permits: 27 for each owner die (R401). -/
def pump (s : State) (requester owner : Nat) : Nat → State
  | 0 => s
  | fuel + 1 =>
    if 27 ≤ permitsHeld s requester owner then s
    else
      match nextRequest s requester owner with
      | none => s
      | some a => pump (sendAcc s requester a) requester owner fuel

def sendRequests (s : State) (requester owner : Nat) : State := pump s requester owner 27

/-- The accesses of a group, in lane order. -/
def groupOf (s : State) (g : Nat) : List Acc := s.accs.filter fun a => a.group == g

/-- A strand's word has these accesses in progress: they are sent, as far as there are permits. -/
def beginGroup (s : State) (k core g : Nat) (as : List Acc) : State :=
  let s0 := { s with accs := s.accs ++ as }
  let s1 := s0.modStrand k fun st => { st with pick := st.pick.map fun p => { p with busy := some g } }
  (List.range 8).foldl (fun s o => sendRequests s (coreRequester core) o) s1

/-- Start a word whose lanes do not all have their home at hand: lanes at hand act now, the others are
sent, lanes of one atomic location as one request (R119). -/
def startGroup (w : Word_) (i : Instr) (m : Mem) (ls : List LaneAcc) : State :=
  let g := w.s.nextId
  let p := w.st.pick
  let w0 := ((p.bind fun p => p.words[w.pos]?)).getD 0
  let w1 := if wordCount i = 2 then ((p.bind fun p => p.words[w.pos + 1]?)).getD 0 else 0
  let s0 := { w.s with nextId := g + 1 }
  let step (r : State × List Acc) (x : LaneAcc) : State × List Acc :=
    let a : Acc := { group := g, strand := w.k, lane := x.lane, once := m.once, i, w0, w1, addr := x.ptr,
                     kind := m.kind, size := m.size, data := x.data, expect := x.expect,
                     bound := if m.acquire.isSome then boundTo w.s (w.s.weaveOf w.st).ctx x.ptr m.size else [] }
    match x.target with
    | .here ks =>
      let (s1, v) := perform r.1 w.st.core w.k m ks x.data x.expect
      (s1, r.2 ++ [{ a with phase := .done, result := [v] }])
    | .peer o e f split => (r.1, r.2 ++ [{ a with peer := some (o, e, f), split, keys := x.keys, phase := .ready }])
  let r := (actOrder m ls).foldl step (s0, [])
  beginGroup r.1 w.k w.st.core g (ls.flatMap fun x => r.2.filter (·.lane == x.lane))

/-- A word all of whose lanes act at issue (R103, R119). -/
def performLanes (w : Word_) (m : Mem) (ls : List LaneAcc) : State × List (Nat × Int) :=
  (actOrder m ls).foldl (fun (r : State × List (Nat × Int)) x =>
    match x.target with
    | .here ks =>
      let (s1, v) := perform r.1 w.st.core w.k m ks x.data x.expect
      (s1, r.2 ++ [(x.lane, v)])
    | .peer .. => r) (w.s, [])

/-- The bindings that a word's acquire gains by: those of every lane's object at its issue (R108, R112). -/
def boundNow (w : Word_) (m : Mem) (ls : List LaneAcc) : List Binding :=
  if m.acquire.isSome then ls.flatMap fun x => boundTo w.s (w.s.weaveOf w.st).ctx x.ptr m.size else []

/-- A DEVICE-SPACE WORD (R253, R254): checks, then every lane's act. -/
def memWord (i : Instr) (s : State) : Out :=
  match memOf i with
  | none => .next s
  | some m =>
    issueDid i s fun w =>
      match checkLanes w m with
      | .error f => .faultIn (triedLanes w m) f
      | .ok ls =>
        if ls.any (·.waits) then .stay w.s
        else if ls.all isHere then
          let r := performLanes (fillLanes w m ls) m ls
          .done (settleMem r.1 w.k m r.2 (boundNow w m ls))
        else .stay (startGroup (fillLanes w m ls) i m ls)

/-! ### Finishing a word in progress -/

def accDone (a : Acc) : Bool :=
  match a.phase with
  | .done | .failed _ => true
  | _ => false

def accFailed (a : Acc) : Option (Acc × Nat) :=
  match a.phase with
  | .failed c => some (a, c)
  | _ => none

/-- The fault of a word in progress, or of a replay entry (R253, R335): the lowest failing lane's. The
word stays at its position. -/
def groupFault (s : State) (k : Nat) (g : Nat) (a : Acc) (code : Nat) : State :=
  match s.strands.get? k with
  | none => s
  | some st =>
    let pos := (st.pick.map fun p => p.pos + 1).getD 0
    let s1 := { s with accs := s.accs.filter fun a => a.group != g }
    let s2 := s1.modStrand k fun st => { st with pick := st.pick.map fun p => { p with busy := none } }
    let wv := s.weaveOf st
    raiseFault s2 wv.ctx (some k) none
      { code, pos, lane := a.lane, addr := some a.addr }

/-- The word is done: its accesses go, what it wrote is valid, and its pick goes on. -/
def closeGroup (s : State) (k g : Nat) (i : Instr) (lanes : List Nat) : State :=
  let s1 := { s with accs := s.accs.filter fun a => a.group != g }
  let s2 := s1.modStrand k fun st => clearBad st lanes (writtenBy i) (writesC0 i)
  advance s2 k i

/-- A replay entry's group is done: its register is written, and valid, and the entry goes (R47, R334). -/
def closeReplay (s : State) (k g : Nat) (i : Instr) (lanes : List Nat) : State :=
  { (s.modStrand k fun st => { clearBad st lanes (writtenBy i) false with replay := st.replay.drop 1 }) with
    accs := s.accs.filter fun a => a.group != g }

/-- Finish a device-space group once every lane has its answer. -/
def finishMem (s : State) (g : Nat) : State :=
  let as := groupOf s g
  match as.head? with
  | none => s
  | some a0 =>
    if !as.all accDone then s
    else
      match as.findSome? accFailed with
      | some (a, c) => groupFault s a.strand g a c
      | none =>
        match memOf a0.i with
        | none => s
        | some m =>
          let outs := as.map fun a => (a.lane, a.result.headD 0)
          let s1 := settleMem s a0.strand m outs (as.flatMap (·.bound))
          (if a0.replay then closeReplay else closeGroup) s1 a0.strand g a0.i (as.map (·.lane))

end Sys2Proof.Machine
end

