-- ==== Sys2Proof/Machine/Shell.lean ====
section
/-!
DEFINITION. The shell between binary host memory and ternary elements: conversion kinds (R88), ranges
and rounding (R89 to R91).
-/
namespace Sys2Proof.Machine

/-- Index of a kind, which is also the detail of a range trap (R88). -/
def kindIndex : Kind → Nat
  | .packed => 0 | .i8 => 1 | .i16 => 2 | .i32 => 3 | .n8 => 4 | .e16 => 5 | .g16 => 6 | .e32 => 7

/-- Binary bytes of an element (R88). -/
def kindBytes (k : Kind) (t : EType) : Nat :=
  match k with
  | .packed => 2 * trytesOf t
  | .i8 | .n8 => 1
  | .i16 | .e16 | .g16 => 2
  | .i32 | .e32 => 4

/-- Alignment in host space (R98): a .k element at a multiple of 2. -/
def kindAlign (k : Kind) (t : EType) : Nat := if k = .packed then 2 else kindBytes k t

/-- An element converted: its value, a range exception with the saturated value, or the index of the
first byte that is invalid. -/
inductive Conv (α : Type) where
  | ok (x : α)
  | range (sat : α)
  | bad (byte : Nat)
  deriving DecidableEq, Repr

/-! ### Integers (R89) -/

/-- Ends of an integer kind. -/
def kindRange : Kind → Int × Int
  | .i8 => (-128, 127)
  | .i16 => (-32768, 32767)
  | .i32 => (-2147483648, 2147483647)
  | _ => (0, 255)

def clampInto (lo hi x : Int) : Conv Int :=
  if x < lo then .range lo else if hi < x then .range hi else .ok x

/-! ### Binary floats (R90, R91) -/

/-- Exponent bits and fraction bits. -/
def floatKind : Kind → Nat × Nat
  | .e16 => (5, 10)
  | .g16 => (8, 7)
  | _ => (8, 23)

/-- The smallest exponent of a significand bit. -/
def qmin (k : Kind) : Int := 2 - 2 ^ ((floatKind k).1 - 1) - (floatKind k).2

/-- A binary value: finite as an exact number, an infinity, or a NaN. -/
inductive BinVal where
  | fin (x : Exact)
  | inf (s : Int)
  | nan
  deriving DecidableEq, Repr

def binDecode (k : Kind) (u : Nat) : BinVal :=
  let (eb, mb) := floatKind k
  let f := u % 2 ^ mb
  let e := u / 2 ^ mb % 2 ^ eb
  let s : Int := if u / 2 ^ (eb + mb) = 1 then -1 else 1
  if e = 2 ^ eb - 1 then (if f = 0 then .inf s else .nan)
  else
    let m : Nat := if e = 0 then f else f + 2 ^ mb
    let q : Int := qmin k + (if e = 0 then 0 else (e : Int) - 1)
    if 0 ≤ q then .fin ⟨s * m * 2 ^ q.toNat, 1, 0⟩ else .fin ⟨s * m, 2 ^ (-q).toNat, 0⟩

/-- floor(log2(a / b)) of positive numbers. -/
def ratLog2 (a b : Nat) : Int :=
  if b ≤ a then Nat.log2 (a / b) else -((Nat.log2 ((b + a - 1) / a - 1) : Int) + 1)

/-- nearest(a / b · 2^-q), ties toward zero. -/
def scaleNearest (a b : Nat) (q : Int) : Nat :=
  if 0 ≤ q then (nearestDiv a (b * 2 ^ q.toNat)).toNat else (nearestDiv (a * 2 ^ (-q).toNat) b).toNat

/-- A finite ternary value as a binary encoding (R91). -/
def binEncode (k : Kind) (m e : Int) : Conv Nat :=
  let (eb, mb) := floatKind k
  let sign : Nat := if m < 0 then 2 ^ (eb + mb) else 0
  if m = 0 then .ok 0
  else
    let (a, b) : Nat × Nat := if 0 ≤ e then (m.natAbs * 3 ^ e.toNat, 1) else (m.natAbs, 3 ^ (-e).toNat)
    let q := max (qmin k) (ratLog2 a b - mb)
    let s := scaleNearest a b q
    let bits : Nat := (q - qmin k).toNat * 2 ^ mb + s
    let top : Nat := (2 ^ eb - 1) * 2 ^ mb - 1
    if top < bits then .range (sign + top) else if bits = 0 then .ok 0 else .ok (sign + bits)

/-! ### Elements -/

def asFloat : EType → FType
  | .f9 => .f9
  | _ => .f27

/-- The register value that an element's bytes make. -/
def fromHost (k : Kind) (t : EType) (bs : List Nat) : Conv Int :=
  match k with
  | .packed =>
    let cut := if trytesOf t = 1 then 2 else 6
    let parts := chunks cut bs.length bs
    let vals := parts.map fun p => if trytesOf t = 1 then bytesTryte p else bytesWord p
    match vals.findIdx? (·.isNone) with
    | some i => .bad (cut * i)
    | none => .ok (pairOf ((vals.getD 0 none).getD 0) ((vals.getD 1 none).getD 0))
  | .e16 | .g16 | .e32 =>
    let f := fmtOf (asFloat t)
    match binDecode k (leNat bs) with
    | .nan => .ok (canonNan f)
    | .inf s => .ok (encInf f s)
    | .fin x =>
      let (w, o) := trunc x f true
      if o = 0 then .ok w else .range w
  | .n8 => .ok (leNat bs)
  | _ =>
    let x := leInt bs
    if t = .t9 then clampInto (-half 9) (half 9) x else .ok x

/-- The bytes of a register value. -/
def toHost (k : Kind) (t : EType) (x : Int) : Conv (List Nat) :=
  let n := kindBytes k t
  match k with
  | .packed =>
    match t with
    | .t9 | .f9 => .ok (tryteBytes (wrapVal x 9))
    | .p => .ok (wordBytes (loWord x) ++ wordBytes (hiWord x))
    | _ => .ok (wordBytes x)
  | .e16 | .g16 | .e32 =>
    let f := fmtOf (asFloat t)
    let (eb, mb) := floatKind k
    let topExp : Nat := (2 ^ eb - 1) * 2 ^ mb
    match fdecode f (if t = .f9 then wrapVal x 9 else x) with
    | .nan _ _ => .ok (leBytes n (topExp + 2 ^ (mb - 1)))
    | .inf s => .ok (leBytes n (topExp + (if s < 0 then 2 ^ (eb + mb) else 0)))
    | .fin m e =>
      match binEncode k m e with
      | .ok u => .ok (leBytes n u)
      | .range u => .range (leBytes n u)
      | .bad i => .bad i
  | _ =>
    let v := if t = .t9 then wrapVal x 9 else x
    let (lo, hi) := kindRange k
    let enc (y : Int) : List Nat := leBytes n (y % 2 ^ (8 * n)).toNat
    match clampInto lo hi v with
    | .ok y => .ok (enc y)
    | .range y => .range (enc y)
    | .bad i => .bad i

end Sys2Proof.Machine
end

