-- ==== Sys2Proof/Machine/Tiles.lean ====
section
/-!
DEFINITION. Stored tiles and their descriptors (R128 to R132), operand maps (R147, R148), tile handles
(R149), and compressed scratchpad regions (R141, R142).
-/
namespace Sys2Proof.Machine

/-! ### Descriptors (R128 to R131) -/

structure Desc where
  fmt : Nat
  spectral : Bool
  /-- log3 of the block size; 0 for none. -/
  block : Nat
  scale : Int
  half_ : Bool
  rows : Nat
  cols : Nat
  deriving DecidableEq, Repr

/-- Trits of an element of a format, and whether it is complex. -/
def fmtTrits (f : Nat) : Nat := [1, 3, 9, 27, 9, 27, 9, 27].getD f 27
def fmtComplex (f : Nat) : Bool := decide (6 ≤ f)
def Desc.planes (d : Desc) : Nat := if fmtComplex d.fmt then 2 else 1
/-- Block size B and bin count K (R132). -/
def Desc.size (d : Desc) : Nat := 3 ^ d.block
def Desc.bins (d : Desc) : Nat := if d.half_ then (3 ^ d.block + 1) / 2 else 3 ^ d.block
/-- Elements of a word, words of a plane, words of the tile (R129). -/
def perWord (f : Nat) : Nat := 27 / fmtTrits f
def Desc.planeWords (d : Desc) : Nat := (d.rows * d.cols + perWord d.fmt - 1) / perWord d.fmt
def Desc.words (d : Desc) : Nat := 1 + d.planes * d.planeWords

/-- The fields of a descriptor word, and the checks of R130: the fault's code where one fails. -/
def checkDesc (w : Int) : Except Nat Desc :=
  let fmt := idx w 24 3
  let dom := idx w 22 2
  let blk := idx w 20 2
  let hf := trit 27 w 14
  if 7 < fmt ∨ 1 < dom ∨ 4 < blk ∨ hf = -1 ∨ sgd w 0 5 ≠ 0 then .error 12
  else
    let d : Desc := { fmt, spectral := dom == 1, block := if blk = 0 then 0 else blk + 1, scale := sgd w 15 5,
                      half_ := hf == 1, rows := idx w 8 6 + 1, cols := idx w 5 3 + 1 }
    if d.spectral ∧ (¬ fmtComplex fmt ∨ blk = 0) then .error 8
    else if d.half_ ∧ ¬ d.spectral then .error 8
    else if d.spectral ∧ d.rows % d.bins ≠ 0 then .error 8
    else .ok d

/-- A descriptor word from its fields. -/
def descWord (d : Desc) : Int :=
  ((d.fmt : Int) - 13) * 3 ^ 24 + ((if d.spectral then 1 else 0) - 4) * 3 ^ 22 +
    (((if d.block = 0 then 0 else d.block - 1 : Nat) : Int) - 4) * 3 ^ 20 + d.scale * 3 ^ 15 +
    (if d.half_ then 3 ^ 14 else 0) + (((d.rows - 1 : Nat) : Int) - 364) * 3 ^ 8 +
    (((d.cols - 1 : Nat) : Int) - 13) * 3 ^ 5

/-- Element `e` of a plane whose words are given (R129). -/
def planeElem (f : Nat) (ws : List Int) (e : Nat) : Int :=
  let m := perWord f
  if m = 1 then ws.getD e 0 else elem (fmtTrits f) (ws.getD (e / m) 0) (e % m)
/-- The words of a plane of elements. -/
def packPlane (f : Nat) (xs : List Int) : List Int :=
  (chunks (perWord f) xs.length xs).map (packElems (fmtTrits f))

/-! ### Operand maps (R147, R148) -/

structure OpMap where
  base : Nat
  rowPitch : Nat
  rot : Nat
  tilePitch : Nat
  deriving DecidableEq, Repr

/-- The map a uniform pair holds; none where a field breaks R148. A tile pitch above the values of R147 breaks no rule of R148
by itself: the words that it reaches do (DESIGN CHOICE, log 92). -/
def readMap (lo hi : Int) : Option OpMap :=
  let base := sgd lo 15 12
  let rp := sgd lo 7 8
  let rot := idx lo 4 3
  let tp := sgd hi 15 12
  if base < 0 ∨ tp < 0 ∨ rp ≤ 0 ∨ (rot ≠ 0 ∧ rp < 27) ∨ sgd lo 0 4 ≠ 0 ∨ sgd hi 0 15 ≠ 0 then none
  else some ⟨base.toNat, rp.toNat, rot, tp.toNat⟩

/-- The word of column `w`, row `r`, tile `t`, counted from the window's start (R148). -/
def OpMap.word (m : OpMap) (t r w : Nat) : Nat :=
  m.base + t * m.tilePitch + r * m.rowPitch + (w + m.rot * r) % 27

/-! ### Tile handles (R149) -/

structure Handle where
  fmt : Nat
  dom : Nat
  block : Nat
  half_ : Int
  reserved : Int
  ptr : Int
  deriving DecidableEq, Repr

def readHandle (x : Int) : Handle :=
  { fmt := field 54 x 51 3, dom := field 54 x 49 2, block := field 54 x 47 2, half_ := sfield 54 x 46 1,
    reserved := sfield 54 x 45 1, ptr := sfield 54 x 0 45 }

/-- The handle of a descriptor at a pointer. -/
def makeHandle (w ptr : Int) : Int :=
  (sgd w 24 3) * 3 ^ 51 + (sgd w 22 2) * 3 ^ 49 + (sgd w 20 2) * 3 ^ 47 + (trit 27 w 14) * 3 ^ 46 + ptr

/-- Does a descriptor word agree with a handle in format, domain, block and half (R150)? -/
def handleFits (h : Handle) (w : Int) : Bool :=
  h.fmt == idx w 24 3 && h.dom == idx w 22 2 && h.block == idx w 20 2 && h.half_ == trit 27 w 14

/-! ### Compressed regions (R141, R142) -/

/-- An offset table entry: capacity, length, offset; none for a negative field. -/
def readOffset (w : Int) : Option (Nat × Nat × Nat) :=
  let c := sgd w 22 5
  let l := sgd w 17 5
  let o := sgd w 0 17
  if c < 0 ∨ l < 0 ∨ o < 0 then none else some (c.toNat, l.toNat, o.toNat)

/-- Where a window word stands with respect to a slot. -/
inductive Where_ where
  | view (tile word : Nat)
  | table
  | data
  | outside
  deriving DecidableEq, Repr

/-- Highest data word that the table's entries reach (R259), as the table's words stand at each use: R259 does not say that
the entries read at configure fix it (DESIGN CHOICE, log 112). -/
def dataEnd (scratch : Cells) (s : Slot) : Nat :=
  (List.range s.tiles).foldl (fun m t =>
    match readOffset (scratch.get (s.table + t)) with
    | some (c, _, o) => max m (o + c)
    | none => m) 0

def Slot.where_ (s : Slot) (scratch : Cells) (j : Nat) : Where_ :=
  if s.view ≤ j ∧ j < s.view + 27 * s.tiles then .view ((j - s.view) / 27) ((j - s.view) % 27)
  else if s.table ≤ j ∧ j < s.table + s.tiles then .table
  else if s.base ≤ j ∧ j < s.base + dataEnd scratch s then .data
  else .outside

/-- The slot whose view holds a word, with the tile and the word within it. -/
def viewOf (slots : List (Option Slot)) (j : Nat) : Option (Slot × Nat × Nat) :=
  slots.findSome? fun o => o.bind fun s =>
    if s.view ≤ j ∧ j < s.view + 27 * s.tiles then some (s, (j - s.view) / 27, (j - s.view) % 27) else none

/-- Does a word belong to any range of a configured slot? -/
def inRegion (slots : List (Option Slot)) (scratch : Cells) (j : Nat) : Bool :=
  slots.any fun o => match o with
    | some s => s.where_ scratch j != .outside
    | none => false

/-- The 27 words of a region's tile as a read port delivers them (R142); none for the data-integrity
fault. -/
def regionTile (scratch : Cells) (s : Slot) (t : Nat) : Option (List Int) := do
  let (_, l, o) ← readOffset (scratch.get (s.table + t))
  let ts ← decodeLine (scratch.getRun (s.base + o) l)
  return (chunks 3 ts.length ts).map (packElems 9)

/-- A window word as a read port delivers it; none for the data-integrity fault. -/
def readWindow (scratch : Cells) (slots : List (Option Slot)) (j : Nat) : Option Int :=
  match viewOf slots j with
  | some (s, t, k) => (regionTile scratch s t).map fun ws => ws.getD k 0
  | none => some (scratch.get j)

/-- The scratchpad words that a read of a window word takes: its own, or the entry and the encoded words of its
tile. -/
def windowWords (scratch : Cells) (slots : List (Option Slot)) (j : Nat) : List Nat :=
  match viewOf slots j with
  | some (s, t, _) =>
    match readOffset (scratch.get (s.table + t)) with
    | some (_, l, o) => (s.table + t) :: (List.range l).map fun i => s.base + o + i
    | none => [s.table + t]
  | none => [j]

/-- Does a read of a window word meet a check code that cannot be corrected (R432)? -/
def windowBroken (c : Cluster) (slots : List (Option Slot)) (j : Nat) : Bool :=
  !c.bad.isEmpty && (windowWords c.scratch slots j).any c.lostWord

/-- Scratchpad words with one trit in error are corrected as they are read, and each is counted (R432, R434). -/
def countScratch (s : State) (cl : Nat) (js : List Nat) : State :=
  countMany s (cl / 16) 3 ((s.cluster cl).bad.filter fun b => decide (b.2 < 2) && js.contains b.1).length

/-- A write port replaces one whole tile of a region and its length (R142); none where the encoded
length exceeds the capacity. An entry with a negative field, for which R142 names the fault of a read alone, refuses the
write in the same way (DESIGN CHOICE, log 93). -/
def writeTile (scratch : Cells) (s : Slot) (t : Nat) (ws : List Int) : Option Cells := do
  let w := scratch.get (s.table + t)
  let (c, _, o) ← readOffset w
  let enc := encodeLine (ws.flatMap wordTrytes)
  if c < enc.length then none
  else some ((scratch.putRun (s.base + o) enc).put (s.table + t) (setField 27 w 17 5 enc.length))

/-- An engine's write of words to a window: words in a view must make up whole tiles (R142), and the
rest are written plainly. None for the engine-error fault. -/
def writeWindow (scratch : Cells) (slots : List (Option Slot)) (xs : List (Nat × Int)) : Option Cells :=
  let plain := xs.filter fun x => (viewOf slots x.1).isNone
  let tiles := (xs.filterMap fun x => (viewOf slots x.1).map fun (s, t, _) => (s, t)).eraseDups
  let scratch1 := plain.foldl (fun c x => c.put x.1 x.2) scratch
  tiles.foldlM (init := scratch1) fun c (s, t) => do
    let ws ← (List.range 27).mapM fun k => (xs.reverse.find? fun x => x.1 == s.view + 27 * t + k).map Prod.snd
    writeTile c s t ws

end Sys2Proof.Machine
end

