-- ==== Sys2Proof/Machine/LoadStore.lean ====
section
/-!
DEFINITION. Loads, stores, host accesses, scratchpad accesses and cache maintenance (R254 to R258,
R272, R373): row 5 of the opcode map.
-/
namespace Sys2Proof.Machine

/-! ### Device space (R254, R255) -/

def execLdI (g : Guard) (t : EType) (d a : Nat) (imm : Int) (s : State) : Out := memWord (.ldI g t d a imm) s
def execLdL (g : Guard) (t : EType) (d a : Nat) (x : MemExt) (s : State) : Out := memWord (.ldL g t d a x) s
def execStI (g : Guard) (t : EType) (d a : Nat) (imm : Int) (s : State) : Out := memWord (.stI g t d a imm) s
def execStL (g : Guard) (t : EType) (d a : Nat) (x : MemExt) (s : State) : Out := memWord (.stL g t d a x) s
def execLduI (g : Guard) (t : EType) (d a : Nat) (imm : Int) (s : State) : Out := memWord (.lduI g t d a imm) s
def execLduL (g : Guard) (t : EType) (d a : Nat) (disp : Int) (s : State) : Out := memWord (.lduL g t d a disp) s
def execStuI (g : Guard) (t : EType) (d a : Nat) (imm : Int) (s : State) : Out := memWord (.stuI g t d a imm) s
def execStuL (g : Guard) (t : EType) (d a : Nat) (disp : Int) (s : State) : Out := memWord (.stuL g t d a disp) s

/-! ### Scratchpad (R99, R258) -/

/-- Write words of a cluster's scratchpad. -/
def writeScratch (s : State) (cl : Nat) (xs : List (Nat × Int)) : State :=
  let c := s.cluster cl
  let c' := { c with scratch := xs.foldl (fun m x => m.put x.1 x.2) c.scratch,
                     bad := c.bad.filter fun b => !xs.any fun x => x.1 == b.1 }
  noticeWrite (s.setCluster cl c') true (xs.map Prod.fst)

/-- The first window word of a lane's access: the sum is in range, and then the register's own value and every
word of the access lie in the window (R252, R253). -/
def windowAt (wv : Weave) (reg d : Int) (n lane : Nat) : Except FaultInfo Nat :=
  let bad (c : Nat) (a : Int) : Except FaultInfo Nat := .error { code := c, lane, addr := some (addrOf a) }
  match addAddr reg d with
  | none => .error { code := 6, lane, addr := some reg }
  | some p =>
    match windowIndex wv reg 1 with
    | .error c => bad c reg
    | .ok _ =>
      match windowIndex wv p n with
      | .error c => bad c p
      | .ok j => .ok j

/-- Displacement of a lane of lds and sts in words (R252). -/
def wordDisp (p : Bool) (x : Int) : Int := wordsOf p * x

/-- A window word as a lane's lds reads it (R258, R432). -/
def windowWord (cl : Cluster) (slots : List (Option Slot)) (l k : Nat) : Except FaultInfo Int :=
  match readWindow cl.scratch slots k, windowBroken cl slots k with
  | some x, false => .ok x
  | _, _ => .error { code := 7, lane := l, addr := some k }

/-- lds: every lane's address is checked and every lane's words are read before a register is written (R253, R258). -/
def ldsWord (i : Instr) (p : Bool) (d a : Nat) (s : State) (at_ : Strand → Nat → Int) : Out :=
  issue i s fun w => do
    let wv := w.s.weaveOf w.st
    let cl := w.s.cluster (clusterOf w.st.core)
    let js ← w.act.mapM fun l => (windowAt wv (w.st.areg a) (wordDisp p (at_ w.st l)) (wordsOf p) l).map fun j => (l, j)
    let xs ← js.mapM fun x => do
      let lo ← windowWord cl wv.slots x.1 x.2
      let hi ← if p then windowWord cl wv.slots x.1 (x.2 + 1) else .ok 0
      return (x.1, pairOf lo hi)
    let st := xs.foldl (fun st (x : Nat × Int) =>
      let t := st.thread x.1
      st.setThread x.1 (if p then t.vputPair d x.2 else t.vput d x.2)) w.st
    let read := js.flatMap fun x => (List.range (wordsOf p)).flatMap fun i => windowWords cl.scratch wv.slots (x.2 + i)
    return (countScratch w.s (clusterOf w.st.core) read).setStrand w.k st

/-- sts: in ascending lane order; a word of a configured region is protected (R258), and one with an error that cannot be
corrected faults (R432). -/
def stsWord (i : Instr) (p : Bool) (d a : Nat) (s : State) (at_ : Strand → Nat → Int) : Out :=
  issue i s fun w =>
    let wv := w.s.weaveOf w.st
    let cl := w.s.cluster (clusterOf w.st.core)
    let lane (l : Nat) : Except FaultInfo (List (Nat × Int)) := do
      let j ← windowAt wv (w.st.areg a) (wordDisp p (at_ w.st l)) (wordsOf p) l
      let t := w.st.thread l
      let xs := if p then [(j, t.vget d), (j + 1, t.vget (d + 1))] else [(j, t.vget d)]
      match xs.find? fun x => inRegion wv.slots cl.scratch x.1 with
      | some x => throw { code := 2, lane := l, addr := some x.1 }
      | none => return xs
    do
      let xss ← w.act.mapM fun l => (lane l).map fun xs => (l, xs)
      match xss.findSome? fun x => (x.2.find? fun y => cl.lostWord y.1).map fun y => (x.1, y.1) with
      | some (l, j) => throw { code := 7, lane := l, addr := some j }
      | none => return writeScratch w.s (clusterOf w.st.core) (xss.flatMap Prod.snd)

def execLdsI (g : Guard) (p : Bool) (d a : Nat) (imm : Int) (s : State) : Out :=
  ldsWord (.ldsI g p d a imm) p d a s fun _ l => imm + l
def execLdsL (g : Guard) (p : Bool) (d a : Nat) (x : MemExt) (s : State) : Out :=
  ldsWord (.ldsL g p d a x) p d a s fun st l => indexOf x.index st l + x.disp
def execStsI (g : Guard) (p : Bool) (d a : Nat) (imm : Int) (s : State) : Out :=
  stsWord (.stsI g p d a imm) p d a s fun _ l => imm + l
def execStsL (g : Guard) (p : Bool) (d a : Nat) (x : MemExt) (s : State) : Out :=
  stsWord (.stsL g p d a x) p d a s fun st l => indexOf x.index st l + x.disp

/-! ### Host space (R256, R257, R373) -/

structure HostMem where
  write : Bool
  kind : Kind
  type : EType
  sat : Bool
  reg : Nat
  base : Nat
  x : MemExt

def hostOf (i : Instr) : Option HostMem :=
  match i with
  | .ldh _ k t sat d a x => some ⟨false, k, t, sat, d, a, x⟩
  | .sth _ k t sat d a x => some ⟨true, k, t, sat, d, a, x⟩
  | _ => none

/-- Does the translation cache of a die grant an access to a byte? -/
def atsGrants (s : State) (die pasid : Nat) (write : Bool) (a : Nat) : Bool :=
  (s.die die).ats.any fun e =>
    e.pasid == pasid && decide (e.base ≤ a) && decide (a < e.base + e.size) && (if write then e.w else e.r)

/-- The PASID of a context's host space; PASID 0 gives none (R418). -/
def pasidOf (s : State) (ctx : Nat) : Option Nat :=
  ((s.contexts.get? ctx).bind (·.pasid)).bind fun p => if p = 0 then none else some p

/-- Is a run of host bytes translated, first byte and last? -/
def hostGranted (s : State) (ctx : Nat) (write : Bool) (a n : Nat) : Bool :=
  match pasidOf s ctx with
  | none => false
  | some p => atsGrants s (ctx / 256) p write a && atsGrants s (ctx / 256) p write (a + n - 1)

/-- Checks of R253 for a host access: range, selector, space, alignment, and the 64-bit range (R94);
a context without a PASID has no host space (R418). -/
def checkHost (w : Word_) (h : HostMem) (l : Nat) : Except FaultInfo (Nat × Int) :=
  let n := kindBytes h.kind h.type
  let base := w.st.areg h.base
  let d := n * (indexOf h.x.index w.st l + h.x.disp)
  match checkPtr base d true (kindAlign h.kind h.type) with
  | .error c => .error (addrFault base d l c)
  | .ok p =>
    if p < 0 ∨ 2 ^ 64 < p + n ∨ (pasidOf w.s (w.s.weaveOf w.st).ctx).isNone then
      .error { code := 1, lane := l, addr := some p }
    else .ok (l, p)

/-- Does a lane's range exception trap (R92)? -/
def rangeTraps (st : Strand) (sat : Bool) : Bool := !sat && st.mask.range && !st.mask.global

def hostReady (a : Acc) : Bool :=
  match a.phase with
  | .ready => true
  | _ => false

/-- The register effects of an ldh whose data is here: values, and lanes that trap (R92). -/
def ldhLanes (st : Strand) (h : HostMem) (as : List Acc) : Strand :=
  let convs := as.map fun a => (a.lane, fromHost h.kind h.type (a.result.map Int.toNat))
  let put (st : Strand) (l : Nat) (x : Int) := st.setThread l (vEput (st.thread l) h.type h.reg x)
  let st1 := convs.foldl (fun st (c : Nat × Conv Int) =>
    match c.2 with
    | .ok x => put st c.1 x
    | .range x => if rangeTraps st h.sat then st else put st c.1 x
    | .bad _ => st) st
  let hits := convs.filterMap fun c => match c.2 with | .range _ => some c.1 | _ => none
  if hits.isEmpty || !rangeTraps st h.sat then st1 else raiseTrap st1 (causeWord 3 (kindIndex h.kind)) hits

/-- The lanes whose register an ldh writes: all but those whose range exception traps (R92). -/
def ldhWritten (st : Strand) (h : HostMem) (as : List Acc) : List Nat :=
  as.filterMap fun a => match fromHost h.kind h.type (a.result.map Int.toNat) with
    | .range _ => if rangeTraps st h.sat then none else some a.lane
    | _ => some a.lane

/-- The bytes that an sth writes, lane by lane, and its trap. -/
def sthLanes (s : State) (k : Nat) (st : Strand) (h : HostMem) (as : List Acc) : State :=
  let convs := as.map fun a => (a, toHost h.kind h.type a.data)
  let s1 := convs.foldl (fun s (c : Acc × Conv (List Nat)) =>
    match c.2 with
    | .ok bs => writeHost s c.1.addr.toNat bs
    | .range bs => if rangeTraps st h.sat then s else writeHost s c.1.addr.toNat bs
    | .bad _ => s) s
  let hits := convs.filterMap fun c => match c.2 with | .range _ => some c.1.lane | _ => none
  if hits.isEmpty || !rangeTraps st h.sat then s1
  else s1.modStrand k fun st => raiseTrap st (causeWord 3 (kindIndex h.kind)) hits

/-- The host bytes that lanes of an ldh have read are captured in lane order (R437). -/
def captureLanes (s : State) (ctx : Nat) (as : List Acc) : State :=
  as.foldl (fun s a =>
    if a.kind = .load ∧ !a.result.isEmpty then capture s ctx ⟨.lane, a.lane, a.result.map Int.toNat⟩ else s) s

/-- Does a lane's address still wait for its translation? -/
def untranslated (a : Acc) : Bool :=
  match a.phase with
  | .xlate _ | .pri => true
  | _ => false

/-- The lowest lane whose access has failed, once every lane below it is translated (R253). -/
def failedLane (as : List Acc) : Option (Acc × Nat) := (as.takeWhile fun a => !untranslated a).findSome? accFailed

/-- Finish a host group: an ldh once every lane's data is here, an sth once every lane is translated. The lowest lane
whose address fails gives the fault, or else the lowest whose data is invalid, and then no lane acts (R253, R256). -/
def finishHost (s : State) (g : Nat) : State :=
  let as := groupOf s g
  match as.head? with
  | none => s
  | some a0 =>
    match hostOf a0.i, s.strands.get? a0.strand with
    | some h, some st =>
      let here := as.all fun a => accDone a || (h.write && hostReady a)
      let bad (a : Acc) : Option (Acc × Nat) :=
        if h.write then none
        else match fromHost h.kind h.type (a.result.map Int.toNat) with
          | .bad _ => some (a, 7)
          | _ => none
      let s0 := captureLanes s (s.weaveOf st).ctx as
      match failedLane as with
      | some (a, c) => groupFault s0 a.strand g a c
      | none =>
        if !here then s
        else
        match as.findSome? bad with
        | some (a, c) => groupFault s0 a.strand g a c
        | none =>
          let s1 := if h.write then sthLanes s0 a0.strand st h as else s0.setStrand a0.strand (ldhLanes st h as)
          (if a0.replay then closeReplay else closeGroup) s1 a0.strand g a0.i (ldhWritten st h as)
    | _, _ => s

/-- The lanes of a host word up to the first whose checks fail (R253), and that one's fault. -/
def hostLanes (w : Word_) (h : HostMem) : List (Nat × Int) × Option FaultInfo :=
  match w.act.mapM (checkHost w h) with
  | .ok ls => (ls, none)
  | .error f => ((w.act.takeWhile (· != f.lane)).filterMap fun l => (checkHost w h l).toOption, some f)

/-- Start a host word: a lane whose address the translation cache grants is ready, the others wait for
the host's answer (R373). Where a lane's checks fail, the lanes below it are translated first (R253). -/
def hostWord (i : Instr) (s : State) : Out :=
  match hostOf i with
  | none => .next s
  | some h =>
    issueDid i s fun w =>
      let (ls, f) := hostLanes w h
      let g := w.s.nextId
      let word (j : Nat) : Int := ((w.st.pick.bind fun p => p.words[w.pos + j]?)).getD 0
      let n := kindBytes h.kind h.type
      let acc (l : Nat) (p : Int) (phase : AccPhase) : Acc :=
        { group := g, strand := w.k, lane := l, i, w0 := word 0, w1 := word 1, addr := p,
          kind := if h.write then .store else .load, size := n,
          data := if h.write then vE (w.st.thread l) h.type h.reg else 0, phase }
      let as := ls.map fun (l, p) => acc l p <|
        if ioDown w.s (dieOf w.st.core) then .failed 7
        else if hostGranted w.s (w.s.weaveOf w.st).ctx h.write p.toNat n then .ready else .xlate false
      let s1 := { w.s with nextId := g + 1, accs := w.s.accs ++ as ++ f.toList.map fun (x : FaultInfo) => acc x.lane (x.addr.getD 0) (.failed x.code) }
      let s2 := s1.modStrand w.k fun st => { st with pick := st.pick.map fun p => { p with busy := some g } }
      .stay (finishHost s2 g)

def execLdh (g : Guard) (k : Kind) (t : EType) (sat : Bool) (d a : Nat) (x : MemExt) (s : State) : Out :=
  hostWord (.ldh g k t sat d a x) s
def execSth (g : Guard) (k : Kind) (t : EType) (sat : Bool) (d a : Nat) (x : MemExt) (s : State) : Out :=
  hostWord (.sth g k t sat d a x) s

/-! ### Replays (R327, R334, R335) -/

def inReplay (s : State) (k : Nat) : Bool := s.accs.any fun a => a.strand == k && a.replay

/-- The fault of a replay entry: it and the later ones stay. -/
def replayFault (s : State) (k : Nat) (st : Strand) (e : Replay) (code : Nat) : State :=
  let wv := s.weaveOf st
  raiseFault s wv.ctx (some k) none { code, lane := e.lane, addr := some e.addr }

/-- Issue a strand's replay entries in order, each waiting for its answer before the next: a device access
at a home at hand is done at once; a peer or host access is under way when this ends. A replayed acquire gains by the
bindings in force at its reissue: R108 says 'at its issue', and an entry holds none (DESIGN CHOICE, log 86). -/
def replayNext (s : State) (k : Nat) : Nat → State
  | 0 => s
  | fuel + 1 =>
    match s.strands.get? k with
    | none => s
    | some st =>
      match st.replay with
      | [] => s
      | e :: rest =>
        if inReplay s k || st.fault.isSome then s
        else
          let ctx := (s.weaveOf st).ctx
          let g := s.nextId
          let acc (i : Instr) (kind : AccKind) (size : Nat) : Acc :=
            { group := g, strand := k, lane := e.lane, once := e.once, replay := true, i, w0 := e.w0, w1 := e.w1,
              addr := e.addr, kind, size, data := e.data, expect := e.expect }
          match decode e.w0 e.w1 with
          | none => replayFault s k st e 3
          | some i =>
            match memOf i, hostOf i with
            | some m, _ =>
              let bs := if m.acquire.isSome then boundTo s ctx e.addr m.size else []
              let s0 := fillRun s (.core st.core) ctx e.addr m.size
              match route s ctx m.want e.addr m.size (.core st.core) with
              | .error c => replayFault s0 k st e c
              | .ok (ks, .here _) =>
                if brokenAt s (ks.map Prod.fst) then replayFault s0 k st e 7
                else if tierWaits s (ks.map Prod.fst) then s
                else
                  let r := perform s0 st.core k m ks e.data e.expect
                  let s1 := settleMem r.1 k m [(e.lane, r.2)] bs
                  replayNext (s1.modStrand k fun y => { clearBad y [e.lane] (writtenBy i) false with replay := rest }) k fuel
              | .ok (ks, .peer o x f split) =>
                let a := { acc i m.kind m.size with peer := some (o, x, f), split, keys := ks.map Prod.fst, phase := .ready, bound := bs }
                sendRequests { s0 with nextId := g + 1, accs := s.accs ++ [a] } (coreRequester st.core) o
            | none, some h =>
              let n := kindBytes h.kind h.type
              let ph : AccPhase := if ioDown s (ctx / 256) then .failed 7
                else if hostGranted s ctx h.write e.addr.toNat n then .ready else .xlate false
              let a := { acc i (if h.write then .store else .load) n with phase := ph }
              replayNext (finishHost { s with nextId := g + 1, accs := s.accs ++ [a] } g) k fuel
            | none, none => replayFault s k st e 3

/-- The strand of a group, whose next replay entry goes out once the group is finished. -/
def thenReplay (s : State) (k : Option Nat) : State :=
  match k with
  | some k => replayNext s k (((s.strands.get? k).map fun st => st.replay.length + 1).getD 0)
  | none => s

def strandOfGroup (s : State) (g : Nat) : Option Nat := (s.accs.find? fun a => a.group == g).map (·.strand)

/-! ### Cache maintenance (R272) -/

/-- Pointers into the lines that begin with the line holding `p` (trits 43:4 name a line, R144). -/
def linePtrs (p : Int) (k : Int) : List Int := (List.range (min k.toNat 729)).map fun (j : Nat) => p + 81 * (j : Int)

/-- A line pointer's home line: none for a line that a prefetch drops. -/
def lineHome (s : State) (core ctx : Nat) (p : Int) : Except Nat Nat :=
  if !fits 44 (p + 3 ^ 44) then .error 6
  else
    match homeKeys s ctx .read p 1 (.core core) with
    | .ok ks => .ok (lineOf ((ks.map Prod.fst).headD 0))
    | .error c => .error c

/-- Bring a line into a core's data cache, unless it is there, cannot be read, or would have to wait. -/
def prefetch (s : State) (core line : Nat) : State :=
  let ks := (List.range 81).map fun i => lineBase line + i
  if (s.core core).dcache.any (fun l => l.line == line) || brokenAt s ks || tierWaits s ks then s
  else fetchLine s core line false

/-- The translations of line pointers, up to the first that fails, read tables and fill the TLBs (R361, R372). -/
def lineWalks (s : State) (core ctx : Nat) (ps : List Int) : State :=
  let n := ((ps.findIdx? fun q => !(lineHome s core ctx q).toBool).map (· + 1)).getD ps.length
  ((ps.take n).filter fun q => fits 44 (q + 3 ^ 44)).foldl (fun s q => fillTlb s (.core core) ctx q) s

/-- cwb and cinv: nothing for a host pointer, else every line is checked like a load. -/
def lineWord (i : Instr) (a b : Nat) (s : State) (act : Word_ → List Nat → State) : Out :=
  issueDid i s fun w =>
    let p := w.st.areg a
    let l := w.act.headD 0
    let ctx := (w.s.weaveOf w.st).ctx
    let ps := linePtrs p (w.st.sget b)
    if spaceOf p = 0 ∨ ps.isEmpty then .done w.s
    else if spaceOf p = 1 then .fault { code := 5, lane := l, addr := some p }
    else
      let one (q : Int) : Except FaultInfo Nat :=
        match lineHome w.s w.st.core ctx q with
        | .ok n => .ok n
        | .error c => .error { code := c, lane := l, addr := some (if c = 6 then p else q) }
      let s1 := lineWalks w.s w.st.core ctx ps
      match ps.mapM one with
      | .error f => .faultIn s1 f
      | .ok lines => .done (act { w with s := s1 } lines)

/-- A pointer to the first tryte of a pointer's line (R144). -/
def lineStart (q : Int) : Int := q - (field 45 q 0 4 : Int)

/-- A prefetch of one line: at hand it is brought in, from another die it is asked for like any line, with a number and a
permit (R401), and the thread does not wait for it. One that does not translate is dropped. -/
def prefetchAt (w : Word_) (i : Instr) (s : State) (q : Int) : State :=
  let core := w.st.core
  let ctx := (w.s.weaveOf w.st).ctx
  if !fits 44 (q + 3 ^ 44) then s
  else
    let s1 := fillTlb s (.core core) ctx q
    match translate w.s ctx .read q (.core core) with
    | .error _ => s1
    | .ok (.home k _) => prefetch s1 core (lineOf k)
    | .ok (.peer o e f) =>
      if (placeKey w.s .read (.peer o e f)).toOption.any fun k => resident w.s core [k.1] then s1
      else
        let word (j : Nat) : Int := ((w.st.pick.bind fun p => p.words[w.pos + j]?)).getD 0
        sendRequests { s1 with
          nextId := s1.nextId + 1
          accs := s1.accs ++ [{ group := s1.nextId, strand := w.k, lane := w.act.headD 0, once := true, i, w0 := word 0,
                                w1 := 0, addr := lineStart q, kind := .load, size := 81,
                                peer := some (o, e, f - field 45 q 0 4), prefetch := some (coreRequester core),
                                phase := .ready }] } (coreRequester core) o

/-- dpf never faults. -/
def execDpf (g : Guard) (a b : Nat) (s : State) : Out :=
  issue (.dpf g a b) s fun w =>
    let p := w.st.areg a
    if spaceOf p != -1 then .ok w.s
    else .ok ((linePtrs p (w.st.sget b)).foldl (prefetchAt w (.dpf g a b)) w.s)

def execCwb (g : Guard) (a b : Nat) (s : State) : Out :=
  lineWord (.cwb g a b) a b s fun w lines =>
    lines.foldl (fun s n => writeBack s (n / 3 ^ 27) (n % 3 ^ 27)) w.s

/-- cinv discards every line of the core's data cache (R360). -/
def execCinv (g : Guard) (a b : Nat) (s : State) : Out :=
  lineWord (.cinv g a b) a b s fun w _ => dropAll w.s w.st.core

end Sys2Proof.Machine
end

