-- ==== Sys2Proof/Machine/Sync.lean ====
section
/-!
DEFINITION. Atomics, acquires and releases, bindings, fences, waiting and waking, records for successor
nodes, compressed-region configuration (R259 to R273): row 6 of the opcode map.
-/
namespace Sys2Proof.Machine

/-! ### At a device-space home (R261 to R265) -/

def execAtom (g : Guard) (t : EType) (sat : Bool) (d a b : Nat) (x : AtomExt) (s : State) : Out :=
  memWord (.atom g t sat d a b x) s
def execRed (g : Guard) (t : EType) (sat : Bool) (a b : Nat) (x : AtomExt) (s : State) : Out :=
  memWord (.red g t sat a b x) s
def execAcq (g : Guard) (sc : Scope) (all : Bool) (d a b : Nat) (s : State) : Out :=
  memWord (.acq g sc all d a b) s
def execRel (g : Guard) (sc : Scope) (all : Bool) (d a b : Nat) (s : State) : Out :=
  memWord (.rel g sc all d a b) s

/-! ### In the window (R264) -/

/-- One lane of atoms: its window word, operand and expected value. -/
structure WinLane where
  lane : Nat
  j : Nat
  b : Int
  e : Int

/-- atoms: every lane's address is checked, then what it reads, and then the lanes act in ascending order (R253, R264).
An acquire gains as .all. -/
def execAtoms (g : Guard) (t : EType) (sat : Bool) (d a b : Nat) (x : AtomExt) (s : State) : Out :=
  issue (.atoms g t sat d a b x) s fun w =>
    let wv := w.s.weaveOf w.st
    let cl := clusterOf w.st.core
    let n := regsE t
    let check (l : Nat) : Except FaultInfo WinLane := do
      let j ← windowAt wv (w.st.areg a) (n * indexOf x.index w.st l) n l
      match (List.range n).find? fun k => inRegion wv.slots (w.s.cluster cl).scratch (j + k) with
      | some k => throw { code := 2, lane := l, addr := some (j + k : Nat) }
      | none => return ⟨l, j, dataV t b w.st l, dataV t d w.st l⟩
    let sound (y : WinLane) : Except FaultInfo WinLane :=
      match (List.range n).find? fun k => windowBroken (w.s.cluster cl) wv.slots (y.j + k) with
      | some k => .error { code := 7, lane := y.lane, addr := some (y.j + k : Nat) }
      | none => .ok y
    ((w.act.mapM check).bind fun ls => ls.mapM sound).map fun ls =>
      let step (r : State × List (Nat × Int)) (y : WinLane) : State × List (Nat × Int) :=
        let sc := (r.1.cluster cl).scratch
        let o := if n = 2 then pairOf (sc.get y.j) (sc.get (y.j + 1)) else sc.get y.j
        let s1 := match atomNew t sat x.op o y.b y.e with
          | some v => writeScratch r.1 cl (if n = 2 then [(y.j, loWord v), (y.j + 1, hiWord v)] else [(y.j, v)])
          | none => r.1
        (s1, r.2 ++ [(y.lane, o)])
      let words := ls.flatMap fun y => (List.range n).map (y.j + ·)
      let r := ls.foldl step (countScratch w.s cl words.eraseDups, [])
      let s1 := r.1.modStrand w.k fun st => r.2.foldl (fun st o => putV t d st o.1 o.2) st
      if (acquireOf x).isSome then dropAll s1 w.st.core else s1

/-! ### Bindings (R107, R266, R267) -/

/-- The pointer of a synchronisation object (R106): a device-space word. -/
def objectAt (w : Word_) (a : Nat) : Except FaultInfo Int :=
  let base := w.st.areg a
  match checkPtr base 0 false 3 with
  | .error c => .error (addrFault base 0 (w.act.headD 0) c)
  | .ok p => .ok p

/-- The status of a bind: -1 before 0 (R266). -/
def bindStatus (bs : List Binding) (obj base len : Int) : Int :=
  if spaceOf base ≠ -1 ∨ len < 1 ∨ 3 ^ 26 < len then -1
  else if Config.bindingEntries ≤ bs.length ∨
      Config.bindingsPerObject ≤ (bs.filter fun b => b.obj == obj).length then 0
  else 1

def execBind (g : Guard) (c a b : Nat) (sc : Scope) (len : Nat) (s : State) : Out :=
  issue (.bind g c a b sc len) s fun w =>
    (objectAt w a).map fun obj =>
      let ctx := (w.s.weaveOf w.st).ctx
      let bs := ((w.s.contexts.get? ctx).map (·.bindings)).getD []
      let base := w.st.areg b
      let n := w.st.sget len
      let status := bindStatus bs obj base n
      let s1 := if status = 1 then
          w.s.modCtx ctx fun x => { x with bindings := x.bindings ++ [⟨obj, base, n.toNat, sc⟩] }
        else w.s
      s1.modStrand w.k fun st => condLanes st w.act c { sign := status }

def execUnbind (g : Guard) (a : Nat) (b : Option Nat) (s : State) : Out :=
  issue (.unbind g a b) s fun w =>
    (objectAt w a).map fun obj =>
      let gone (x : Binding) : Bool :=
        x.obj == obj && (match b with | some r => x.base == w.st.areg r | none => true)
      w.s.modCtx (w.s.weaveOf w.st).ctx fun x => { x with bindings := x.bindings.filter fun y => !gone y }

/-! ### Fences (R114, R123, R268, R269) -/

/-- fence: the thread's writes stand at their homes already; its later reads see every write before
(R114), so the core's cached lines go (R360). -/
def execFence (g : Guard) (sc : Scope) (s : State) : Out :=
  issue (.fence g sc) s fun w => .ok (dropAll w.s w.st.core)

/-- fencex: towards the core path cached lines go (R360), towards the matrix path the core's B latch, which
an operation that is reading its operands does not fill any more (R298). Naming one path twice has no effect. -/
def execFencex (g : Guard) (p c : Path) (s : State) : Out :=
  issue (.fencex g p c) s fun w =>
    if p = c then .ok w.s
    else
      match c with
      | .core => .ok (dropAll w.s w.st.core)
      | .matrix =>
        let s1 := w.s.modCore w.st.core fun x => { x with latch := none }
        .ok { s1 with ops := s1.ops.map fun (n, o) =>
          (n, if o.unit == .matrix && o.core == w.st.core && (!o.got.isEmpty || s1.accs.any fun a => a.eng.isSome && a.group == n) then
            { o with fenced := true } else o) }
      | _ => .ok w.s

/-! ### Waiting (R270, R271) -/

/-- A waitw has read its word (R270): the lanes of its pick whose value differs already go on with it, the others wait.
Values that the word has had since, where an owner read it, come after the first: a wait that one of them differs from has
seen it, and reads the word again. -/
def startWait (st : Strand) (act : List Nat) (x : Wait) (b : Nat) (o : Int) (since : List Int) : Strand :=
  let val (l : Nat) : Int := (st.thread l).vget b
  let on := act.filter fun l => o != val l
  let st1 := (st.modThreads on fun _ t => t.vput x.dest o).validLanes clsV x.dest on
  leavePick st1 (act.filter fun l => o == val l) (x.before + 1) fun l t =>
    let seen := since.find? (· != val l)
    { t with status := .waiting { x with val := val l, seen, asks := seen.isSome } }

/-- waitw: a word at hand is read at once, a peer's at its owner (R401). The .sp form takes the window word
as it stands, in a compressed region's view too, of which R270 says nothing (DESIGN CHOICE, log 79). -/
def execWaitw (g : Guard) (sp : Bool) (d a b : Nat) (s : State) : Out :=
  issueDid (.waitw g sp d a b) s fun w =>
    let base := w.st.areg a
    let l0 := w.act.headD 0
    let wv := w.s.weaveOf w.st
    let go (locs : List Nat) (s1 : State) (o : Int) : State :=
      s1.setStrand w.k (startWait w.st w.act
        { sp, locs, ptr := base, val := 0, dest := d, header := w.header, before := w.pos } b o [])
    if sp then
      let cl := w.s.cluster (clusterOf w.st.core)
      match windowIndex wv base 1 with
      | .error c => .fault { code := c, lane := l0, addr := some (addrOf base) }
      | .ok j =>
        if cl.lostWord j then .fault { code := 7, lane := l0, addr := some j }
        else .done (go [j] (countScratch w.s (clusterOf w.st.core) [j]) (cl.scratch.get j))
    else
      match checkPtr base 0 false 3 with
      | .error c => .fault (addrFault base 0 l0 c)
      | .ok p =>
        match route w.s wv.ctx .read p 3 (.core w.st.core) with
        | .error c => .faultIn (fillRun w.s (.core w.st.core) wv.ctx p 3) (addrFault base 0 l0 c)
        | .ok (ks, goal) =>
          let keys := ks.map Prod.fst
          let s1 := fillRun w.s (.core w.st.core) wv.ctx p 3
          if brokenAt w.s keys then .faultIn s1 (addrFault base 0 l0 7)
          else if tierWaits w.s keys then .stay w.s
          else
            match goal with
            | .here _ =>
              let r := homeRead s1 w.st.core w.k keys
              .done (go keys r.1 (ofTrytes r.2))
            | .peer o e f split =>
              let grp := s1.nextId
              .stay (beginGroup { s1 with nextId := grp + 1 } w.k w.st.core grp
                [{ group := grp, strand := w.k, lane := l0, once := true, i := .waitw g sp d a b,
                   w0 := ((w.st.pick.bind fun p => p.words[w.pos]?)).getD 0, w1 := 0, addr := p, kind := .load, size := 3,
                   peer := some (o, e, f), split, keys, phase := .ready }])

/-- The places of a peer access, in order. -/
def Acc.places (a : Acc) : List Place :=
  match a.peer with
  | some (o, e, f) => if a.split.isEmpty then (List.range a.size).map fun i => .peer o e (f + i) else a.split
  | none => []

/-- The read of a waitw at its owner has its answer (R270, R401): the first starts the wait, or is the word's fault; one
that a write called for ends it, with the value that the write was seen to leave where the word has turned back. -/
def landWait (s : State) (g : Nat) : State :=
  match (groupOf s g).head? with
  | none => s
  | some a =>
    let k := a.strand
    match s.strands.get? k, a.i, a.phase with
    | some st, i@(.waitw gd _ d _ b), ph =>
      if !accDone a then s
      else
        let s0 := { s with accs := s.accs.filter fun x => x.group != g }
        let o := a.result.headD 0
        if st.pick.bind (·.busy) = some g then
          match ph, st.pick with
          | .failed c, _ => groupFault s k g a c
          | _, some p =>
            let act := p.lanes.filter fun l => passes gd (st.thread l)
            let x : Wait := { sp := false, locs := a.keys, ptr := a.addr, val := 0, dest := d, header := p.header,
                              before := p.pos, places := a.places, word := a.w0 }
            closeGroup (s0.setStrand k (startWait st act x b o (a.result.drop 1))) k g i act
          | _, none => s0
        else
          match (st.thread a.lane).status, ph with
          | .waiting w, .failed c =>
            if w.asks then raiseFault s0 (s.weaveOf st).ctx (some k) none { code := c, pos := w.before + 1, lane := a.lane, addr := some a.addr }
            else s0
          | .waiting w, _ =>
            if w.asks then
              finishWait (s0.setStrand k (st.setThread a.lane { st.thread a.lane with
                status := .waiting { w with asks := false, seen := if o = w.val then w.seen else some o } })) k a.lane
            else s0
          | _, _ => s0
    | none, _, _ => { s with accs := s.accs.filter fun x => x.group != g }
    | _, _, _ => s

/-- The word of a wait that a write has ended is read again at its owner. -/
def rereadWait (s : State) (k lane : Nat) (st : Strand) (w : Wait) (i : Instr) : State :=
  if s.accs.any fun a => a.strand == k && a.lane == lane && awaits a then s
  else
    match requestFor w.places with
    | none => s
    | some (o, e, f, split) =>
      sendRequests { s with
        nextId := s.nextId + 1
        accs := s.accs ++ [{ group := s.nextId, strand := k, lane, once := true, i, w0 := w.word, w1 := 0, addr := w.ptr,
                             kind := .load, size := 3, peer := some (o, e, f), split, keys := w.locs, phase := .ready }] }
        (coreRequester st.core) o

/-- WAITW_END: the word differs, or a wake named it. A peer's word that a write has made differ is first read again. -/
def execWaitwEnd (k lane : Nat) (s : State) : Out :=
  match s.strands.get? k with
  | none => .next s
  | some st =>
    match (st.thread lane).status with
    | .waiting w =>
      match w.asks, decode w.word 0 with
      | true, some i => .next (rereadWait s k lane st w i)
      | _, _ => .next (finishWait s k lane)
    | _ => .next s

/-- Does a scope seen from a strand cover the threads of another of its context (R100)? A thread that
waits is none of the pick's, so thread scope covers none. -/
def covers (s : State) (sc : Scope) (k : Nat) (st : Strand) (k' : Nat) (st' : Strand) : Bool :=
  match sc with
  | .thd => false
  | .snd => k == k'
  | .wv => st.weave == st'.weave
  | .cl => clusterOf st.core == clusterOf st'.core
  | _ => (s.weaveOf st).die == (s.weaveOf st').die

/-- wake: every waitw of the context's threads in scope that names this word ends, with the word's value at this moment
(R270). The pointer of a wake is not translated, so a word is named by it: a waitw names the same word where its pointer is
the same and its context too (DESIGN CHOICE, log 106). A window word is its weave's alone. A thread whose word cannot be read
takes the data-integrity fault (R366, R432). -/
def execWake (g : Guard) (sc : Scope) (sp : Bool) (a : Nat) (s : State) : Out :=
  issue (.wake g sc sp a) s fun w =>
    let base := w.st.areg a
    let ctx := (w.s.weaveOf w.st).ctx
    let named (k : Nat) (st : Strand) (x : Wait) : Bool :=
      x.sp == sp && x.ptr == base && (w.s.weaveOf st).ctx == ctx && covers w.s sc w.k w.st k st &&
        (!sp || st.weave == w.st.weave)
    let wakeT (k : Nat) (st : Strand) (t : Thread) : Thread :=
      match t.status with
      | .waiting x =>
        if named k st x && !waitLost w.s (clusterOf st.core) x then
          { t with status := .waiting { x with seen := some (waitValue w.s st x) } }
        else t
      | _ => t
    let lost := w.s.strands.flatMap fun p => (List.range 32).filterMap fun l => match (p.2.thread l).status with
      | .waiting x => if named p.1 p.2 x && waitLost w.s (clusterOf p.2.core) x then some (p, l, x) else none
      | _ => none
    let s1 := { w.s with strands := w.s.strands.map fun p => (p.1, { p.2 with threads := p.2.threads.map (wakeT p.1 p.2) }) }
    .ok (lost.foldl (fun s (x : (Nat × Strand) × Nat × Wait) => waitFault s x.1.1 x.1.2 x.2.1 x.2.2) s1)

/-! ### Records (R37, R38, R273) -/

/-- The successor node that a weave's queue index names. -/
def successor (s : State) (wv : Weave) (q : Nat) : Option (Nat × Nat × Node) := do
  let node ← wv.succ[q]?
  let l ← s.launches.get? wv.launch
  let (g, _) ← l.graph
  let gr ← s.graphs.get? g
  let nd ← gr.nodes[node]?
  return (g, node, nd)

/-- Groups of C records for as long as C are pending (R38). -/
def formFull (s : State) (g node : Nat) : Nat → State
  | 0 => s
  | fuel + 1 =>
    match (s.graphs.get? g).bind fun gr => gr.nodes[node]? with
    | none => s
    | some nd =>
      let c := recC nd.record
      if 0 < c ∧ c ≤ nd.queue.length then formFull (formGroup s g node c) g node fuel else s

/-- emit (R38, R273). With no queue declared at the index no record size is known: the register that the word names is
checked alone (DESIGN CHOICE, log 95). -/
def execEmit (g : Guard) (c a q : Nat) (s : State) : Out :=
  issue (.emit g c a q) s fun w =>
    let wv := w.s.weaveOf w.st
    match successor w.s wv q with
    | none =>
      if 9 * w.st.granules ≤ a then .error { code := 10, lane := w.act.headD 0 }
      else .ok (w.s.setStrand w.k (condLanes w.st w.act c { sign := -1 }))
    | some (gr, node, nd) =>
      let z := recSize nd.record
      if 243 < a + z then .error { code := 3, lane := w.act.headD 0 }
      else if 9 * w.st.granules < a + z then .error { code := 10, lane := w.act.headD 0 }
      else
        match badRead w.st w.act [rdV a z] with
        | some b => .error { code := 7, lane := b.lane, cls := b.cls, reg := b.idx }
        | none =>
          let free := recCapacity nd.record - nd.queue.length
          let ok := w.act.take free
          let recs := ok.map fun l => (w.s.cycle, (List.range z).map fun j => (w.st.thread l).vget (a + j))
          let st := condLanes (condLanes w.st (w.act.drop free) c { sign := 0 }) ok c { sign := 1 }
          let nd' := { nd with queue := nd.queue ++ recs }
          let s1 := { w.s with graphs := w.s.graphs.upd gr fun x => { x with nodes := x.nodes.set node nd' } }
          .ok (formFull (s1.setStrand w.k st) gr node nd'.queue.length)

/-! ### Compressed regions (R259, R260) -/

/-- The three ranges of a slot: view, table, data span. -/
def slotRanges (scratch : Cells) (x : Slot) : List (Nat × Nat) :=
  [(x.view, x.view + 27 * x.tiles), (x.table, x.table + x.tiles), (x.base, x.base + dataEnd scratch x)]

def overlap (a b : Nat × Nat) : Bool := decide (max a.1 b.1 < min a.2 b.2)

/-- The checks of R259 on a configure; false for the engine-error fault. -/
def slotOk (wv : Weave) (scratch : Cells) (n : Nat) (x : Slot) : Bool :=
  let inside (r : Nat × Nat) : Bool := decide (wv.base ≤ r.1) && decide (r.2 ≤ wv.base + wv.len)
  let rs := slotRanges scratch x
  let entries := (List.range x.tiles).map fun t => readOffset (scratch.get (x.table + t))
  let others := (wv.slots.zipIdx.filter fun o => o.2 != n).flatMap fun o =>
    match o.1 with
    | some y => slotRanges scratch y
    | none => []
  entries.all (fun e => match e with | some (c, _, _) => decide (c ≤ 27) | none => false) &&
    rs.all inside && !overlap (rs.getD 0 (0, 0)) (rs.getD 1 (0, 0)) &&
    !overlap (rs.getD 0 (0, 0)) (rs.getD 2 (0, 0)) && !overlap (rs.getD 1 (0, 0)) (rs.getD 2 (0, 0)) &&
    rs.all fun r => others.all fun o => !overlap r o

def execSpz (g : Guard) (slot : Nat) (act : SpzAct) (s : State) : Out :=
  issue (.spz g slot act) s fun w =>
    let wv := w.s.weaveOf w.st
    let ext : Int := (encode (.spz g slot act)).getD 1 0
    let put (s : State) (x : Option Slot) : State := s.modWeave w.st.weave fun y =>
      { y with slots := y.slots.set slot x, exts := y.exts.set slot ext }
    match act with
    | .remove => .ok (put w.s none)
    | .configure a b base tiles =>
      let lane := w.act.headD 0
      let at_ (r : Nat) : Except FaultInfo Nat :=
        match windowIndex wv (w.st.areg r) 1 with
        | .error c => .error { code := c, lane, addr := some (addrOf (w.st.areg r)) }
        | .ok j => .ok j
      do
        let view ← at_ a
        let table ← at_ b
        let x : Slot := { ext, view, table, base, tiles }
        let cl := w.s.cluster (clusterOf w.st.core)
        let entries := (List.range tiles).map (table + ·)
        if wv.base + wv.len < table + tiles then throw { code := 12, lane }
        else
          match entries.find? cl.lostWord with
          | some j => throw { code := 7, lane, addr := some j }
          | none =>
            if slotOk wv cl.scratch slot x then return put (countScratch w.s (clusterOf w.st.core) entries) (some x)
            else throw { code := 12, lane }

end Sys2Proof.Machine
end

