-- ==== Sys2Proof/Machine/EngOps.lean ====
section
/-!
DEFINITION. What the engines share: issuing a long-latency word (R154, R277), reading and writing an
element on either side (R279), requests to other dies (R377, R393, R401), faults (R277), signals (R124, R278) and
completion.
-/
namespace Sys2Proof.Machine

/-! ### Issue (R154, R155, R277) -/

/-- The flag that the clause's header assigns to its next long-latency word (R152, R154). -/
def flagFor (p : Pick) : Nat := ((if p.longs = 0 then p.flagA else p.flagB)).getD 0

/-- The two words of the instruction being issued. -/
def issuedWords (w : Word_) (i : Instr) : Int × Int :=
  let at_ (j : Nat) : Int := ((w.st.pick.bind fun p => p.words[w.pos + j]?)).getD 0
  (at_ 0, if wordCount i = 2 then at_ 1 else 0)

/-- Signal fields read at issue. -/
def sigRegs (st : Strand) : Option SigCtl → Int × Int
  | some x => (st.areg x.areg, st.sget x.sreg)
  | none => (0, 0)

/-- A block of uniform registers. -/
def sBlock (st : Strand) (b n : Nat) : List Int := (List.range n).map fun j => st.sget (b + j)

/-- HAND A WORD TO AN ENGINE: its flag is set and the operation enters its unit's queue with every
register operand read (R55, R155, R277). -/
def engineWord (i : Instr) (unit : Unit_) (s : State) (fill : Word_ → EngOp → EngOp) : Out :=
  issue i s fun w =>
    let wv := w.s.weaveOf w.st
    let flag := (w.st.pick.map flagFor).getD 0
    let ws := issuedWords w i
    let now := (counter w.s w.st.core).toNat
    let o : EngOp :=
      { i, w0 := ws.1, w1 := ws.2, unit, strand := some w.k, weave := w.st.weave, die := wv.die, ctx := wv.ctx,
        cluster := clusterOf w.st.core, core := w.st.core, flag, lanes := w.act, slots := wv.slots,
        issuedAt := now, movedAt := now }
    let s1 := w.s.modStrand w.k fun st => { st with flags := st.flags.set flag true }
    .ok { s1 with ops := s1.ops.put s1.nextId (fill w o), nextId := s1.nextId + 1 }

/-! ### Standing of an operation -/

/-- Has an operation requests under way? -/
def inFlight (s : State) (n : Nat) : Bool := s.accs.any fun a => a.eng.isSome && a.group == n && !accDone a

/-- Has the line of a copy that is in hand all that it asked of other dies (R379)? -/
def lineBegun (s : State) (n : Nat) (o : EngOp) : Bool :=
  !o.got.isEmpty || s.accs.any fun a => a.eng.isSome && a.group == n && (accFailed a).isSome

/-- Have the strands of a weave performed their replay entries (R334)? -/
def replaysDone (s : State) (w : Nat) : Bool := !s.strands.any fun x => x.2.weave == w && !x.2.replay.isEmpty

/-- Is an operation without a fault, its partition not halting (R312, R379), and no replay entry of its weave's strands
still to be performed (R334)? -/
def opLives (s : State) (o : EngOp) : Bool :=
  o.fault.isNone && (s.weaves.get? o.weave).any fun wv => !halting (s.part o.die wv.part) && replaysDone s o.weave

/-- May an engine start work on an operation: it lives, and no request of it is under way. -/
def opRuns (s : State) (n : Nat) (o : EngOp) : Bool := opLives s o && !inFlight s n

/-- May a matrix operation go on: it finishes its array cycles at a halt (R312, R321), and after a resumption it waits
for the replay entries (R334). -/
def matrixRuns (s : State) (o : EngOp) : Bool :=
  o.fault.isNone && (s.weaves.get? o.weave).any fun wv => halting (s.part o.die wv.part) || replaysDone s o.weave

/-- A fault of an operation (R277): its flag stays set. -/
def opFault (s : State) (n : Nat) (o : EngOp) (code : Nat) (addr : Option Int := none) : State :=
  raiseFault s o.ctx o.strand (some n) { code, addr }

/-- What stops an engine: a fault's code and address; code 0 is no fault, the operation waits. -/
abbrev EngRes (α : Type) := Except (Nat × Option Int) α

/-- The walk of a device pointer that an engine's fault names has read page tables (R361, R372). -/
def faultWalk (s : State) (o : EngOp) (code : Nat) (addr : Option Int) : State :=
  match addr with
  | some p => if (code == 1 || code == 2 || code == 7) && decide (p < 0) && fits 45 p then fillTlb s (.cluster o.cluster) o.ctx p else s
  | none => s

/-- An operation stops: with a fault, or until it is tried again. -/
def opStop (s : State) (n : Nat) (o : EngOp) (e : Nat × Option Int) : State :=
  if e.1 = 0 then s else opFault (faultWalk s o e.1 e.2) n o e.1 e.2

/-- Progress is noted for the operation watchdog (R320), in cycles of the operation's core. -/
def noteMove (s : State) (n : Nat) (o : EngOp) : State :=
  s.modOp n fun x => { x with movedAt := (counter s o.core).toNat }

/-! ### One element on either side (R279, R283) -/

/-- A place: trytes of device space from a pointer, with their homes and how they are reached, a window word, a
tryte of a window word, a window pair, host bytes. -/
inductive Loc where
  | dev (ptr : Int) (ks : List (Nat × Bool)) (ps : List Place)
  | win (j : Nat)
  | tryte (j k : Nat)
  | pair (j : Nat)
  | host (a n : Nat)
  deriving DecidableEq, Repr

/-- The window word of an operation's window side (R252, R279). -/
def opWindow (s : State) (o : EngOp) (base d : Int) (n : Nat) : EngRes Nat :=
  match s.weaves.get? o.weave with
  | none => .error (2, none)
  | some wv =>
    match addAddr base d with
    | none => .error (6, some base)
    | some p =>
      match windowIndex wv p n with
      | .error c => .error (c, some (addrOf p))
      | .ok j => .ok j

/-- A device pointer side: the checks of R253, translation, and the check codes of what it names (R366). -/
def opDevice (s : State) (o : EngOp) (want : Want) (base d : Int) (z : Nat) : EngRes Loc :=
  match checkPtr base d false z with
  | .error c => .error (c, some (if c = 6 then base else base + d))
  | .ok p =>
    match homeKeys s o.ctx want p z (.cluster o.cluster),
        (List.range z).mapM fun (i : Nat) => translate s o.ctx want (p + (i : Int)) (.cluster o.cluster) with
    | .ok ks, .ok ps =>
      let keys := ks.map Prod.fst
      if brokenAt s keys then .error (7, some p)
      else if tierWaits s keys then .error (0, none) else .ok (.dev p ks ps)
    | .error c, _ | _, .error c => .error (c, some p)

/-- A host side: the byte run of an element, range and alignment checked (R98, R284). -/
def opHost (s : State) (o : EngOp) (base d : Int) (n align : Nat) : EngRes Nat :=
  match checkPtr base d true align with
  | .error c => .error (c, some (if c = 6 then base else base + d))
  | .ok p =>
    if p < 0 ∨ 2 ^ 64 < p + n ∨ (pasidOf s o.ctx).isNone then .error (1, some p) else .ok p.toNat

/-- Element `e` of a ternary side: a window range or a device pointer (R279). -/
def locate (s : State) (o : EngOp) (want : Want) (sp : Bool) (t : EType) (base e : Int) : EngRes Loc :=
  if sp then
    if trytesOf t = 1 then (opWindow s o base (e / 3) 1).map fun j => .tryte j (e % 3).toNat
    else if t = .p then (opWindow s o base (2 * e) 2).map .pair
    else (opWindow s o base e 1).map .win
  else opDevice s o want base (trytesOf t * e) (trytesOf t)

def opScratch (s : State) (o : EngOp) : Cells := (s.cluster o.cluster).scratch

/-- A window word through a read port, by the regions the operation took at its issue (R142, R260, R432). -/
def opWord (s : State) (o : EngOp) (j : Nat) : EngRes Int :=
  match readWindow (opScratch s o) o.slots j, windowBroken (s.cluster o.cluster) o.slots j with
  | some x, false => .ok x
  | _, _ => .error (7, some j)

/-- A line on its way (R377): the state with what it wrote at hand, the trytes it gathered for tiles of regions, the
trytes that other dies' answers brought, by home key and answer by answer, those it has written through other dies, those
an owner could not give, the elements it sends, and the pointers used. -/
structure LineOut where
  s : State
  win : List (Nat × Nat × Int) := []
  far : List (List (Nat × Int)) := []
  wrote : List (Nat × Int) := []
  lost : List (Place × Nat) := []
  sent : List (List (Nat × Place × Int)) := []
  ptrs : List Int := []

/-- The failed reads of an operation: its places and the owner's codes. -/
def lostReads (s : State) (n : Nat) : List (Place × Nat) :=
  (s.accs.filter fun a => a.eng.isSome && a.group == n).flatMap fun a =>
    match a.phase with
    | .failed c => a.split.map fun p => (p, c)
    | _ => []

/-- The start of a line: what the operation has read of other dies is at hand. -/
def LineOut.of (s : State) (n : Nat) (o : EngOp) : LineOut :=
  { s, lost := lostReads s n
    far := o.got.map fun g => g.filterMap fun x => match placeKey s .read x.1 with
      | .ok k => some (k.1, x.2)
      | .error _ => none }

/-- The value of a key among trytes by key. -/
def keyIn (xs : List (Nat × Int)) (k : Nat) : Option Int := (xs.find? fun y => y.1 == k).map Prod.snd

/-- The answer that has every tryte of an element: it was asked for whole, so that the trytes are of one reading (R104). -/
def LineOut.answer? (r : LineOut) (keys : List Nat) : Option (List (Nat × Int)) :=
  r.far.find? fun g => keys.all fun k => (keyIn g k).isSome

/-- An element that lies on another die, if only in part, and is not at hand: it is read whole, by one request (R104). -/
def LineOut.missing (r : LineOut) (l : Loc) : List (Int × List Place) :=
  match l with
  | .dev ptr ks ps =>
    let keys := ks.map Prod.fst
    if ps.any isPeer && !(r.answer? keys).isSome && !(keys.all fun k => (keyIn r.wrote k).isSome) &&
        !(ps.any fun p => r.lost.any fun y => y.1 == p) then [(ptr, ps)]
    else []
  | _ => []

/-- What a line has for a tryte of a window word so far. -/
def LineOut.word (r : LineOut) (o : EngOp) (j : Nat) : EngRes Int :=
  let parts := r.win.filter fun x => x.1 == j
  let laid (x : Int) : Int := parts.foldl (fun x y => setField 27 x (9 * y.2.1) 9 y.2.2) x
  if parts.length = 3 then .ok (laid 0) else (opWord r.s o j).map laid

/-- What stands at a place, as a register would hold it (R250): what the line itself has written there, else of another die
the one answer that has it whole, else what stands at the home (R104). -/
def readLoc (r : LineOut) (o : EngOp) (l : Loc) : EngRes Int :=
  match l with
  | .dev ptr ks ps =>
    match ps.findSome? fun p => (r.lost.find? fun y => y.1 == p).map Prod.snd with
    | some c => .error (c, some ptr)
    | none =>
      let from_ := if ps.any isPeer then (r.answer? (ks.map Prod.fst)).getD [] else []
      .ok (ofTrytes (ks.map fun k => ((keyIn r.wrote k.1).or (keyIn from_ k.1)).getD (r.s.mem.get k.1)))
  | .win j => r.word o j
  | .tryte j k => (r.word o j).map fun x => elem 9 x k
  | .pair j => do return pairOf (← r.word o j) (← r.word o (j + 1))
  | .host _ _ => .ok 0

/-- What an engine reads at these places is read at its home: lines are used there (R361), and errors that the check codes
correct are counted (R432, R434). What a request brings is read by its owner. -/
def noteReads (s : State) (o : EngOp) (ls : List Loc) : State :=
  let words (j : Nat) : List Nat := windowWords (opScratch s o) o.slots j
  let keys := ls.flatMap fun l => match l with
    | .dev _ ks ps => if ps.any isPeer then [] else ks.map Prod.fst
    | _ => []
  let js := ls.flatMap fun l => match l with
    | .win j | .tryte j _ => words j
    | .pair j => words j ++ words (j + 1)
    | _ => []
  touchReads (if js.isEmpty then s else countScratch s o.cluster js) keys

/-- A word of the window itself with an error that cannot be corrected, among those that a write at a place touches: the
write is an access, and meets the data-integrity fault (R432). -/
def lostAt (s : State) (o : EngOp) (l : Loc) : Option Nat :=
  let js := match l with
    | .win j | .tryte j _ => [j]
    | .pair j => [j, j + 1]
    | _ => []
  js.find? fun j => (viewOf o.slots j).isNone && (s.cluster o.cluster).lostWord j

/-- Write trytes of a window word: of a region, into what the line gathers. -/
def LineOut.put (r : LineOut) (o : EngOp) (j : Nat) (xs : List (Nat × Int)) : LineOut :=
  match viewOf o.slots j with
  | some _ =>
    { r with win := (xs.map fun x => (j, x.1, x.2)) ++
        r.win.filter fun y => !(y.1 == j && xs.any fun x => x.1 == y.2.1) }
  | none =>
    let old := (opScratch r.s o).get j
    let s1 := if xs.length < 3 then countScratch r.s o.cluster [j] else r.s
    { r with s := writeScratch s1 o.cluster [(j, xs.foldl (fun w x => setField 27 w (9 * x.1) 9 x.2) old)] }

/-- The three trytes of a word, with their numbers. -/
def numbered (x : Int) : List (Nat × Int) := (wordTrytes x).zipIdx.map fun y => (y.2, y.1)

/-- Write an element's value at its place: what goes to another die, and what must follow such a write to the same trytes,
is only noted, element by element (R104). -/
def LineOut.write (r : LineOut) (o : EngOp) (l : Loc) (x : Int) : LineOut :=
  match l with
  | .dev ptr ks ps =>
    let xs := toTrytes ks.length x
    let keys := ks.map Prod.fst
    let same (y : List (Nat × Place × Int)) : Bool := y.map Prod.fst == keys
    if r.sent.any same then
      { r with
        wrote := keys.zip xs ++ r.wrote.filter fun y => !keys.contains y.1
        sent := r.sent.map fun y => if same y then (y.zip xs).map fun z => (z.1.1, z.1.2.1, z.2) else y
        ptrs := ptr :: r.ptrs }
    else if ps.any isPeer then
      { r with
        wrote := keys.zip xs ++ r.wrote.filter fun y => !keys.contains y.1
        sent := r.sent ++ [keys.zip (ps.zip xs)]
        ptrs := ptr :: r.ptrs }
    else
      { r with
        s := writeKeys r.s ks xs
        wrote := r.wrote.map fun y => ((keys.zip xs).find? fun z => z.1 == y.1).getD y
        ptrs := ptr :: r.ptrs }
  | .win j => r.put o j (numbered x)
  | .tryte j k => r.put o j [(k, wrapVal x 9)]
  | .pair j => (r.put o j (numbered (loWord x))).put o (j + 1) (numbered (hiWord x))
  | .host _ _ => r

/-- The span of the window that a word lies in: a tile of a region, or 27 words (R377). -/
def spanKey (o : EngOp) (j : Nat) : Nat × Nat :=
  match viewOf o.slots j with
  | some (x, t, _) => (3, x.view + t)
  | none => (1, j / 27)

/-- The tiles of regions that a line has gathered in part. -/
def LineOut.openTiles (r : LineOut) (o : EngOp) : List (Nat × Nat) :=
  let keys := r.win.map fun x => spanKey o x.1
  keys.eraseDups.filter fun k => keys.count k < 81

/-- The words that a line has gathered for one tile of a region go there; an incomplete tile or one that exceeds its
capacity is the engine-error fault (R142), one among them whose element a range exception of R285 leaves unwritten
(DESIGN CHOICE, log 101). A tile's entry, and the words that its code takes, are met by the fault of R432 where they cannot
be corrected. -/
def LineOut.flushTile (r : LineOut) (o : EngOp) (s : State) (key : Nat × Nat) : EngRes State :=
  let js := ((r.win.map Prod.fst).filter fun j => spanKey o j == key).eraseDups
  let whole (j : Nat) : Option (Nat × Int) :=
    let ts := r.win.filter fun x => x.1 == j
    if ts.length = 3 then some (j, ts.foldl (fun w y => setField 27 w (9 * y.2.1) 9 y.2.2) 0) else none
  let old := s.cluster o.cluster
  let entries := js.filterMap fun j => (viewOf o.slots j).map fun x => x.1.table + x.2.1
  match entries.find? old.lostWord with
  | some j => .error (7, some j)
  | none =>
    match (js.mapM whole).bind (writeWindow old.scratch o.slots) with
    | none => .error (12, none)
    | some c =>
      let used := js.flatMap (windowWords c o.slots)
      match used.find? old.lostWord with
      | some j => .error (7, some j)
      | none =>
        let s1 := s.setCluster o.cluster { old with scratch := c, bad := old.bad.filter fun b => !used.contains b.1 }
        .ok (noticeWrite (countScratch s1 o.cluster entries) true (js ++ used))

/-- A line's tiles, in the order in which it began them, up to the first that cannot be written: a whole tile before that
one is written (R142, R283). -/
def LineOut.flush (r : LineOut) (o : EngOp) : State × Option (Nat × Option Int) :=
  ((r.win.reverse.map fun x => spanKey o x.1).eraseDups).foldl (fun a key =>
    match a.2 with
    | some _ => a
    | none => match r.flushTile o a.1 key with
      | .ok s => (s, none)
      | .error e => (a.1, some e)) (r.s, none)

/-- The pages that an operation has used enter its cluster's TLB (R372). -/
def fillPages (s : State) (o : EngOp) (z : Nat) (ptrs : List Int) : State :=
  ptrs.foldl (fun s p => fillRun s (.cluster o.cluster) o.ctx p z) s

/-! ### Requests to other dies (R377, R393, R401) -/

/-- The requester number of an operation's engine (R393): reads of a transform are its unit's, all others the copy
engine's, which also fetches for the array (R378). -/
def engineRequester (o : EngOp) : Nat :=
  128 * o.die + (if o.unit = .transform then 80 else 64) + o.cluster % 16

/-- A request for the elements that begin in one home line; where all of them lie on the die, it goes to the die itself. -/
def engineAcc (n : Nat) (o : EngOp) (kind : AccKind) (lane : Nat) (ptr : Int) (ps : List Place)
    (data : Int) : Acc :=
  let first := match ps.find? isPeer with
    | some (.peer w e f) => some (w, e, f)
    | _ => some (o.die, 0, 0)
  { group := n, strand := 0, lane, i := o.i, w0 := o.w0, w1 := o.w1, addr := ptr, kind, size := ps.length, data,
    peer := first, split := ps, eng := some (engineRequester o), phase := .ready }

/-- Send what is ready to every owner, as permits allow. -/
def sendAll (s : State) (r : Nat) : State := (List.range 8).foldl (fun s d => sendRequests s r d) s

/-- The home line that places begin in. -/
def firstLine (s : State) (ps : List Place) : Nat :=
  ((ps.head?.bind fun p => (placeKey s .read p).toOption).map fun k => lineOf k.1).getD 0

/-- Put requests for an operation in flight, numbered on from those that it has. -/
def request (s : State) (n : Nat) (o : EngOp) (as : List Acc) : State :=
  let k := (s.accs.filter fun a => a.eng.isSome && a.group == n).length
  sendAll { s with accs := s.accs ++ as.zipIdx.map fun x => { x.1 with lane := k + x.2 } } (engineRequester o)

/-- Ask the owners for elements, by home lines. -/
def pull (s : State) (n : Nat) (o : EngOp) (xs : List (Int × List Place)) : State :=
  let lines := (xs.map fun x => firstLine s x.2).eraseDups
  request s n o (lines.map fun l =>
    let mine := xs.filter fun x => firstLine s x.2 == l
    engineAcc n o .load 0 ((mine.map Prod.fst).headD 0) (mine.flatMap Prod.snd).eraseDups 0)

/-- The elements of a line that go to other dies, by home lines. -/
def LineOut.stores (r : LineOut) (n : Nat) (o : EngOp) : List Acc :=
  let line (x : List (Nat × Place × Int)) : Nat := lineOf ((x.head?.map Prod.fst).getD 0)
  ((r.sent.map line).eraseDups).map fun l =>
    let mine := (r.sent.filter fun x => line x == l).flatten
    engineAcc n o .store 0 (r.ptrs.headD 0) (mine.map fun x => x.2.1) (ofTrytes (mine.map fun x => x.2.2))

/-- What an engine must still read of these places before it can go on: none, or the state in which it is asked
for. -/
def wantsPull (s : State) (n : Nat) (o : EngOp) (ls : List Loc) : Option State :=
  let xs := ls.flatMap (LineOut.of s n o).missing
  if xs.isEmpty then none else some (pull s n o xs)

/-! ### Signals and completion (R124, R278, R288) -/

/-- Write a signal word: a store, or an atomic add at the home, at a window word or a device word. A word of a
region's view would be part of a tile (R142). The answer says whether it is written, or under way to another die. -/
def writeSignal (s : State) (n : Nat) (o : EngOp) (add sp : Bool) (ptr val : Int) : EngRes (State × Bool) :=
  if sp then
    match opWindow s o ptr 0 1 with
    | .error e => .error e
    | .ok j =>
      if (viewOf o.slots j).isSome then .error (12, none)
      else if (s.cluster o.cluster).lostWord j then .error (7, some j)
      else .ok (writeScratch (if add then countScratch s o.cluster [j] else s) o.cluster [(j, if add then wrapVal ((opScratch s o).get j + val) 27 else val)], true)
  else
    match opDevice s o .write ptr 0 3 with
    | .error e => .error e
    | .ok (.dev p ks ps) =>
      let s1 := fillPages s o 3 [p]
      if ps.any isPeer then
        let a := { engineAcc n o (if add then .atomic else .store) 0 p ps val with once := true }
        .ok (request (s1.modOp n fun x => { x with phase := .signalling }) n o [a], false)
      else
        let old := ofTrytes (readKeys s (ks.map Prod.fst))
        .ok (writeKeys (if add then touchReads s1 (ks.map Prod.fst) else s1) ks (toTrytes 3 (if add then wrapVal (old + val) 27 else val)), true)
    | .ok _ => .error (2, none)

/-- The signal fields and the destination place of an operation's control word. -/
def signalOf (i : Instr) : Option (SigCtl × Bool) :=
  match i with
  | .cpt _ _ _ _ _ _ x => x.sig.map fun c => (c, x.dstSp)
  | .cpm _ _ _ _ _ x => x.sig.map fun c => (c, x.dstSp)
  | .cpf _ _ _ _ _ x => x.sig.map fun c => (c, x.dstSp)
  | .cpg _ _ _ _ _ _ x => x.sig.map fun c => (c, x.dstSp)
  | .xff _ _ _ _ _ x => x.sig.map fun c => (c, x.dstSp)
  | .xfi _ _ _ _ _ x => x.sig.map fun c => (c, x.dstSp)
  | .mst _ _ _ _ _ x => x.sig.map fun c => (c, x.sp)
  | _ => none

def signalStep (s : State) (n : Nat) (o : EngOp) : EngRes (State × Bool) :=
  match signalOf o.i with
  | none => .ok (s, true)
  | some (c, sp) => writeSignal s n o c.add sp o.vsig o.sval

/-- An operation is complete: it leaves its unit and its flag clears (R55, R277). The context has made progress
(R320). -/
def opDone (s : State) (n : Nat) (o : EngOp) : State :=
  let s1 := s.modCtx o.ctx fun c => { c with progress := s.cycle }
  let s2 := { s1 with ops := s1.ops.del n, accs := s1.accs.filter fun a => !(a.eng.isSome && a.group == n) }
  match o.strand with
  | some k => clearFlag s2 k o.flag
  | none => s2

/-! ### The copy engine's turn (R376 to R378) -/

/-- Copy-engine operations of a cluster, oldest first (R376). -/
def copyOps (s : State) (cluster : Nat) : List (Nat × EngOp) :=
  s.ops.filter fun (_, o) => o.unit == .copy && o.cluster == cluster && o.fault.isNone

def isCpw (i : Instr) : Bool :=
  match i with
  | .cpw .. => true
  | _ => false

/-- The copy engine's active operations, three, none of them a cpw, each until it completes: those begun, then a
prologue's, then the others in arrival order (R376, R378). -/
def activeCopies (s : State) (cluster : Nat) : List (Nat × EngOp) :=
  let ops := (copyOps s cluster).filter fun x => !isCpw x.2.i
  let begun (x : Nat × EngOp) : Bool := x.2.phase != .queued || inFlight s x.1 || lineBegun s x.1 x.2
  let rest := ops.filter fun x => !begun x
  (ops.filter begun ++ rest.filter (fun x => x.2.strand.isNone) ++ rest.filter fun x => x.2.strand.isSome).take 3

/-- Has an operation a line to run now? At a halt, one that had begun before it (R379). -/
def hasLine (s : State) (n : Nat) (o : EngOp) : Bool :=
  o.fault.isNone && !inFlight s n && (opLives s o || lineBegun s n o) &&
    match o.phase with
    | .host _ _ _ | .hostPri _ _ | .written | .signalling => false
    | _ => true

/-- Matrix operations of a core, in issue order. -/
def matrixOps (s : State) (core : Nat) : List (Nat × EngOp) :=
  s.ops.filter fun x => x.2.unit == .matrix && x.2.core == core && x.2.fault.isNone

/-- The next operation that the array accepts. -/
def matrixNext (s : State) (core n : Nat) : Bool :=
  (((matrixOps s core).find? fun x => x.2.phase == .queued).map Prod.fst) == some n

/-- Does an operation take an operand through a handle (R150)? -/
def byHandle (i : Instr) : Bool :=
  match i with
  | .mma _ _ _ _ _ asrc bsrc => asrc == .handle || bsrc == .handle
  | .mmc _ _ _ _ _ x => x.wsrc == .handle || x.xsrc == .handle
  | _ => false

/-- Does the copy of a handle's tile wait for the copy engine of a cluster (R150, R378)? -/
def handleWaits (s : State) (cluster : Nat) : Bool :=
  s.ops.any fun x => x.2.unit == .matrix && x.2.cluster == cluster && byHandle x.2.i && matrixRuns s x.2 &&
    !inFlight s x.1 && matrixNext s x.2.core x.1

/-- Is it this operation's turn (R377, R378)? A prologue's go first, and the copies of handles, which MATRIX_START makes,
before those of strands; among equals the next after the operation that had the last turn. -/
def copyTurn (s : State) (n : Nat) (o : EngOp) : Bool :=
  let act := (activeCopies s o.cluster).filter fun x => hasLine s x.1 x.2
  let first := act.filter fun x => x.2.strand.isNone
  let pool := (if first.isEmpty then act else first).map Prod.fst
  let least (ms : List Nat) : Option Nat := leastBy (fun a b => decide (a ≤ b)) ms
  (o.strand.isNone || !handleWaits s o.cluster) &&
  ((least (pool.filter fun m => decide ((s.cluster o.cluster).served < m))).or (least pool)) == some n

/-- An operation has had its turn. -/
def tookTurn (s : State) (n : Nat) (o : EngOp) : State :=
  s.setCluster o.cluster { s.cluster o.cluster with served := n }

end Sys2Proof.Machine
end

