-- ==== Sys2Proof/Machine/Copy.lean ====
section
/-!
DEFINITION. The copy engine: cpt, cpm, cpf, cpw, cpg, mld, mst, thnd and its two events (R281 to R292,
R304 to R306, R309, R377 to R379).
-/
namespace Sys2Proof.Machine

/-! ### The words -/

def execCpt (g : Guard) (t : EType) (sat : Bool) (d a b : Nat) (x : CopyCtl) (s : State) : Out :=
  engineWord (.cpt g t sat d a b x) .copy s fun w o =>
    { o with vd := w.st.areg d, va := w.st.areg a, vsig := (sigRegs w.st x.sig).1, sval := (sigRegs w.st x.sig).2,
             block := sBlock w.st b (3 * x.dims) ++ (match x.map with | some r => sBlock w.st r 2 | none => []),
             trapOk := !sat && w.st.mask.range && !w.st.mask.global }
def execCpm (g : Guard) (t : EType) (d a b : Nat) (x : CopyCtl) (s : State) : Out :=
  engineWord (.cpm g t d a b x) .copy s fun w o =>
    { o with vd := w.st.areg d, va := w.st.areg a, vsig := (sigRegs w.st x.sig).1, sval := (sigRegs w.st x.sig).2,
             block := sBlock w.st b (3 * x.dims + 4) }
def execCpf (g : Guard) (t : EType) (d a b : Nat) (x : CopyCtl) (s : State) : Out :=
  engineWord (.cpf g t d a b x) .copy s fun w o =>
    { o with vd := w.st.areg d, va := w.st.su (isPair t) a, vsig := (sigRegs w.st x.sig).1,
             sval := (sigRegs w.st x.sig).2,
             block := sBlock w.st b (3 * x.dims) ++ (match x.map with | some r => sBlock w.st r 2 | none => []) }
def execCpg (g : Guard) (t : EType) (sat : Bool) (d a b : Nat) (x : GridCtl) (s : State) : Out :=
  engineWord (.cpg g t sat d a b x) .copy s fun w o =>
    { o with vd := w.st.areg d, va := w.st.areg a, vsig := (sigRegs w.st x.sig).1, sval := (sigRegs w.st x.sig).2,
             block := sBlock w.st b (4 * x.dims + 1) }
/-- cpw covers the copy-engine operations that its strand issued before it (R288). -/
def execCpw (g : Guard) (sc : Scope) (add : Bool) (d a : Nat) (sp : Bool) (s : State) : Out :=
  engineWord (.cpw g sc add d a sp) .copy s fun w o =>
    let mine := w.s.ops.filter fun x => x.2.unit == .copy && x.2.strand == some w.k && !isCpw x.2.i
    { o with vd := w.st.areg d, sval := w.st.sget a, waits := mine.map Prod.fst }
def execMld (g : Guard) (d a : Nat) (sp : Bool) (s : State) : Out :=
  engineWord (.mld g d a sp) .copy s fun w o => { o with va := w.st.areg a }
def execMst (g : Guard) (t : EType) (sat : Bool) (d a : Nat) (x : MoveCtl) (s : State) : Out :=
  engineWord (.mst g t sat d a x) .copy s fun w o =>
    { o with va := w.st.areg a, vsig := (sigRegs w.st x.sig).1, sval := (sigRegs w.st x.sig).2 }
def execThnd (g : Guard) (d a : Nat) (disp : Int) (s : State) : Out :=
  engineWord (.thnd g d a disp) .copy s fun w o => { o with va := w.st.areg a }

/-! ### Index vectors (R282) -/

def extents (block : List Int) (step dims : Nat) : List Int := (List.range dims).map fun i => block.getD (step * i) 0
def volume (ns : List Int) : Nat := (ns.map Int.toNat).foldl (· * ·) 1
/-- The index vector of element `e`, innermost dimension first. -/
def indexVec : List Nat → Nat → List Nat
  | [], _ => []
  | n :: ns, e => e % n :: indexVec ns (e / n)
/-- Σ x_i · stride_i. -/
def strideSum (xs : List Nat) (strides : List Int) : Int :=
  (List.zipWith (fun (x : Nat) (k : Int) => (x : Int) * k) xs strides).sum

def badExtent (n : Int) : Bool := decide (n < 1) || decide (1594323 < n)

/-! ### Element sources and destinations -/

/-- What an element leaves: a value, host bytes, or nothing, with the source address of its range
exception (R285). -/
inductive EVal where
  | val (x : Int)
  | bytes (a : Nat) (bs : List Nat)
  | keep (hit : Int)

/-- Is a side of a cpt a host pointer? -/
def hostSide (sp : Bool) (ptr : Int) : Bool := !sp && spaceOf ptr == 0

/-- Bytes of stream element `e` of `w` trits: the first byte and how many (R87, R284). -/
def streamSpan (w e : Nat) : Nat × Nat := (w * e / 5, (w * e + w - 1) / 5 - w * e / 5 + 1)

/-- The value of a stream element from its bytes; the last element's pad trits are checked. -/
def streamElem (w e : Nat) (last : Bool) (bs : List Nat) : Option Int :=
  if bs.any (242 < ·) then none
  else
    let u := (bs.zipIdx.map fun (b, i) => b * 243 ^ i).sum / 3 ^ (w * e % 5)
    let pad := u / 3 ^ w
    let n := 5 * bs.length - w * e % 5 - w
    if last && pad != (3 ^ n - 1) / 2 then none else some ((u % 3 ^ w : Nat) - half w)

/-- The bytes of a stream element over what its first byte holds of the elements before it; the trits
after it are written as zero. -/
def streamPut (w e : Nat) (old : Nat) (x : Int) : List Nat :=
  let k := w * e % 5
  let n := (streamSpan w e).2
  let u := old % 3 ^ k + offset x w * 3 ^ k + (3 ^ (5 * n - k - w) - 1) / 2 * 3 ^ (k + w)
  (List.range n).map fun i => u / 243 ^ i % 243

/-- The host bytes that element `e` of a cpt touches. -/
def cptHost (s : State) (o : EngOp) (k : Kind) (t : EType) (x : CopyCtl) (e : Nat) : EngRes (Nat × Nat) :=
  let ns := (extents o.block 3 x.dims).map Int.toNat
  let xs := indexVec ns e
  let srcHost := hostSide x.srcSp o.va
  let base := if srcHost then o.va else o.vd
  if x.option then
    let (b, n) := streamSpan (9 * trytesOf t) e
    (opHost s o base b n 1).map fun a => (a, n)
  else
    let n := kindBytes k t
    let off := strideSum xs (if srcHost then extents (o.block.drop 1) 3 x.dims else extents (o.block.drop 2) 3 x.dims)
    (opHost s o base (n * off) n (kindAlign k t)).map fun a => (a, n)

/-- Checks of R282 to R284 and R148 before the first write: the code of the fault. The bound of R148 is tested on the map's word
alone; `ad` is added when an element is reached, and a word beyond the window is then the protection fault
(DESIGN CHOICE, log 98). A kind that does not list the element type is the illegal-instruction fault for the suffixes of R88 and
the engine-error fault for the control word's kind in R284 and R314; of the two the control word takes the second
(DESIGN CHOICE, log 100). -/
def cptCheck (s : State) (o : EngOp) (t : EType) (x : CopyCtl) : EngRes Unit :=
  let ns := extents o.block 3 x.dims
  let winLen := ((s.weaves.get? o.weave).map (·.len)).getD 0
  let bad : EngRes Unit := .error (12, none)
  if ns.any badExtent then bad
  else
    let srcHost := hostSide x.srcSp o.va
    let dstHost := hostSide x.dstSp o.vd
    let kindBad : Bool := match x.kind with
      | some k => srcHost == dstHost || !WF.kindType k t ||
          (x.option && !(k == .packed && (t == .t9 || t == .t27)))
      | none => x.option
    if kindBad then bad
    else
      match x.map with
      | none => .ok ()
      | some _ =>
        let n (i : Nat) : Nat := (ns.getD i 1).toNat
        match readMap (o.block.getD (3 * x.dims) 0) (o.block.getD (3 * x.dims + 1) 0) with
        | none => bad
        | some m =>
          let inside := (List.range (n 1)).all fun r => (List.range (n 0)).all fun w =>
            decide (m.word (n 2 - 1) r w < winLen)
          if !x.dstSp || t == .p || trytesOf t = 1 || 3 < x.dims || 27 < n 0 || !inside then bad else .ok ()

/-- Destination of element `e` of a cpt or cpf, other than a host side. -/
def cptDst (s : State) (o : EngOp) (t : EType) (x : CopyCtl) (e : Nat) : EngRes Loc :=
  let xs := indexVec ((extents o.block 3 x.dims).map Int.toNat) e
  match x.map with
  | some _ =>
    match readMap (o.block.getD (3 * x.dims) 0) (o.block.getD (3 * x.dims + 1) 0) with
    | none => .error (12, none)
    | some m => (opWindow s o o.vd (m.word (xs.getD 2 0) (xs.getD 1 0) (xs.getD 0 0)) 1).map .win
  | none => locate s o .write x.dstSp t o.vd (strideSum xs (extents (o.block.drop 2) 3 x.dims))

/-- The source address of a ternary element, as a fault names it. -/
def srcAddr (sp : Bool) (t : EType) (base e : Int) : Int :=
  if sp then addrOf base + (if trytesOf t = 1 then e / 3 else if t = .p then 2 * e else e)
  else base + trytesOf t * e

/-- Element `e` of a cpt's source, in elements from its start. -/
def cptOff (o : EngOp) (x : CopyCtl) (e : Nat) : Int :=
  strideSum (indexVec ((extents o.block 3 x.dims).map Int.toNat) e) (extents (o.block.drop 1) 3 x.dims)

/-- The place that element `e` of a cpt reads, but for a host source. -/
def cptSrc (s : State) (o : EngOp) (t : EType) (x : CopyCtl) (e : Nat) : EngRes (List Loc) :=
  if x.kind.isSome && hostSide x.srcSp o.va then .ok []
  else (locate s o .read x.srcSp t o.va (cptOff o x e)).map fun l => [l]

/-- What element `e` of a cpt leaves, from the value at its source (R283 to R285). -/
def cptVal (s : State) (o : EngOp) (t : EType) (sat : Bool) (x : CopyCtl) (e : Nat) (v : Int) : EngRes EVal :=
  let last := e + 1 == volume (extents o.block 3 x.dims)
  let trap := !sat && o.trapOk
  match x.kind with
  | none => .ok (.val v)
  | some k => do
    let (a, n) ← cptHost s o k t x e
    if hostSide x.srcSp o.va then
      let bs := hostBytes s a n
      if x.option then
        match streamElem (9 * trytesOf t) e last bs with
        | some v => return .val v
        | none => throw (7, some (a : Int))
      else
        match fromHost k t bs with
        | .ok v => return .val v
        | .range v => return if trap then .keep a else .val v
        | .bad _ => throw (7, some (a : Int))
    else if x.option then return .bytes a (streamPut (9 * trytesOf t) e (hostByte s a) v)
    else
      match toHost k t v with
      | .ok bs => return .bytes a bs
      | .range bs => return if trap then .keep (srcAddr x.srcSp t o.va (cptOff o x e)) else .bytes a bs
      | .bad _ => throw (7, some (a : Int))

/-! ### cpm (R286) -/

structure Cpm where
  n : Nat
  g : Int
  e : Int
  p : Int
  q : Int

def cpmOf (o : EngOp) (x : CopyCtl) : Cpm :=
  let at_ (j : Nat) : Int := o.block.getD (3 * x.dims + j) 0
  ⟨volume (extents o.block 3 x.dims), at_ 0, at_ 1, at_ 2, at_ 3⟩

/-- Receiver, own slice or common, index vector of element `e`. -/
def cpmAt (c : Cpm) (x : CopyCtl) (e : Nat) : Nat × Bool × Nat :=
  let u := if x.option then 2 * c.n else c.n
  (e / u, decide (c.n ≤ e % u), e % u % c.n)

def cpmDst (s : State) (o : EngOp) (t : EType) (x : CopyCtl) (e : Nat) : EngRes Loc :=
  let c := cpmOf o x
  let (r, own, f) := cpmAt c x e
  let xs := indexVec ((extents o.block 3 x.dims).map Int.toNat) f
  locate s o .write x.dstSp t o.vd
    (strideSum xs (extents (o.block.drop 2) 3 x.dims) + r * c.p + (if own then c.q else 0))

/-- The place that element `e` of a cpm reads: none where the common slice has been read for the first receiver. -/
def cpmSrc (s : State) (o : EngOp) (t : EType) (x : CopyCtl) (e : Nat) : EngRes (List Loc) :=
  let c := cpmOf o x
  let (r, own, f) := cpmAt c x e
  let xs := indexVec ((extents o.block 3 x.dims).map Int.toNat) f
  let so := strideSum xs (extents (o.block.drop 1) 3 x.dims) + (if own then r * c.e else 0)
  if !own && r != 0 then .ok [] else (locate s o .read x.srcSp t o.va so).map fun l => [l]

/-- The common slice with element `e`, and its value, from the value at its source. -/
def cpmVal (o : EngOp) (x : CopyCtl) (common : List Int) (e : Nat) (v : Int) : List Int × Int :=
  let (r, own, f) := cpmAt (cpmOf o x) x e
  if own then (common, v) else if r = 0 then (common.take f ++ [v], v) else (common, common.getD f 0)

def cpmCheck (o : EngOp) (x : CopyCtl) : EngRes Unit :=
  let c := cpmOf o x
  if (extents o.block 3 x.dims).any badExtent || decide (c.g < 1) || decide (27 < c.g) then .error (12, none)
  else .ok ()

/-! ### cpg (R145, R146, R289 to R292) -/

/-- A dimension of the weight table (R145): exponent, centre, numerators. -/
structure Taps where
  exp : Int
  centre : Nat
  nums : List Int

/-- A dimension's entry. R145 gives the taps index the values 0 to 8 and names no fault for 9 to 26: none here, which
makes it the engine-error fault (DESIGN CHOICE, log 77). -/
def readTaps (w0 w1 w2 w3 : Int) : Option Taps :=
  let n := idx w0 19 3 + 1
  let c := idx w0 16 3
  if 9 < n ∨ n ≤ c ∨ sgd w0 0 16 ≠ 0 then none
  else some ⟨sgd w0 22 5, c, ([w1, w2, w3].flatMap wordTrytes).take n⟩

/-- The window words of the table of a cpg's dimensions. -/
def tableLocs (s : State) (o : EngOp) (dims : Nat) : List Loc :=
  match opWindow s o (o.block.getD (4 * dims) 0) 0 12 with
  | .ok j => (List.range (4 * dims)).map fun i => .win (j + i)
  | .error _ => []

/-- The table of the operation's dimensions, read from its window index, and read again for every element and every line:
R145 and R290 do not say when it is read (DESIGN CHOICE, log 103). A field outside its values, an index of 9 to
26 for the taps among them, is the engine-error fault (log 77). -/
def tableOf (s : State) (o : EngOp) (dims : Nat) : EngRes (List Taps) := do
  let j ← opWindow s o (o.block.getD (4 * dims) 0) 0 12
  (List.range dims).mapM fun i => do
    let w (n : Nat) : EngRes Int := opWord s o (j + 4 * i + n)
    match readTaps (← w 0) (← w 1) (← w 2) (← w 3) with
    | some t => return t
    | none => throw (12, none)

def cpgOut (o : EngOp) (x : GridCtl) : List Int :=
  extents (if x.mode = .restrict then o.block else o.block.drop 1) 4 x.dims
def cpgIn (o : EngOp) (x : GridCtl) : List Int :=
  extents (if x.mode = .restrict then o.block.drop 1 else o.block) 4 x.dims
def cpgOutStride (o : EngOp) (x : GridCtl) : List Int :=
  extents (if x.mode = .restrict then o.block.drop 2 else o.block.drop 3) 4 x.dims
def cpgInStride (o : EngOp) (x : GridCtl) : List Int :=
  extents (if x.mode = .restrict then o.block.drop 3 else o.block.drop 2) 4 x.dims

/-- Tap combinations, the first dimension's tap innermost. -/
def tapCombos : List Taps → List (List Nat)
  | [] => [[]]
  | t :: ts => (tapCombos ts).flatMap fun js => (List.range t.nums.length).map fun j => j :: js

/-- The input index of one dimension (R146, R291); none where no point pairs. -/
def inputIndex (restrict : Bool) (sigma : Int) (p j c : Nat) : Option Int :=
  if restrict then some (sigma * p + j - c)
  else
    let d : Int := p - j + c
    if d % sigma = 0 then some (d / sigma) else none

/-- Boundary modes (R292): none where the term is 0. -/
def resolve (b : Boundary) (n q : Int) : Option Int :=
  if 0 ≤ q ∧ q < n then some q
  else
    match b with
    | .zero => none
    | .clamp => some (max 0 (min (n - 1) q))
    | .halo => some q

/-- A grid element as an exact value. -/
def gridVal (t : EType) (w : Int) : FVal :=
  match etypeFloat t with
  | some f => fdecode (fmtOf f) (narrowTo t w)
  | none => .fin (narrowTo t w) 0

/-- All results of a list of optional values, or none at the first that is missing. -/
def allSome {α : Type} (xs : List (Option α)) : Option (List α) := xs.mapM id

/-- The terms of element `e` of a cpg: the weight of each input element that pairs with it, and where it lies (R146,
R291, R292). -/
def cpgTerms (s : State) (o : EngOp) (x : GridCtl) (e : Nat) : EngRes (List (FVal × Loc)) := do
  let taps ← tableOf s o x.dims
  let p := indexVec ((cpgOut o x).map Int.toNat) e
  let sigma (i : Nat) : Int := if x.stride.getD i false then 3 else 1
  let terms ← (tapCombos taps).mapM fun js => do
    let qs := allSome ((List.range x.dims).map fun i =>
      (inputIndex (x.mode == .restrict) (sigma i) (p.getD i 0) (js.getD i 0) ((taps.getD i ⟨0, 0, []⟩).centre)).bind fun q =>
        resolve x.boundary ((cpgIn o x).getD i 1) q)
    match qs with
    | none => return []
    | some qv =>
      let l ← locate s o .read x.srcSp x.src o.va (qv.zipWith (· * ·) (cpgInStride o x)).sum
      let num := ((List.range x.dims).map fun i => (taps.getD i ⟨0, 0, []⟩).nums.getD (js.getD i 0) 0).foldl (· * ·) 1
      return [(FVal.fin num ((taps.map (·.exp)).sum), l)]
  return terms.flatten

/-- The places that element `e` of a cpg reads: its own, where it is added to, then those of its terms. -/
def cpgSrc (s : State) (o : EngOp) (t : EType) (x : GridCtl) (e : Nat) : EngRes (List Loc) := do
  let ts ← cpgTerms s o x e
  if x.mode = .prolongAdd then
    let p := indexVec ((cpgOut o x).map Int.toNat) e
    let l ← locate s o .read x.dstSp t o.vd (strideSum p (cpgOutStride o x))
    return l :: ts.map Prod.snd
  else return ts.map Prod.snd

/-- The value of element `e` of a cpg, from the values at its places. -/
def cpgVal (s : State) (o : EngOp) (t : EType) (sat : Bool) (x : GridCtl) (e : Nat) (vs : List Int) : EngRes EVal := do
  let ts ← cpgTerms s o x e
  let add := x.mode == .prolongAdd
  let old : List (List FVal) := if add then [[gridVal t (vs.headD 0)]] else []
  let all := old ++ List.zipWith (fun (y : FVal × Loc) (v : Int) => [y.1, gridVal x.src v]) ts (if add then vs.drop 1 else vs)
  match etypeFloat t with
  | some f => return .val (fsum (fmtOf f) sat all).w
  | none =>
    let n := 9 * trytesOf t
    match sumGroup all with
    | .val (.fin m g) => return .val (saturate (nearestInt m g) n).w
    | .val (.inf sg) => return .val (sg * half n)
    | _ => return .val 0

def cpgDst (s : State) (o : EngOp) (t : EType) (x : GridCtl) (e : Nat) : EngRes Loc :=
  locate s o .write x.dstSp t o.vd (strideSum (indexVec ((cpgOut o x).map Int.toNat) e) (cpgOutStride o x))

def cpgCheck (s : State) (o : EngOp) (x : GridCtl) : EngRes Unit :=
  if (cpgOut o x).any badExtent || (cpgIn o x).any badExtent then .error (12, none)
  else (tableOf s o x.dims).map fun _ => ()

/-! ### mst (R306) -/

def tileOf (s : State) (o : EngOp) (d : Nat) : Option Tile :=
  (o.strand.bind s.strands.get?).bind fun st => st.tiles.get? d
/-- Attribute fields (R53). -/
def attrFmt (w : Int) : Nat := idx w 24 3
def attrDom (w : Int) : Nat := idx w 22 2
def attrBlk (w : Int) : Nat := idx w 20 2
def attrScale (w : Int) : Int := sgd w 15 5

/-- The format that a tile and a type give a stored tile, and how many planes; none where they do not
pair. -/
def mstFmt (attr : Int) (d : Nat) (t : EType) : Option Nat :=
  match attrFmt attr, t with
  | 0, .t27 => some 3
  | 0, .t9 => some 2
  | 1, .f27 => some 5
  | 1, .f9 => some 4
  | 2, .f27 => if d % 2 = 0 then some 7 else none
  | 2, .f9 => if d % 2 = 0 then some 6 else none
  | _, _ => none

/-- The descriptor of an mst, or the domain-mismatch fault, which R306 gives for every pairing that it does not list:
taken here too for a real plane whose imaginary plane is undeclared (DESIGN CHOICE, log 77). -/
def mstDesc (s : State) (o : EngOp) (d : Nat) (t : EType) (x : MoveCtl) : EngRes Desc :=
  match tileOf s o d with
  | none => .error (8, none)
  | some tl =>
    match mstFmt tl.attr d t with
    | none => .error (8, none)
    | some f =>
      let w : Desc := { fmt := f, spectral := attrDom tl.attr == 1,
                        block := if attrBlk tl.attr = 0 then 0 else attrBlk tl.attr + 1,
                        scale := attrScale tl.attr, half_ := x.half, rows := x.rows, cols := x.cols }
      if (fmtComplex f && (tileOf s o (d + 1)).isNone) || 1 < attrDom tl.attr || 4 < attrBlk tl.attr then .error (8, none)
      else
        match checkDesc (descWord w) with
        | .ok _ => .ok w
        | .error _ => .error (8, none)

/-- A tile word as an element of the stored tile. -/
def mstElem (f : Nat) (sat : Bool) (w : Int) : Int :=
  match f with
  | 2 => if sat then (saturate w 9).w else wrapVal w 9
  | 4 | 6 =>
    match fdecode fmt27 w with
    | .nan p y => (resNan fmt9 p y).w
    | .inf sg => (resInf fmt9 sg).w
    | .fin m e => (trunc (exactOf m e) fmt9 sat).1
  | _ => w

/-- Word `e` of the stored tile that an mst writes. -/
def mstWord (s : State) (o : EngOp) (d : Nat) (sat : Bool) (ds : Desc) (e : Nat) : Int :=
  if e = 0 then descWord ds
  else
    let m := perWord ds.fmt
    let pl := (e - 1) / ds.planeWords
    let w := (e - 1) % ds.planeWords
    let tl := (tileOf s o (d + pl)).getD {}
    packElems (fmtTrits ds.fmt) ((List.range m).map fun k =>
      let p := m * w + k
      if ds.rows * ds.cols ≤ p then 0
      else mstElem ds.fmt sat (tl.w.get (27 * (p / ds.cols) + p % ds.cols)))

/-! ### mld (R305) -/

/-- The place of word `e` of a stored tile at a side (R129). -/
def sideLoc (s : State) (o : EngOp) (want : Want) (sp : Bool) (base : Int) (e : Nat) : EngRes Loc :=
  locate s o want sp .t27 base e

/-- Word `e` of a stored tile at a side. -/
def sideWord (r : LineOut) (o : EngOp) (sp : Bool) (base : Int) (e : Nat) : EngRes Int := do
  readLoc r o (← sideLoc r.s o .read sp base e)

/-- The descriptor at an operation's source, checked (R130). A domain-mismatch names its address. -/
def readDesc (r : LineOut) (o : EngOp) (sp : Bool) (base : Int) : EngRes Desc := do
  let w ← sideWord r o sp base 0
  match checkDesc w with
  | .ok d => return d
  | .error c => throw (c, if c = 8 then some (if sp then addrOf base else base) else none)

/-- The descriptor that an operation has read, or reads now. -/
def keptDesc (r : LineOut) (o : EngOp) (sp : Bool) (base : Int) : EngRes Desc :=
  match o.common with
  | w :: _ => (checkDesc w).mapError fun c => (c, none)
  | [] => readDesc r o sp base

/-- A T9F value as a T27F word, exactly (R79). -/
def widen (w : Int) : Int := (resVal fmt27 (fdecode fmt9 w)).w

/-- The words of row `i` of both planes of a stored tile. -/
def rowWords (ds : Desc) (i : Nat) : List Nat :=
  let m := perWord ds.fmt
  let from_ := i * ds.cols / m
  let to_ := (i * ds.cols + ds.cols - 1) / m
  (List.range ds.planes).flatMap fun pl => (List.range (to_ + 1 - from_)).map fun k => 1 + pl * ds.planeWords + from_ + k

/-- Element (i, j) of plane `pl` of a stored tile, converted for the accumulator. -/
def mldElem (r : LineOut) (o : EngOp) (sp : Bool) (ds : Desc) (pl i j : Nat) : EngRes Int := do
  let m := perWord ds.fmt
  let e := i * ds.cols + j
  let w ← sideWord r o sp o.va (1 + pl * ds.planeWords + e / m)
  let x := if m = 1 then w else elem (fmtTrits ds.fmt) w (e % m)
  return if ds.fmt = 4 ∨ ds.fmt = 6 then widen x else x

def accFmt (f : Nat) : Nat := if f ≤ 3 then 0 else if f ≤ 5 then 1 else 2

/-- An attribute word from its fields, written, with the sticky trits given (R53). -/
def attrWord (fmt dom blk : Nat) (scale : Int) (written : Bool) (ovf nan rerun : Int) : Int :=
  ((fmt : Int) - 13) * 3 ^ 24 + ((dom : Int) - 4) * 3 ^ 22 + ((blk : Int) - 4) * 3 ^ 20 + scale * 3 ^ 15 +
    (if written then 27 else 0) + 9 * ovf + 3 * nan + rerun

def putTile (s : State) (k d : Nat) (t : Tile) : State :=
  s.modStrand k fun st => if (st.tiles.get? d).isSome then { st with tiles := st.tiles.put d t } else st

/-- The checks of mld on a descriptor. R305 asks for an even tile with its partner for a complex one and names no
fault: it is the engine-error fault here (DESIGN CHOICE, log 77). -/
def mldCheck (s : State) (o : EngOp) (d : Nat) (ds : Desc) : EngRes Unit :=
  if 32 < ds.rows ∨ 27 < ds.cols ∨ (fmtComplex ds.fmt ∧ (d % 2 = 1 ∨ (tileOf s o (d + 1)).isNone)) then
    .error (12, none)
  else .ok ()

/-- The rows of a tile's planes at `i` written; the first row clears the rest of the tile, and no word of it is in the
invalid state any more (R47). -/
def putRow (s : State) (o : EngOp) (d : Nat) (ds : Desc) (i : Nat) (rows : List (List Int)) : State :=
  let dom := if ds.spectral then 1 else 0
  let blk := if ds.block = 0 then 0 else ds.block - 1
  let put (s : State) (pl : Nat) : State :=
    match o.strand, tileOf s o (d + pl) with
    | some k, some t =>
      let w0 : Cells := if i = 0 then [] else t.w
      let attr := attrWord (accFmt ds.fmt + pl) dom blk ds.scale true 0 0 0
      if (s.strands.get? k).any fun st => (st.thread i).present then
        putTile s k (d + pl) { attr, w := w0.putRun (27 * i) (rows.getD pl []) }
      else putTile s k (d + pl) { attr, w := w0 }
    | _, _ => s
  let s1 := (List.range ds.planes).foldl put s
  match o.strand with
  | some k => s1.modStrand k fun st =>
      { st with bad := st.bad.filter fun b => b.cls != clsM || !(List.range ds.planes).any fun pl => b.idx == d + pl }
  | none => s1

/-- The results up to the first that stops, and what stopped it. -/
def beforeStop {α : Type} : List (EngRes α) → List α × Option (Nat × Option Int)
  | [] => ([], none)
  | .error e :: _ => ([], some e)
  | .ok x :: xs => let r := beforeStop xs; (x :: r.1, r.2)

/-- Nothing of what was asked for is needed any more. -/
def clearGot (s : State) (n : Nat) : State :=
  { s.modOp n (fun x => { x with got := [] }) with
    accs := s.accs.filter fun a => !(a.eng.isSome && a.group == n) }

/-- mld: the descriptor is read and checked once, before any row (R130); then one row of the tile, of which an element that
faults leaves those before it written (R314). What lies on another die is asked for first. -/
def mldRow (s : State) (n : Nat) (o : EngOp) (d : Nat) (sp : Bool) : EngRes State := do
  let r := LineOut.of s n o
  if o.common.isEmpty then
    let l ← sideLoc s o .read sp o.va 0
    match wantsPull s n o [l] with
    | some s1 => return s1
    | none =>
      let ds ← readDesc r o sp o.va
      mldCheck s o d ds
      return (clearGot (fillPages (noteReads s o [l]) o 3 [o.va]) n).modOp n fun x =>
        { x with common := [descWord ds], phase := .active }
  else
    let ds ← keptDesc r o sp o.va
    let i := o.prog / ds.cols
    let ls := (beforeStop ((rowWords ds i).map fun e => sideLoc s o .read sp o.va e)).1
    match wantsPull s n o ls with
    | some s1 => return s1
    | none =>
      let elems := (List.range ds.planes).flatMap fun pl => (List.range ds.cols).map fun j => mldElem r o sp ds pl i j
      let (vs, stop) := beforeStop elems
      let rows := (List.range ds.planes).map fun pl => (vs.drop (pl * ds.cols)).take ds.cols
      let p := o.prog + ds.cols
      let done (s : State) : State := clearGot (putRow (noteReads s o ls) o d ds i rows) n
      match stop with
      | some (0, a) => throw (0, a)
      | some e => return opStop ((done s).modOp n fun x => { x with phase := .active }) n o e
      | none => return (done s).modOp n fun x =>
          { x with prog := p, phase := if p = ds.rows * ds.cols then .written else .active }

/-! ### Lines (R377) -/

/-- Elements of an operation in copy order. -/
def copyTotal (s : State) (o : EngOp) : Nat :=
  match o.i with
  | .cpt _ _ _ _ _ _ x => volume (extents o.block 3 x.dims)
  | .cpf _ _ _ _ _ x => volume (extents o.block 3 x.dims)
  | .cpm _ _ _ _ _ x => (cpmOf o x).g.toNat * (cpmOf o x).n * (if x.option then 2 else 1)
  | .cpg _ _ _ _ _ _ x => volume (cpgOut o x)
  | .mst _ t _ d _ x => match mstDesc s o d t x with | .ok ds => ds.words | .error _ => 0
  | _ => 0

/-- Checks made before the first write. -/
def copyCheck (s : State) (o : EngOp) : EngRes Unit :=
  match o.i with
  | .cpt _ t _ _ _ _ x => cptCheck s o t x
  | .cpf _ t _ _ _ x => cptCheck s o t x
  | .cpm _ _ _ _ _ x => cpmCheck o x
  | .cpg _ _ _ _ _ _ x => cpgCheck s o x
  | .mst _ t _ d _ x => (mstDesc s o d t x).map fun _ => ()
  | _ => .ok ()

def elemType (i : Instr) : EType :=
  match i with
  | .cpt _ t _ _ _ _ _ | .cpm _ t _ _ _ _ | .cpg _ t _ _ _ _ _ | .cpf _ t _ _ _ _ => t
  | _ => .t27

def copyDst (s : State) (o : EngOp) (e : Nat) : EngRes Loc :=
  match o.i with
  | .cpt _ t _ _ _ _ x =>
    match x.kind with
    | some k =>
      if hostSide x.dstSp o.vd then (cptHost s o k t x e).map fun r => .host r.1 r.2 else cptDst s o t x e
    | none => cptDst s o t x e
  | .cpf _ t _ _ _ x => cptDst s o t x e
  | .cpm _ t _ _ _ x => cpmDst s o t x e
  | .cpg _ t _ _ _ _ x => cpgDst s o t x e
  | .mst _ _ _ _ _ x => locate s o .write x.sp .t27 o.va e
  | _ => .error (12, none)

/-- What an element reads beside the places of its values: the stencil-weight table of a cpg. -/
def copyTable (s : State) (o : EngOp) : List Loc :=
  match o.i with
  | .cpg _ _ _ _ _ _ x => tableLocs s o x.dims
  | _ => []

/-- The places that an element reads. -/
def copySrc (s : State) (o : EngOp) (e : Nat) : EngRes (List Loc) :=
  match o.i with
  | .cpt _ t _ _ _ _ x => cptSrc s o t x e
  | .cpm _ t _ _ _ x => cpmSrc s o t x e
  | .cpg _ t _ _ _ _ x => cpgSrc s o t x e
  | _ => .ok []

/-- What an element leaves, from the values at the places it reads. -/
def copyVal (s : State) (o : EngOp) (common : List Int) (e : Nat) (vs : List Int) : EngRes EVal :=
  match o.i with
  | .cpt _ t sat _ _ _ x => cptVal s o t sat x e (vs.headD 0)
  | .cpf _ t _ _ _ _ => .ok (.val (narrowTo t o.va))
  | .cpm _ _ _ _ _ x => .ok (.val (cpmVal o x common e (vs.headD 0)).2)
  | .cpg _ t sat _ _ _ x => cpgVal s o t sat x e vs
  | .mst _ t sat d _ x => (mstDesc s o d t x).map fun ds => .val (mstWord s o d sat ds e)
  | _ => .error (12, none)

/-- A cpm's common slice with an element's value. -/
def copyCommon (o : EngOp) (common : List Int) (e : Nat) (v : Int) : List Int :=
  match o.i with
  | .cpm _ _ _ _ _ x => (cpmVal o x common e v).1
  | _ => common

/-- The group a destination belongs to: a home line, a 27-word span of the window or a tile of a
region, or as many elements as a line holds for a host side. -/
def lineKey (o : EngOp) (e : Nat) (l : Loc) : Nat × Nat :=
  match l with
  | .dev _ ks _ => (0, lineOf ((ks.map Prod.fst).headD 0))
  | .win j | .tryte j _ | .pair j => spanKey o j
  | .host _ _ => (2, e / (81 / trytesOf (elemType o.i)))

/-- The host bytes that an element needs translated and are not: the first such byte. -/
def hostWants (s : State) (o : EngOp) (e : Nat) : Option (Nat × Bool) :=
  match o.i with
  | .cpt _ t _ _ _ _ x =>
    match x.kind with
    | none => none
    | some k =>
      match cptHost s o k t x e with
      | .error _ => none
      | .ok (a, n) =>
        let wr := hostSide x.dstSp o.vd
        let p := (pasidOf s o.ctx).getD 0
        if !atsGrants s o.die p wr a then some (a, wr)
        else if !atsGrants s o.die p wr (a + n - 1) then some (a + n - 1, wr) else none
  | _ => none

/-- How a run of elements ended: the line is over, a host translation is missing, or an element stopped. -/
inductive RunEnd where
  | done
  | wants (a : Nat) (write : Bool)
  | stopped (code : Nat) (addr : Option Int)

/-- The elements of a line so far: what is written, what other dies must still be asked for, the next element, the
values and the elements left unwritten, as a line buffer holds them. -/
structure Run where
  out : LineOut
  e : Nat
  hit : Option Int
  common : List Int
  needs : List (Int × List Place) := []
  vals : List Int := []
  skips : List Nat := []
  stop : RunEnd := .done

/-- The host bytes that element `e` reads are captured, whatever becomes of it. -/
def captureElem (s : State) (o : EngOp) (e : Nat) : State :=
  match o.i with
  | .cpt _ t _ _ _ _ x =>
    match x.kind with
    | some k =>
      if hostSide x.srcSp o.va then
        match cptHost s o k t x e with
        | .ok (a, n) => capture s o.ctx ⟨.element, e, hostBytes s a n⟩
        | .error _ => s
      else s
    | none => s
  | _ => s

def Loc.ptr? : Loc → Option Int
  | .dev p _ _ => some p
  | _ => none

/-- One element: its value from the line buffer, where one was brought back (R379), or read after every earlier
element is written (R283). -/
def runElem (o : EngOp) (r : Run) (l : Loc) (buf : Option Int) : Run :=
  match buf with
  | some x =>
    if o.skips.contains r.e then { r with e := r.e + 1, skips := r.skips ++ [r.e] }
    else if let some j := lostAt r.out.s o l then { r with stop := .stopped 7 (some j) }
    else if let .host _ _ := l then
      match copyVal r.out.s o r.common r.e [x] with
      | .ok (.bytes a bs) => { r with out := { r.out with s := writeHost r.out.s a bs }, e := r.e + 1, vals := r.vals ++ [x] }
      | .ok (.keep a) => { r with e := r.e + 1, hit := r.hit.or (some a), skips := r.skips ++ [r.e] }
      | .ok (.val _) => { r with e := r.e + 1 }
      | .error (c, a) => { r with stop := .stopped c a }
    else { r with out := r.out.write o l x, e := r.e + 1, vals := r.vals ++ [x], common := copyCommon o r.common r.e x }
  | none =>
    match copySrc r.out.s o r.e with
    | .error (c, a) => { r with stop := .stopped c a }
    | .ok ls =>
      let missing := ls.flatMap r.out.missing
      if !missing.isEmpty then { r with e := r.e + 1, needs := r.needs ++ missing }
      else
        let s1 := captureElem (noteReads r.out.s o (ls ++ copyTable r.out.s o)) o r.e
        let got := ls.mapM (readLoc r.out o)
        let out := { r.out with s := s1, ptrs := ls.filterMap Loc.ptr? ++ r.out.ptrs }
        match got.bind (copyVal s1 o r.common r.e) with
        | .error (c, a) => { r with out, stop := .stopped c a }
        | .ok (.val x) =>
          if let some j := lostAt s1 o l then { r with out, stop := .stopped 7 (some j) }
          else { r with out := out.write o l x, e := r.e + 1, vals := r.vals ++ [x], common := copyCommon o r.common r.e x }
        | .ok (.bytes a bs) =>
          { r with out := { out with s := writeHost s1 a bs }, e := r.e + 1, vals := r.vals ++ got.toOption.toList.flatMap (·.take 1) }
        | .ok (.keep a) => { r with out, e := r.e + 1, hit := r.hit.or (some a), skips := r.skips ++ [r.e] }

/-- Elements that a line buffer holds. -/
def bufferRoom (t : EType) : Nat := 81 / trytesOf t

/-- The state with every link past its retraining, in which a destination is found that still has to wait for one. -/
def State.calm (s : State) : State := { s with links := s.links.map fun x => (x.1, { x.2 with retraining := false }) }

/-- The elements of one line, as many as a line buffer holds; and on to the end of a region's tile that they have begun,
since a write port takes whole tiles (R142; log 83). `dry` looks for what the line is to write alone: its destinations, and
their translations, need not be at hand (R379). -/
def runLine (o : EngOp) (total : Nat) (key : Nat × Nat) (dry : Bool) : Nat → List Int → Run → Run
  | 0, _, r => r
  | fuel + 1, buf, r =>
    if total ≤ r.e then r
    else
      match copyDst (if dry then r.out.s.calm else r.out.s) o r.e with
      | .error (c, a) => { r with stop := .stopped c a }
      | .ok l =>
        let tiles := r.out.openTiles o
        let here := lineKey o r.e l
        if !(here == key || tiles.contains here) || (tiles.isEmpty && decide (bufferRoom (elemType o.i) ≤ r.e - o.prog)) then r
        else
          match if dry then none else hostWants r.out.s o r.e with
          | some (a, wr) => { r with stop := .wants a wr }
          | none =>
            let skip := o.skips.contains r.e
            let r1 := runElem o r l (if o.buffer.isSome then some (if skip then 0 else buf.headD 0) else none)
            match r1.stop with
            | .done => runLine o total key dry fuel (if skip then buf else buf.drop 1) r1
            | _ => r1

/-- Values of a line buffer by element (R329, R379). -/
def bufferElems (t : EType) (ws : List Int) : List Int :=
  if trytesOf t = 1 then ws.flatMap wordTrytes
  else if t = .p then (chunks 2 ws.length ws).map fun c => pairOf (c.getD 0 0) (c.getD 1 0)
  else ws
/-- The 27 words of a line buffer that holds these values. -/
def bufferWords (t : EType) (vs : List Int) : List Int :=
  let ws := if trytesOf t = 1 then (chunks 3 vs.length vs).map (packElems 9)
    else if t = .p then vs.flatMap fun v => [loWord v, hiWord v] else vs
  (List.range 27).map fun i => ws.getD i 0

/-- A line's writes are over: the next element, or the end. -/
def endLine (s : State) (n : Nat) (o : EngOp) (next total : Nat) : State :=
  noteMove (s.modOp n fun x =>
    { x with prog := next, phase := if next = total then .written else .active, buffer := none, skips := [], upTo := 0 }) n o

/-- What an operation is to write for its line is kept in its buffer (R329, R379). -/
def keepLine (s : State) (n : Nat) (o : EngOp) (r : Run) : State :=
  s.modOp n fun x => { x with hit := r.hit, common := r.common, skips := r.skips, upTo := r.e,
                              buffer := some (bufferWords (elemType o.i) r.vals) }

/-- The writes of a line, after every read of it (R377): those on the die now; if others go to another die the
line ends with their acknowledgements, and what it holds is kept till then (R379). A tile that cannot be written stops
the line, with what was written before it. -/
def commitLine (n : Nat) (o : EngOp) (r : Run) (total : Nat) : State × Option (Nat × Option Int) :=
  match r.out.flush o with
  | (s0, some e) => (s0, some e)
  | (s0, none) =>
    let s1 := clearGot (fillPages s0 o (trytesOf (elemType o.i)) r.out.ptrs.eraseDups) n
    match r.out.stores n o with
    | [] => (endLine (s1.modOp n fun x => { x with hit := r.hit, common := r.common }) n o r.e total, none)
    | as => (request ((keepLine s1 n o r).modOp n fun x => { x with phase := .writing r.e }) n o as, none)

/-- One line of an element-wise operation. What it must read of other dies is asked for first; an element that stops
the line, or waits for a host translation, lets the elements before it be written. Of a region's tile that an element's own
fault leaves half gathered nothing is written, since R142 allows no part of a tile; whole tiles before it are written, and the
fault is the element's (DESIGN CHOICE, log 102). -/
def lineStep (s : State) (n : Nat) (o : EngOp) : State :=
  let total := copyTotal s o
  let stop := if o.buffer.isSome && o.upTo != 0 then min o.upTo total else total
  match (do copyCheck s o; copyDst s o o.prog : EngRes Loc) with
  | .error e => opStop s n o e
  | .ok l =>
    let buf := (o.buffer.map (bufferElems (elemType o.i))).getD []
    let r := runLine o stop (lineKey o o.prog l) false (stop - o.prog) buf
      { out := LineOut.of s n o, e := o.prog, hit := o.hit, common := o.common }
    if !r.needs.isEmpty then (pull s n o r.needs).modOp n fun x => { x with phase := .active }
    else
      match r.stop with
      | .wants a wr =>
        if r.e = o.prog ∨ !(r.out.openTiles o).isEmpty then s.modOp n fun x => { x with phase := .host a wr false }
        else
          match commitLine n o r total with
          | (s1, some e) => opStop s1 n o e
          | (s1, none) => s1
      | .done =>
        match commitLine n o r total with
        | (s1, some e) => opStop s1 n o e
        | (s1, none) => s1
      | .stopped c a =>
        if c = 0 then s
        else if r.e = o.prog then opStop r.out.s n o (c, a)
        else
          match commitLine n o r total with
          | (s1, some _) => opStop s1 n o (c, a)
          | (s1, none) => if r.out.sent.isEmpty then opStop s1 n { o with prog := r.e } (c, a) else s1

/-- A line whose reads are all back and whose writes still wait, for a host translation or a link, as the skid ends: what it
is to write goes into its buffer (R379). Elements after one that cannot be found are left to the next line. -/
def saveLine (s : State) (n : Nat) (o : EngOp) : State :=
  if o.got.isEmpty || o.buffer.isSome then s
  else
    let total := copyTotal s o
    match (do copyCheck s o; copyDst s.calm o o.prog : EngRes Loc) with
    | .error _ => s
    | .ok l =>
      let r := runLine o total (lineKey o o.prog l) true (total - o.prog) []
        { out := LineOut.of s n o, e := o.prog, hit := o.hit, common := o.common }
      if !r.needs.isEmpty || r.vals.isEmpty then s else keepLine s n o r

/-- Does an operation read or write host space? -/
def usesHost (o : EngOp) : Bool :=
  match o.i with
  | .cpt _ _ _ _ _ _ x => x.kind.isSome
  | _ => false

/-- The host address of the next element, which a link that is down cuts off (R318, R392). -/
def hostAddr (s : State) (o : EngOp) : Option Int :=
  match o.i with
  | .cpt _ t _ _ _ _ x =>
    x.kind.bind fun k => ((cptHost s o k t x o.prog).toOption).map fun r => (r.1 : Int)
  | _ => none

/-- The next line of an operation of the copy engine, or the next row of an mld. -/
def copyLine (s : State) (n : Nat) (o : EngOp) : State :=
  if usesHost o && ioDown s o.die then opFault s n o 7 (hostAddr s o)
  else
    match o.i with
    | .thnd .. => s
    | .mld _ d _ sp =>
      match mldRow s n o d sp with
      | .error e => opStop s n o e
      | .ok s1 => tookTurn (noteMove s1 n o) n o
    | _ => tookTurn (lineStep s n o) n o

/-- COPY_LINE (R283, R377): one line of an active operation whose turn it is. -/
def execCopyLine (op : Nat) (s : State) : Out :=
  match s.ops.get? op with
  | none => .next s
  | some o =>
    if o.unit != .copy || !hasLine s op o || !copyTurn s op o || (usesHost o && ioWaits s o.die) then .next s
    else .next (copyLine s op o)

/-- A line that was in hand as a halt began, all its reads back, is done by the end of the skid (R379). -/
def finishLine (s : State) (n : Nat) : State :=
  match s.ops.get? n with
  | none => s
  | some o =>
    if o.unit == .copy && hasLine s n o && lineBegun s n o && !(usesHost o && ioWaits s o.die) then copyLine s n o else s

/-! ### Completion (R283, R285, R288, R305, R309) -/

/-- The range trap of a cpt that met range exceptions (R285). -/
def cptTrap (s : State) (o : EngOp) : State :=
  match o.i, o.hit, o.strand with
  | .cpt _ _ _ _ _ _ x, some a, some k =>
    let detail : Int := ((x.kind.map kindIndex).getD 0 : Nat)
    s.modStrand k fun st => { raiseTrap st (causeWord 3 detail) o.lanes with faultAddr := a }
  | _, _, _ => s

/-- An operation whose last write has been performed is complete. -/
def opEnd (s : State) (n : Nat) (o : EngOp) : State := opDone (cptTrap s o) n o

/-- What a signal write leaves: the operation complete, or the write under way to another die. -/
def afterSignal (n : Nat) (o : EngOp) (r : State × Bool) : State := if r.2 then opEnd r.1 n o else r.1

/-- thnd: the descriptor is read and checked, and the handle written; the answer says whether it is. -/
def thndStep (s : State) (n : Nat) (o : EngOp) (d : Nat) (disp : Int) : EngRes (State × Bool) := do
  let l ← opDevice s o .read o.va (3 * disp) 3
  match wantsPull s n o [l] with
  | some s1 => return (s1.modOp n fun x => { x with phase := .active }, false)
  | none =>
    let w ← readLoc (LineOut.of s n o) o l
    let ptr := o.va + 3 * disp
    match checkDesc w with
    | .error c => throw (c, if c = 8 then some ptr else none)
    | .ok _ =>
      let s1 := fillPages (noteReads s o [l]) o 3 [ptr]
      match o.strand with
      | some k => return (s1.modStrand k fun st => (st.sputPair d (makeHandle w ptr)).validPair d, true)
      | none => return (s1, true)

/-- COPY_COMPLETE: the last writes of an operation, its signal, its flag. A cpw waits for the
operations it covers. -/
def execCopyComplete (op : Nat) (s : State) : Out :=
  match s.ops.get? op with
  | none => .next s
  | some o =>
    if o.unit != .copy || !opRuns s op o || o.phase == .signalling then .next s
    else
      let fin (r : EngRes (State × Bool)) : Out :=
        match r with
        | .error e => .next (opStop s op o e)
        | .ok r => .next (afterSignal op o r)
      match o.i with
      | .thnd _ d _ disp => if copyTurn s op o then fin (thndStep s op o d disp) else .next s
      | .cpw _ _ add _ _ sp =>
        if o.waits.any fun n => (s.ops.get? n).isSome then .next s else fin (writeSignal s op o add sp o.vd o.sval)
      | _ => if o.phase != .written then .next s else fin (signalStep s op o)

/-! ### Answers of other dies (R379, R393) -/

/-- Every request of an operation has its answer: what was read is at hand, a failed read is left for the element
that needs it; a line or a signal that was written is done, or its fault is raised. -/
def engineLand (s : State) (n : Nat) : State :=
  match s.ops.get? n with
  | none => s
  | some o =>
    let mine := s.accs.filter fun a => a.eng.isSome && a.group == n
    if mine.isEmpty || !mine.all accDone then s
    else
      let s1 := { s with accs := s.accs.filter fun a => !(a.eng.isSome && a.group == n) }
      let bad := mine.findSome? accFailed
      match o.phase with
      | .writing next =>
        match bad with
        | some (a, c) => opFault s1 n o c (some a.addr)
        | none =>
          -- output words before one that faults are written; that one is tried next
          if o.unit = .transform ∧ o.upTo ≠ 0 then noteMove (s1.modOp n fun x => { x with phase := .active }) n o
          else endLine s1 n o next (if o.unit = .transform then next else copyTotal s o)
      | .signalling =>
        match bad with
        | some (a, c) => opFault s1 n o c (some a.addr)
        | none => opEnd s1 n o
      | _ =>
        let got := (mine.filter fun a => (accFailed a).isNone).map fun a => a.split.zip a.result
        { s1 with accs := s1.accs ++ mine.filter fun a => (accFailed a).isSome }.modOp n fun x =>
          { x with got := x.got ++ got }

end Sys2Proof.Machine
end

