-- ==== Sys2Proof/Machine/Transform.lean ====
section
/-!
DEFINITION. The transform unit: xff, xfi and its two events (R132 to R137, R293, R294, R380, R381).
-/
namespace Sys2Proof.Machine

/-! ### The words -/

def execXff (g : Guard) (t : FType) (sat : Bool) (d a : Nat) (x : XfCtl) (s : State) : Out :=
  engineWord (.xff g t sat d a x) .transform s fun w o =>
    { o with vd := w.st.areg d, va := w.st.areg a, vsig := (sigRegs w.st x.sig).1, sval := (sigRegs w.st x.sig).2 }
def execXfi (g : Guard) (t : FType) (sat : Bool) (d a : Nat) (x : XfCtl) (s : State) : Out :=
  engineWord (.xfi g t sat d a x) .transform s fun w o =>
    { o with vd := w.st.areg d, va := w.st.areg a, vsig := (sigRegs w.st x.sig).1, sval := (sigRegs w.st x.sig).2 }

/-- What a transform is: direction +1 for xff, output type, mode and control word. -/
def transformOf (i : Instr) : Option (Int × FType × Bool × XfCtl) :=
  match i with
  | .xff _ t sat _ _ x => some (1, t, sat, x)
  | .xfi _ t sat _ _ x => some (-1, t, sat, x)
  | _ => none

/-! ### Constants (R136) -/

/-- π·10^60, cut to an integer. -/
def piScaled : Nat := 3141592653589793238462643383279502884197169399375105820974944
def trigScale : Nat := 10 ^ 60

/-- The terms of the series of sine and cosine from `term` = x^n / n!, two orders apart, over
10^60. -/
def series (x2 : Int) : Nat → Int → Int → Int → Int
  | 0, _, _, acc => acc
  | fuel + 1, n, term, acc =>
    let next := -(term * x2 / (trigScale : Int)) / ((n + 1) * (n + 2))
    series x2 fuel (n + 2) next (acc + next)

/-- cos and sin of 2π·m / 3^s over 10^60. -/
def cosSin (s m : Nat) : Int × Int :=
  let x : Int := (2 * piScaled * m / 3 ^ s : Nat)
  let x2 := x * x / (trigScale : Int)
  (series x2 60 0 trigScale trigScale, series x2 60 1 x x)

def truncConst (x : Int) : Int := (trunc ⟨x, trigScale, 0⟩ fmt27 false).1

/-- tw(s, m, dir) in T27F, real and imaginary. -/
def twiddle (s m : Nat) (dir : Int) : FVal × FVal :=
  let (c, sn) := cosSin s m
  (fdecode fmt27 (truncConst c), fdecode fmt27 (truncConst (-dir * sn)))

/-- kappa, trunc(√3 / 2) in T27F. -/
def kappa : FVal := fdecode fmt27 (trunc (sqrtExact 3 4 0) fmt27 false).1

/-! ### The butterfly (R135) -/

/-- The exact sum of values (R77). -/
def fvSum (xs : List FVal) : FVal :=
  match sumGroup (xs.map fun x => [x]) with
  | .nan p y => .nan p y
  | .invalid => .nan fmt27.p 0
  | .val v => v

/-- Rounding to T27F with mode inf, and the value that the word stands for. -/
def fvRound (x : FVal) : FVal := fdecode fmt27 (resVal fmt27 x).w

abbrev CVal := FVal × FVal
def cAdd (x y : CVal) : CVal := (fvSum [x.1, y.1], fvSum [x.2, y.2])
def cSub (x y : CVal) : CVal := (fvSum [x.1, y.1.neg], fvSum [x.2, y.2.neg])
def cRound (x : CVal) : CVal := (fvRound x.1, fvRound x.2)
/-- A complex product, each plane one exact sum rounded once (R82). -/
def cMul (x y : CVal) : CVal :=
  (fdecode fmt27 (fsum fmt27 false [[x.1, y.1], [x.2.neg, y.2]]).w,
   fdecode fmt27 (fsum fmt27 false [[x.2, y.1], [x.1, y.2]]).w)
/-- One half of a value, rounded. -/
def fvHalf (x : FVal) : FVal :=
  match x with
  | .fin m e => fdecode fmt27 (trunc ⟨m, 2, e⟩ fmt27 false).1
  | y => fvRound y
def fvTimes (x y : FVal) : FVal := fdecode fmt27 (fsum fmt27 false [[x, y]]).w

/-- X0, X1, X2 of one butterfly, exact. -/
def butterfly (s k : Nat) (dir : Int) (a b0 c0 : CVal) : List CVal :=
  let b := if k = 0 then b0 else cMul b0 (twiddle s k dir)
  let c := if k = 0 then c0 else cMul c0 (twiddle s (2 * k) dir)
  let t1 := cAdd b c
  let t2 := cSub b c
  let m1 := cSub a (fvHalf t1.1, fvHalf t1.2)
  let turn (x : FVal) : FVal := if dir = 1 then x else x.neg
  let m2 : CVal := (turn (fvTimes kappa t2.1), turn (fvTimes kappa t2.2))
  let im2 : CVal := (m2.2.neg, m2.1)
  [cAdd a t1, cSub m1 im2, cAdd m1 im2]

/-- Reverse the `n` base-3 digits of an index. -/
def rev3 : Nat → Nat → Nat
  | 0, _ => 0
  | n + 1, j => j % 3 * 3 ^ n + rev3 n (j / 3)

/-- A value as a T27F word, after rounding to the output format where one is given: `put` of R135. -/
def putPlane (out : Option (Fmt × Bool × Int)) (x : FVal) : Int :=
  match out with
  | none => (resVal fmt27 x).w
  | some (f, sat, sc) =>
    let w := match x with
      | .fin m e => (trunc (exactOf m (e - sc)) f sat).1
      | y => (resVal f y).w
    if f = fmt9 then widen w else w

/-- Stage `s` on one block, given as its real and imaginary words. -/
def stageBlock (s : Nat) (dir : Int) (out : Option (Fmt × Bool × Int)) (re im : List Int) : List (Int × Int) :=
  let q := 3 ^ (s - 1)
  let zs : List CVal := (re.zip im).map fun z => (fdecode fmt27 z.1, fdecode fmt27 z.2)
  let at_ (i : Nat) : CVal := zs.getD i (.zero, .zero)
  (List.range re.length).map fun p =>
    let g := p / (3 * q)
    let k := p % (3 * q) % q
    let i := 3 * q * g + k
    let x := (butterfly s k dir (at_ i) (at_ (i + q)) (at_ (i + 2 * q))).getD (p % (3 * q) / q) (.zero, .zero)
    (putPlane out x.1, putPlane out x.2)

/-- Stage `s` on every block of every column of the working store (R380). -/
def stageStore (n blocks cols s : Nat) (dir : Int) (out : Option (Fmt × Bool × Int)) (z : List Int) : List Int :=
  let b := 3 ^ n
  let plane := blocks * b
  (List.range cols).flatMap fun c =>
    let col := (z.drop (2 * plane * c)).take (2 * plane)
    let re := chunks b blocks (col.take plane)
    let im := chunks b blocks (col.drop plane)
    let done := (re.zip im).map fun x => stageBlock s dir out x.1 x.2
    (done.flatMap fun x => x.map Prod.fst) ++ (done.flatMap fun x => x.map Prod.snd)

/-! ### Operands and checks (R131, R133, R134, R294) -/

/-- The output descriptor, or the engine-error fault. -/
def outDesc (i : Instr) (ds : Desc) : Option Desc :=
  match transformOf i with
  | none => none
  | some (dir, t, _, x) =>
    let h : Int := (ds.block / 2 : Nat)
    let q := if dir = 1 then ds.rows / ds.size else ds.rows / ds.bins
    let o : Desc :=
      if dir = 1 then
        { ds with fmt := if t = .f9 then 6 else 7, spectral := true, scale := ds.scale - h, half_ := x.half }
      else { ds with fmt := if t = .f9 then 4 else 5, spectral := false, scale := ds.scale + h, half_ := false }
    let rows := if dir = 1 then q * o.bins else q * ds.size
    if 729 < rows ∨ o.scale < -121 ∨ 121 < o.scale then none else some { o with rows }

/-- Do the words of the two sides overlap, by the addresses the operation names? -/
def sidesOverlap (o : EngOp) (x : XfCtl) (inWords outWords : Nat) : Bool :=
  if x.srcSp != x.dstSp then false
  else
    let z : Int := if x.srcSp then 1 else 3
    decide (o.va < o.vd + z * outWords) && decide (o.vd < o.va + z * inWords)

/-- Does a descriptor suit the transform (R131)? -/
def suits (dir : Int) (ds : Desc) : Bool :=
  if dir = 1 then
    !ds.spectral && (ds.fmt == 4 || ds.fmt == 5) && ds.block != 0 && ds.rows % ds.size == 0
  else ds.spectral

/-- The descriptors of a transform, with the checks made before any write. -/
def transformDesc (r : LineOut) (o : EngOp) : EngRes (Desc × Desc) :=
  match transformOf o.i with
  | none => .error (12, none)
  | some (dir, _, _, x) => do
    let ds ← keptDesc r o x.srcSp o.va
    if !suits dir ds then throw (8, some (if x.srcSp then addrOf o.va else o.va))
    match outDesc o.i ds with
    | none => throw (12, none)
    | some od => if sidesOverlap o x ds.words od.words then throw (12, none) else return (ds, od)

/-- Element `e` of plane `pl` of the source tile as a T27F word. -/
def sourceElem (r : LineOut) (o : EngOp) (sp : Bool) (ds : Desc) (pl e : Nat) : EngRes Int := do
  let m := perWord ds.fmt
  let w ← sideWord r o sp o.va (1 + pl * ds.planeWords + e / m)
  let x := if m = 1 then w else elem (fmtTrits ds.fmt) w (e % m)
  return if ds.fmt = 4 ∨ ds.fmt = 6 then widen x else x

def conjWord (w : Int) : Int := (resVal fmt27 (fdecode fmt27 w).neg).w

/-- Point `j` of block `q` in column `c` before digit reversal (R137). -/
def sourcePoint (r : LineOut) (o : EngOp) (dir : Int) (sp : Bool) (ds : Desc) (q j c : Nat) : EngRes (Int × Int) := do
  if dir = 1 then return (← sourceElem r o sp ds 0 ((q * ds.size + j) * ds.cols + c), 0)
  else
    let back := decide (ds.bins ≤ j)
    let k := if back then ds.size - j else j
    let e := (q * ds.bins + k) * ds.cols + c
    let re ← sourceElem r o sp ds 0 e
    let im ← sourceElem r o sp ds 1 e
    if ds.half_ ∧ k = 0 ∧ im ≠ 0 then throw (8, some (if sp then addrOf o.va else o.va))
    return (re, if back then conjWord im else im)

def blocksOf (dir : Int) (ds : Desc) : Nat := if dir = 1 then ds.rows / ds.size else ds.rows / ds.bins

/-- The working store after the load (R380). -/
def loadStore (r : LineOut) (o : EngOp) (dir : Int) (sp : Bool) (ds : Desc) : EngRes (List Int) := do
  let cols ← (List.range ds.cols).mapM fun c => do
    let pts ← (List.range (blocksOf dir ds)).mapM fun q =>
      (List.range ds.size).mapM fun p => sourcePoint r o dir sp ds q (rev3 ds.block p) c
    let all := pts.flatten
    return all.map Prod.fst ++ all.map Prod.snd
  return cols.flatten

/-! ### The output tile (R129, R294) -/

/-- Element `e` of a plane of the output, from the working store. -/
def outElem (dir : Int) (ds od : Desc) (z : List Int) (pl e : Nat) : Int :=
  let i := e / od.cols
  let c := e % od.cols
  let rowsIn := blocksOf dir ds * ds.size
  -- a half-storage block keeps bins 0 to K - 1
  let p := if dir = 1 then i / od.bins * ds.size + i % od.bins else i
  let w := z.getD (2 * rowsIn * c + pl * rowsIn + p) 0
  if od.fmt = 4 ∨ od.fmt = 6 then (resVal fmt9 (fdecode fmt27 w)).w else w

/-- Word `e` of the output tile. -/
def outWord (dir : Int) (ds od : Desc) (z : List Int) (e : Nat) : Int :=
  if e = 0 then descWord od
  else
    let m := perWord od.fmt
    let pl := (e - 1) / od.planeWords
    let w := (e - 1) % od.planeWords
    packElems (fmtTrits od.fmt) ((List.range m).map fun k =>
      let p := m * w + k
      if od.rows * od.cols ≤ p then 0 else outElem dir ds od z pl p)

/-- Write words in order from a place; what stops one leaves the words before it written, and is answered with the word's
number. -/
def writeWords (o : EngOp) (sp : Bool) (base : Int) :
    Nat → List Int → LineOut → LineOut × Option (Nat × Nat × Option Int)
  | _, [], r => (r, none)
  | e, x :: xs, r =>
    match sideLoc r.s o .write sp base e with
    | .error f => (r, some (e, f))
    | .ok l =>
      match lostAt r.s o l with
      | some j => (r, some (e, 7, some j))
      | none => writeWords o sp base (e + 1) xs (r.write o l x)

/-! ### The unit (R376, R380) -/

/-- Transform operations of a cluster, oldest first; a prologue's come before those of strands. -/
def transformOps (s : State) (cluster : Nat) : List (Nat × EngOp) :=
  s.ops.filter fun x => x.2.unit == .transform && x.2.cluster == cluster && x.2.fault.isNone

/-- The operation that the unit runs: the one begun, which has loaded its tile or asked another die for some of it, else
the head of its queue. -/
def transformNow (s : State) (cluster : Nat) : Option (Nat × EngOp) :=
  let ops := transformOps s cluster
  let begun := ops.filter fun x => decide (0 < x.2.prog) || inFlight s x.1 || lineBegun s x.1 x.2 || !x.2.common.isEmpty
  (begun ++ ops.filter (fun x => x.2.strand.isNone) ++ ops).head?

def transformTurn (s : State) (cluster n : Nat) : Bool := (transformNow s cluster).map Prod.fst == some n

/-- The load (R294, R380): the descriptor and its checks, then every point of the tile. What lies on another die is
asked for first. -/
def transformLoad (s : State) (n : Nat) (o : EngOp) (dir : Int) (x : XfCtl) : EngRes State := do
  let r := LineOut.of s n o
  let l ← sideLoc s o .read x.srcSp o.va 0
  match if o.common.isEmpty then wantsPull s n o [l] else none with
  | some s1 => return s1
  | none =>
    let (ds, _) ← transformDesc r o
    let ls ← (List.range ds.words).mapM fun e => sideLoc s o .read x.srcSp o.va e
    match wantsPull s n o ls with
    | some s1 => return s1.modOp n fun y => { y with common := [descWord ds] }
    | none =>
      let z ← loadStore r o dir x.srcSp ds
      return (clearGot (fillPages (noteReads s o ls) o 3 (ls.filterMap Loc.ptr?)) n).modOp n fun y =>
        { y with z, common := [descWord ds], prog := 1, phase := .active }

/-- TRANSFORM_STAGE: the load first, then stage after stage; `prog` is the next stage, 0 before the
load. -/
def execTransformStage (op : Nat) (s : State) : Out :=
  match s.ops.get? op with
  | none => .next s
  | some o =>
    match transformOf o.i with
    | none => .next s
    | some (dir, t, sat, x) =>
      if !opRuns s op o || o.phase == .signalling || !transformTurn s o.cluster op then .next s
      else if o.prog = 0 then
        match transformLoad s op o dir x with
        | .error e => .next (opStop s op o e)
        | .ok s1 => .next (noteMove s1 op o)
      else
        match transformDesc (LineOut.of s op o) o with
        | .error e => .next (opStop s op o e)
        | .ok (ds, _) =>
          if o.prog ≤ ds.block then
            let h : Int := (ds.block / 2 : Nat)
            let sc := if dir = 1 then h else ds.block - h
            let out := if o.prog = ds.block then some (fmtOf t, sat, sc) else none
            let z := stageStore ds.block (blocksOf dir ds) ds.cols o.prog dir out o.z
            .next (noteMove (s.modOp op fun y => { y with z, prog := y.prog + 1 }) op o)
          else .next s

/-- TRANSFORM_COMPLETE: the output tile, then the signal and the flag; what goes to another die is awaited before
the signal. A word that faults leaves those before it written (R314), but for a region's tile that they fill in part. -/
def execTransformComplete (op : Nat) (s : State) : Out :=
  match s.ops.get? op with
  | none => .next s
  | some o =>
    match transformOf o.i with
    | none => .next s
    | some (dir, _, _, x) =>
      if !opRuns s op o || o.phase == .signalling || !transformTurn s o.cluster op then .next s
      else
        let last (s : State) : Out :=
          match signalStep s op o with
          | .error e => .next (opStop s op o e)
          | .ok r => .next (afterSignal op o r)
        match transformDesc (LineOut.of s op o) o with
        | .error e => .next (opStop s op o e)
        | .ok (ds, od) =>
          if o.prog ≤ ds.block then .next s
          else if o.phase == .written then last s
          else
            let ws := (List.range od.words).map (outWord dir ds od o.z)
            let (r, bad) := writeWords o x.dstSp o.vd o.upTo (ws.drop o.upTo) { s }
            match bad with
            | some (_, 0, _) => .next s
            | _ =>
              match r.flush o, bad with
              | (s1, some _), some (_, e) => .next (opStop s1 op o e)
              | (s1, some e), none => .next (opStop s1 op o e)
              | (s1, none), _ =>
                let s2 := (fillPages s1 o 3 r.ptrs.eraseDups).modOp op fun y =>
                  { y with upTo := (bad.map Prod.fst).getD 0 }
                match r.stores op o, bad with
                | [], none => last s2
                | [], some (_, e) => .next (opStop s2 op o e)
                | as, _ => .next (request (s2.modOp op fun y => { y with phase := .writing y.prog }) op o as)

end Sys2Proof.Machine
end

