-- ==== Sys2Proof/Machine/Matrix.lean ====
section
/-!
DEFINITION. The matrix array and the accumulator moves: mma, mmc, mzr, mrd, mwr, mtag, and the array's
events (R295 to R303, R307, R308, R337, R382, R383).
-/
namespace Sys2Proof.Machine

/-! ### The words -/

/-- The rows of register operands, one list for each of the 32 lanes, empty lanes 0 (R329). -/
def regRows (w : Word_) (a n : Nat) : List (List Int) :=
  (List.range 32).map fun l =>
    if w.act.contains l then (List.range n).map fun j => (w.st.thread l).vget (a + j) else List.replicate n 0

/-- The a and b operand pairs; a pair of 0 where a names registers. -/
def pairBlock (w : Word_) (src : MatSrc) (a b : Nat) : List Int :=
  (if src = .regs then [0, 0] else sBlock w.st a 2) ++ sBlock w.st b 2

def execMma (g : Guard) (f : MmaForm) (d a b : Nat) (asrc bsrc : MatSrc) (s : State) : Out :=
  engineWord (.mma g f d a b asrc bsrc) .matrix s fun w o =>
    { o with block := pairBlock w asrc a b,
             regs := if asrc = .regs then regRows w a (WF.aWords f) else [] }
def execMmc (g : Guard) (t : FType) (d a b : Nat) (x : MmcCtl) (s : State) : Out :=
  engineWord (.mmc g t d a b x) .matrix s fun w o =>
    { o with block := pairBlock w x.wsrc a b,
             regs := if x.wsrc = .regs then regRows w a (WF.wRegs t x.blocks) else [] }

/-! ### Accumulator moves (R303, R307, R308) -/

/-- Set the written trit of an attribute word (R53). -/
def setWritten (attr : Int) : Int := setField 27 attr 3 1 1

/-- A word on one tile of the strand. -/
def tileWord (i : Instr) (d : Nat) (s : State) (f : Word_ → Tile → Except FaultInfo Tile) : Out :=
  strandWord i s fun w =>
    match w.st.tiles.get? d with
    | none => .ok w.st
    | some t => (f w t).map fun t' => { w.st with tiles := w.st.tiles.put d t' }

def execMzr (g : Guard) (d : Nat) (s : State) : Out := tileWord (.mzr g d) d s fun _ _ => .ok {}

/-- A tile's row in a lane's registers. -/
def execMrd (g : Guard) (d m : Nat) (col : Option Nat) (s : State) : Out :=
  strandWord (.mrd g d m col) s fun w =>
    let t := (w.st.tiles.get? m).getD {}
    .ok (w.st.modThreads w.act fun l th =>
      match col with
      | some c => th.vput d (t.w.get (27 * l + c))
      | none => { th with v := th.v.putRun d (t.w.getRun (27 * l) 27) })

def execMwr (g : Guard) (m a : Nat) (col : Option Nat) (s : State) : Out :=
  tileWord (.mwr g m a col) m s fun w t =>
    let put (c : Cells) (l : Nat) : Cells :=
      match col with
      | some k => c.put (27 * l + k) ((w.st.thread l).vget a)
      | none => c.putRun (27 * l) ((w.st.thread l).v.getRun a 27)
    .ok { attr := setWritten t.attr, w := w.act.foldl put t.w }

/-- mtag: a reserved index, or a complex plane of the wrong parity, is the engine-error fault. -/
def execMtag (g : Guard) (d a : Nat) (s : State) : Out :=
  tileWord (.mtag g d a) d s fun w t =>
    let x := w.st.sget a
    let f := attrFmt x
    if 3 < f ∨ 1 < attrDom x ∨ 4 < attrBlk x ∨ (2 ≤ f ∧ d % 2 ≠ f - 2) then
      .error { code := 12, lane := w.act.headD 0 }
    else .ok { t with attr := setWritten (setField 27 (setField 27 t.attr 15 12 (sgd x 15 12)) 2 1 0) }

/-! ### Operands (R148, R150, R295, R296, R301) -/

/-- Stored formats of A and B, elements of a row of A. -/
def aFmt : MmaForm → Nat
  | .f9 => 4 | .t3 => 1 | .w9 => 2 | .t1 => 0 | .f27 => 5
def bFmt : MmaForm → Nat
  | .f9 => 4 | .t3 => 1 | .w9 => 0 | .t1 => 0 | .f27 => 5
def formK : MmaForm → Nat
  | .f9 => 18 | .t3 => 54 | .w9 => 54 | .t1 => 162 | .f27 => 3
def bWords : MmaForm → Nat
  | .f9 => 9 | .t3 => 3 | .w9 => 1 | .t1 => 1 | .f27 => 27
def formFloat : MmaForm → Bool
  | .f9 | .f27 => true
  | _ => false

/-- The window words of a map's row, `n` of them (R148). -/
def mapWords (s : State) (o : EngOp) (lo hi : Int) (t r n : Nat) : List Nat :=
  match readMap lo hi, s.weaves.get? o.weave with
  | some m, some wv => (List.range n).map fun w => wv.base + m.word t r w
  | _, _ => []

/-- Words of a map's row (R148). -/
def mapRow (s : State) (o : EngOp) (lo hi : Int) (t r n : Nat) : EngRes (List Int) :=
  if (readMap lo hi).isNone then .error (12, none) else (mapWords s o lo hi t r n).mapM (opWord s o)

/-- The checks of a map before any access: its fields, and that every word of these rows of tile `t` lies in the
window (R148). -/
def mapCheck (s : State) (o : EngOp) (lo hi : Int) (t : Nat) (rows : List Nat) (n : Nat) : EngRes Unit :=
  match readMap lo hi, s.weaves.get? o.weave with
  | some m, some wv =>
    if rows.all fun r => (List.range n).all fun w => decide (m.word t r w < wv.len) then .ok () else .error (12, none)
  | _, _ => .error (12, none)

/-- An operand that a handle names (R149, R150): the pair, the format and domain that its use asks for, and what else
it asks of the descriptor. -/
structure HandleUse where
  lo : Int
  hi : Int
  fmt : Nat
  spectral : Bool
  fits : Desc → Bool

/-- The handle itself: trit 45 (R150). -/
def HandleUse.read (h : HandleUse) : EngRes Handle :=
  let x := readHandle (pairOf h.lo h.hi)
  if x.reserved ≠ 0 then .error (12, none) else .ok x

/-- Word `e` of the stored tile at a pointer. -/
def handleLoc (s : State) (o : EngOp) (ptr : Int) (e : Nat) : EngRes Loc := opDevice s o .read ptr (3 * (e : Int)) 3

def handleWord (r : LineOut) (o : EngOp) (ptr : Int) (e : Nat) : EngRes Int := do
  readLoc r o (← handleLoc r.s o ptr e)

/-- A stored tile through a handle (R150): its descriptor and pointer, after steps 1 to 3. -/
def openHandle (r : LineOut) (o : EngOp) (h : HandleUse) : EngRes (Desc × Int) := do
  let x ← h.read
  let w ← handleWord r o x.ptr 0
  if !handleFits x w then throw (8, some x.ptr)
  match checkDesc w with
  | .error c => throw (c, if c = 8 then some x.ptr else none)
  | .ok d =>
    if d.fmt ≠ h.fmt ∨ d.spectral ≠ h.spectral ∨ !h.fits d then throw (8, some x.ptr) else return (d, x.ptr)

/-- Every word of a stored tile's planes, which step 4 of R150 copies. -/
def planeLocs (s : State) (o : EngOp) (d : Desc × Int) : EngRes (List Loc) :=
  (List.range (d.1.words - 1)).mapM fun e => handleLoc s o d.2 (e + 1)

/-- What an operand fetch has come to: words of other dies are asked for, or the tiles of the handles are at hand. -/
inductive Fetch where
  | asked (s : State)
  | tiles (ds : List (Desc × Int)) (s : State)

/-- The four steps of R150 for every handle of an operation. Each word of the planes is read, so that one that cannot
be is a fault wherever it lies. `check` is what the operation tests as soon as the descriptors are known. -/
def openAll (s : State) (n : Nat) (o : EngOp) (hs : List HandleUse)
    (check : List (Desc × Int) → EngRes Unit := fun _ => .ok ()) : EngRes Fetch := do
  let r := LineOut.of s n o
  let ptrs ← hs.mapM fun h => h.read.map (·.ptr)
  let heads ← ptrs.mapM fun p => handleLoc s o p 0
  match wantsPull s n o heads with
  | some s1 => return .asked s1
  | none =>
    let ds ← hs.mapM (openHandle r o)
    check ds
    let ls := (← ds.mapM (planeLocs s o)).flatten
    match wantsPull s n o ls with
    | some s1 => return .asked s1
    | none =>
      let _ ← ls.mapM (readLoc r o)
      return .tiles ds (fillPages (noteReads s o (heads ++ ls)) o 3 ((heads ++ ls).filterMap Loc.ptr?))

/-- The elements of a row of packed words. -/
def unpackRow (n : Nat) (ws : List Int) : List Int :=
  if n = 27 then ws else ws.flatMap fun w => (List.range (27 / n)).map (elem n w)

/-- The handle that a source names. -/
def handleOf (o : EngOp) (at_ : Nat) (src : MatSrc) (fmt : Nat) (spectral : Bool) (fits : Desc → Bool) :
    List HandleUse :=
  match src with
  | .handle => [⟨o.block.getD at_ 0, o.block.getD (at_ + 1) 0, fmt, spectral, fits⟩]
  | _ => []

/-- mma's A words by lane, for the active lanes, from the tile that a handle has opened. -/
def fetchA (r : LineOut) (o : EngOp) (f : MmaForm) (src : MatSrc) (d : Option (Desc × Int)) : EngRes (List (List Int)) :=
  let n := WF.aWords f
  let at_ (j : Nat) : Int := o.block.getD j 0
  let lane (row : Nat → EngRes (List Int)) : EngRes (List (List Int)) :=
    (List.range 32).mapM fun l => if o.lanes.contains l then row l else .ok (List.replicate n 0)
  match src, d with
  | .regs, _ => .ok o.regs
  | .map t, _ => lane fun l => mapRow r.s o (at_ 0) (at_ 1) t l n
  | .handle, some d => lane fun l => (List.range n).mapM fun w => handleWord r o d.2 (1 + n * l + w)
  | .handle, none => .error (12, none)

/-- mma's B words, row by row. -/
def fetchB (r : LineOut) (o : EngOp) (f : MmaForm) (src : MatSrc) (d : Option (Desc × Int)) : EngRes (List (List Int)) :=
  let n := bWords f
  let at_ (j : Nat) : Int := o.block.getD j 0
  match src, d with
  | .handle, some d => (List.range (formK f)).mapM fun row => (List.range n).mapM fun w => handleWord r o d.2 (1 + n * row + w)
  | .map t, _ => (List.range (formK f)).mapM fun row => mapRow r.s o (at_ 2) (at_ 3) t row n
  | _, _ => .error (12, none)

/-- The map checks of an mma's operands. -/
def mmaMaps (s : State) (o : EngOp) (f : MmaForm) (asrc bsrc : MatSrc) : EngRes Unit := do
  let at_ (j : Nat) : Int := o.block.getD j 0
  match asrc with
  | .map t => mapCheck s o (at_ 0) (at_ 1) t o.lanes (WF.aWords f)
  | _ => pure ()
  match bsrc with
  | .map t => mapCheck s o (at_ 2) (at_ 3) t (List.range (formK f)) (bWords f)
  | _ => pure ()

/-- The window words that an mma's map operands take, but for a B that the latch gives. -/
def mmaReads (s : State) (o : EngOp) (f : MmaForm) (asrc bsrc : MatSrc) : List Loc :=
  let at_ (j : Nat) : Int := o.block.getD j 0
  ((match asrc with
    | .map t => o.lanes.flatMap fun l => mapWords s o (at_ 0) (at_ 1) t l (WF.aWords f)
    | _ => []) ++
   (match bsrc with
    | .map t => (List.range (formK f)).flatMap fun r => mapWords s o (at_ 2) (at_ 3) t r (bWords f)
    | _ => [])).map .win

/-- The tile attribute's fields, with the written trit. -/
def attrWritten (a : Int) : Bool := trit 27 a 3 == 1

/-- The attribute check of mma (R297), or the attribute an unwritten tile takes. -/
def mmaAttr (attr : Int) (f : MmaForm) : Option Int :=
  let fm := if formFloat f then 1 else 0
  if attrWritten attr then (if attrFmt attr = fm ∧ attrDom attr = 0 then some attr else none)
  else some (attrWord fm 0 0 0 true (trit 27 attr 2) (trit 27 attr 1) (trit 27 attr 0))

/-! ### mma (R297) -/

/-- One accumulator word: new word, overflow direction, whether a NaN was produced. -/
structure Acc1 where
  w : Int
  ovf : Int
  nan : Bool

/-- How far off an array's sums are at one word (R385). -/
def offAt (errs : List SumError) (plane row col : Nat) : Int :=
  ((errs.filter fun e => e.plane == plane && e.row == row && e.col == col).map (·.off)).sum

/-- The term that an error adds to an exact sum. -/
def offTerm (off : Int) : List (List FVal) := if off = 0 then [] else [[.fin off 0]]

/-- The terms of one exact sum of an mma (R297). -/
def mmaTerms (f : MmaForm) (old : Int) (row col : List Int) : List (List FVal) :=
  let fm := if f = .f9 then fmt9 else fmt27
  [fdecode fmt27 old] :: List.zipWith (fun (x y : Int) => [fdecode fm x, fdecode fm y]) row col

def mmaCell (f : MmaForm) (old : Int) (row col : List Int) (off : Int := 0) : Acc1 :=
  if formFloat f then
    let r := fsum fmt27 false (mmaTerms f old row col ++ offTerm off)
    ⟨r.w, r.ovf, (firstNan [fdecode fmt27 r.w]).isSome⟩
  else
    let x := old + (List.zipWith (fun (x y : Int) => x * y) row col).sum + off
    let r := wrap x 27
    ⟨r.w, r.ovf, false⟩

/-- The active rows of a tile after an operation, with its sticky trits (R53). `cell l c` gives word
(l, c). -/
def writeRows (t : Tile) (attr : Int) (lanes : List Nat) (cols : Nat) (rerun : Bool)
    (cell : Nat → Nat → Int → Acc1) : Tile :=
  let rows := lanes.map fun l => (l, (List.range cols).map fun c => cell l c (t.w.get (27 * l + c)))
  let all := rows.flatMap Prod.snd
  let first := ((all.find? fun x => x.ovf != 0).map (·.ovf)).getD 0
  let ovf := if trit 27 attr 2 = 0 then first else trit 27 attr 2
  let nan : Int := if all.any (·.nan) then 1 else trit 27 attr 1
  let rr : Int := if rerun then 1 else trit 27 attr 0
  { attr := attrWord (attrFmt attr) (attrDom attr) (attrBlk attr) (attrScale attr) true ovf nan rr
    w := rows.foldl (fun (m : Cells) r => m.putRun (27 * r.1) (r.2.map (·.w))) t.w }

/-- The elements of an mma's operands as it fetched them: 32 rows of A, and the rows of B. -/
def mmaOperands (f : MmaForm) (o : EngOp) : List (List Int) × List (List Int) :=
  let n := WF.aWords f
  ((chunks n 32 (o.z.take (32 * n))).map fun r => (unpackRow (fmtTrits (aFmt f)) r).take (formK f),
   (chunks (bWords f) (formK f) (o.z.drop (32 * n))).map (unpackRow (fmtTrits (bFmt f))))

def mmaTile (t : Tile) (attr : Int) (f : MmaForm) (o : EngOp) (rerun : Bool) (errs : List SumError := []) : Tile :=
  let (a, b) := mmaOperands f o
  let cols := (List.range 27).map fun c => b.map fun r => r.getD c 0
  writeRows t attr o.lanes 27 rerun fun l c old => mmaCell f old (a.getD l []) (cols.getD c []) (offAt errs 0 l c)

/-! ### mmc (R301, R302) -/

/-- Bins of the control word's storage (R132). -/
def mmcBins (x : MmcCtl) : Nat := if x.half then (3 ^ x.block + 1) / 2 else 3 ^ x.block
/-- The row that lane `l` uses of block `j`. -/
def mmcRow (x : MmcCtl) (l j : Nat) : Nat := x.row + j * mmcBins x + l

/-- Both planes of one row of an operand's elements. -/
abbrev CRow := List Int × List Int

/-- What an mmc fetched: its W and X rows by lane and block, X's columns, the scale, and the pointers
of its handles. -/
structure MmcIn where
  lanes : List (Nat × List (CRow × CRow))
  cols : Nat
  scale : Int
  wptr : Option Int
  xptr : Option Int

/-- Elements (row, 0) to (row, n - 1) of both planes through a handle. -/
def spectralRow (r : LineOut) (o : EngOp) (d : Desc) (p : Int) (row : Nat) : EngRes CRow := do
  let m := perWord d.fmt
  let plane (pl : Nat) : EngRes (List Int) :=
    (List.range d.cols).mapM fun c => do
      let e := row * d.cols + c
      let w ← handleWord r o p (1 + pl * d.planeWords + e / m)
      return if m = 1 then w else elem (fmtTrits d.fmt) w (e % m)
  return (← plane 0, ← plane 1)

/-- A row of both planes through a map, `n` words of it. -/
def mapPlanes (s : State) (o : EngOp) (lo hi : Int) (t row n : Nat) (ft : FType) : EngRes CRow := do
  let nt := if ft = .f9 then 9 else 27
  let re ← mapRow s o lo hi t row n
  let im ← mapRow s o lo hi (t + 1) row n
  return (unpackRow nt re, unpackRow nt im)

/-- W's value for block `j` from a lane's registers. -/
def regW (t : FType) (ws : List Int) (j : Nat) : CRow :=
  match t with
  | .f9 => ([elem 9 (ws.getD 0 0) j], [elem 9 (ws.getD 1 0) j])
  | .f27 => ([ws.getD (2 * j) 0], [ws.getD (2 * j + 1) 0])

/-- The handles of an mmc's operands, W's first: of its complex format, with its block and half, and one column for W
(R301). -/
def mmcHandles (o : EngOp) (t : FType) (x : MmcCtl) : List HandleUse :=
  let fits (d : Desc) : Bool := d.block == x.block && d.half_ == x.half
  let fmt := if t = .f9 then 6 else 7
  handleOf o 0 x.wsrc fmt true (fun d => fits d && d.cols == 1) ++ handleOf o 2 x.xsrc fmt true fits

/-- Words of a row of a map X operand. -/
def mmcWords (t : FType) : Nat := if t = .f9 then 9 else 27

/-- The lanes of an mmc that a handle operand has a row for (R302). -/
def mmcLanes (o : EngOp) (x : MmcCtl) (ds : List (Desc × Int)) : List Nat :=
  o.lanes.filter fun l => ds.all fun d => decide (mmcRow x l (x.blocks - 1) < d.1.rows)

/-- The map checks of an mmc's operands, for the lanes that it works on. -/
def mmcMaps (s : State) (o : EngOp) (t : FType) (x : MmcCtl) (lanes : List Nat) : EngRes Unit := do
  let at_ (j : Nat) : Int := o.block.getD j 0
  let rows := lanes.flatMap fun l => (List.range x.blocks).map (mmcRow x l)
  match x.wsrc with
  | .map tl => mapCheck s o (at_ 0) (at_ 1) tl rows 1; mapCheck s o (at_ 0) (at_ 1) (tl + 1) rows 1
  | _ => pure ()
  match x.xsrc with
  | .map tl =>
    mapCheck s o (at_ 2) (at_ 3) tl rows (mmcWords t)
    mapCheck s o (at_ 2) (at_ 3) (tl + 1) rows (mmcWords t)
  | _ => pure ()

/-- The window words that an mmc's map operands take for the lanes that it works on. -/
def mmcReads (s : State) (o : EngOp) (t : FType) (x : MmcCtl) (lanes : List Nat) : List Loc :=
  let at_ (j : Nat) : Int := o.block.getD j 0
  let rows := lanes.flatMap fun l => (List.range x.blocks).map (mmcRow x l)
  let both (lo hi : Int) (tl n : Nat) : List Nat :=
    rows.flatMap fun r => mapWords s o lo hi tl r n ++ mapWords s o lo hi (tl + 1) r n
  ((match x.wsrc with
    | .map tl => both (at_ 0) (at_ 1) tl 1
    | _ => []) ++
   (match x.xsrc with
    | .map tl => both (at_ 2) (at_ 3) tl (mmcWords t)
    | _ => [])).map .win

/-- The operands of an mmc, from the tiles that its handles have opened. -/
def fetchMmc (r : LineOut) (o : EngOp) (t : FType) (x : MmcCtl) (ds : List (Desc × Int)) : EngRes MmcIn := do
  let at_ (j : Nat) : Int := o.block.getD j 0
  let wd := if x.wsrc = .handle then ds.head? else none
  let xd := if x.xsrc = .handle then ds.getLast? else none
  let sigma := x.scale + (ds.map fun d => d.1.scale).sum
  if sigma < -121 ∨ 121 < sigma then throw ((12, none) : Nat × Option Int)
  let rows ← (mmcLanes o x ds).mapM fun l => do
    let bs ← (List.range x.blocks).mapM fun j => do
      let row := mmcRow x l j
      let w ← (match x.wsrc, wd with
        | .regs, _ => return regW t (o.regs.getD l []) j
        | .map tl, _ => mapPlanes r.s o (at_ 0) (at_ 1) tl row 1 t
        | .handle, some (d, p) => spectralRow r o d p row
        | .handle, none => throw (12, none) : EngRes CRow)
      let y ← (match x.xsrc, xd with
        | .map tl, _ => mapPlanes r.s o (at_ 2) (at_ 3) tl row (mmcWords t) t
        | _, some (d, p) => spectralRow r o d p row
        | _, none => throw (12, none) : EngRes CRow)
      return (w, y)
    return (l, bs)
  return { lanes := rows, cols := (xd.map fun z => z.1.cols).getD 27, scale := sigma,
           wptr := wd.map Prod.snd, xptr := xd.map Prod.snd }

/-- The half-storage check of every row before any update (R133, R302). -/
def mmcHalf (x : MmcCtl) (m : MmcIn) : EngRes Unit :=
  if !x.half then .ok ()
  else
    (m.lanes.filter fun r => mmcRow x r.1 0 % mmcBins x == 0).forM fun r =>
      r.2.forM fun b =>
        if b.1.2.headD 0 ≠ 0 then .error (8, m.wptr)
        else if (b.2.2.take m.cols).any (· != 0) then .error (8, m.xptr)
        else .ok ()

def mmcAttr (attr : Int) (plane : Nat) (x : MmcCtl) (sigma : Int) : Option Int :=
  let fm := 2 + plane
  let blk := x.block - 1
  if attrWritten attr then
    if attrFmt attr = fm ∧ attrDom attr = 1 ∧ attrBlk attr = blk ∧ attrScale attr = sigma then some attr else none
  else some (attrWord fm 1 blk sigma true (trit 27 attr 2) (trit 27 attr 1) (trit 27 attr 0))

/-- The terms of one exact sum of one plane of an mmc (R82, R302). -/
def mmcTerms (t : FType) (imag : Bool) (old : Int) (bs : List (CRow × CRow)) (c : Nat) : List (List FVal) :=
  let f := fmtOf t
  let terms := bs.flatMap fun b =>
    let wr := fdecode f (b.1.1.headD 0)
    let wi := fdecode f (b.1.2.headD 0)
    let xr := fdecode f (b.2.1.getD c 0)
    let xi := fdecode f (b.2.2.getD c 0)
    if imag then [[wi, xr], [wr, xi]] else [[wr, xr], [wi.neg, xi]]
  [fdecode fmt27 old] :: terms

/-- One accumulator word of one plane (R82). -/
def mmcCell (t : FType) (imag : Bool) (old : Int) (bs : List (CRow × CRow)) (c : Nat) (off : Int := 0) : Acc1 :=
  let r := fsum fmt27 false (mmcTerms t imag old bs c ++ offTerm off)
  ⟨r.w, r.ovf, (firstNan [fdecode fmt27 r.w]).isSome⟩

/-- The W and X rows of a lane. -/
def MmcIn.of (m : MmcIn) (l : Nat) : List (CRow × CRow) := ((m.lanes.find? fun r => r.1 == l).map Prod.snd).getD []

def mmcTile (tl : Tile) (attr : Int) (t : FType) (imag : Bool) (m : MmcIn) (rerun : Bool) (errs : List SumError := []) :
    Tile :=
  writeRows tl attr (m.lanes.map Prod.fst) m.cols rerun fun l c old =>
    mmcCell t imag old (m.of l) c (offAt errs (if imag then 1 else 0) l c)

/-- What an mmc fetched, as one list: columns, scale, then lane, W and X planes of every block. -/
def flatMmc (m : MmcIn) : List Int :=
  (m.cols : Int) :: m.scale :: m.lanes.flatMap fun r => r.2.flatMap fun b =>
    [(r.1 : Int), b.1.1.headD 0, b.1.2.headD 0] ++ b.2.1.take m.cols ++ b.2.2.take m.cols

/-- The same back. -/
def unflatMmc (blocks : Nat) (z : List Int) : MmcIn :=
  let cols := (z.getD 0 0).toNat
  let one (r : List Int) : CRow × CRow :=
    (([r.getD 1 0], [r.getD 2 0]), ((r.drop 3).take cols, (r.drop (3 + cols)).take cols))
  let rows := chunks (3 + 2 * cols) z.length (z.drop 2)
  let groups := chunks blocks rows.length rows
  { lanes := groups.map fun g => (((g.headD []).headD 0).toNat, g.map one), cols, scale := z.getD 1 0,
    wptr := none, xptr := none }

/-! ### The array (R297 to R299, R382, R383) -/

/-- The B latch's rows where its key equals the operation's (R383), and it holds a B operand of the form's shape: an
operation that names other words of the same map has another operand (R298). -/
def latchRows (s : State) (o : EngOp) (f : MmaForm) (src : MatSrc) : Option (List (List Int)) :=
  match (s.core o.core).latch with
  | some l =>
    if l.weave = o.weave ∧ l.src = src ∧ l.pair = pairOf (o.block.getD 2 0) (o.block.getD 3 0) ∧ !l.spectral ∧
        l.rows.length = formK f ∧ (l.rows.all fun r => r.length == bWords f) then some l.rows else none
  | none => none

/-- An operation's B replaces what the latch held (R383); one whose reads began before a fencex that drops the latch leaves
it empty, since a latch filled after that fencex holds the new words (R298). -/
def setLatch (s : State) (o : EngOp) (src : MatSrc) (spectral : Bool) (rows : List (List Int)) : State :=
  s.modCore o.core fun c =>
    { c with latch :=
      if o.fenced then none else some ⟨o.weave, src, pairOf (o.block.getD 2 0) (o.block.getD 3 0), spectral, rows⟩ }

/-- Start an mma: maps checked, operands complete, the tile's attribute checked. The latch gives a B that it holds. -/
def startMma (s : State) (n : Nat) (o : EngOp) (f : MmaForm) (d : Nat) (asrc bsrc : MatSrc) : EngRes State := do
  let held := latchRows s o f bsrc
  mmaMaps s o f asrc (if held.isSome then .regs else bsrc)
  let ha := handleOf o 0 asrc (aFmt f) false fun d => d.rows == 32 && d.cols == formK f
  let hb := if held.isSome then [] else
    handleOf o 2 bsrc (bFmt f) false fun d => d.rows == formK f && d.cols == 27
  match ← openAll s n o (ha ++ hb) with
  | .asked s1 => return s1
  | .tiles ds s1 =>
    let r := LineOut.of s n o
    let a ← fetchA r o f asrc ds.head?
    let b ← (match held with
      | some rows => .ok rows
      | none => fetchB r o f bsrc ds.getLast?)
    match (tileOf s o d).bind fun t => mmaAttr t.attr f with
    | none => throw (8, none)
    | some _ =>
      let s2 := noteReads s1 o (mmaReads s1 o f asrc (if held.isSome then .regs else bsrc))
      return (setLatch (clearGot s2 n) o bsrc false b).modOp n fun x =>
        { x with z := a.flatten ++ b.flatten, phase := .active }

/-- Start an mmc. Its X operand displaces what the latch held (R383) and is fetched for the rows that
its lanes name. -/
def startMmc (s : State) (n : Nat) (o : EngOp) (t : FType) (d : Nat) (x : MmcCtl) : EngRes State := do
  let hs := mmcHandles o t x
  -- a map's fields are checked before any access, and its words as soon as a handle's rows tell the lanes (log 109)
  mmcMaps s o t x (if hs.isEmpty then o.lanes else [])
  match ← openAll s n o hs fun ds => mmcMaps s o t x (mmcLanes o x ds) with
  | .asked s1 => return s1
  | .tiles ds s1 =>
    let m ← fetchMmc (LineOut.of s n o) o t x ds
    let attrs (pl : Nat) : Bool := ((tileOf s o (d + pl)).bind fun tl => mmcAttr tl.attr pl x m.scale).isSome
    if !attrs 0 || !attrs 1 then throw ((8, none) : Nat × Option Int)
    mmcHalf x m
    let rows := m.lanes.flatMap fun l => l.2.map fun b => b.2.1 ++ b.2.2
    let s2 := noteReads s1 o (mmcReads s1 o t x (mmcLanes o x ds))
    return (setLatch (clearGot s2 n) o x.xsrc true rows).modOp n fun y => { y with z := flatMmc m, phase := .active }

/-! ### The residue check (R385) -/

/-- The residue of an exact value N·3^q; none for a NaN or an infinity, which have none. -/
def residue : FVal → Option Nat
  | .fin n q => some ((n * 3 ^ (q % 3).toNat) % 13).toNat
  | _ => none

/-- The residue of an exact sum, and the sum of residues. -/
def residueOf (xs : List FVal) : Option Nat := (sumVals xs).bind residue
def residueSum (xs : List FVal) : Option Nat := (xs.mapM residue).map fun rs => rs.sum % 13

/-- Column `c` of rows. -/
def columnOf (rows : List (List FVal)) (c : Nat) : List FVal := rows.map fun r => r.getD c .zero

/-- Σ ρ(x_kk) · ρ(Σ y_kk), over the sums of a list of lists. -/
def residueDot (xs : List FVal) (ys : List (List FVal)) : Option Nat := do
  let ps ← (xs.zip ys).mapM fun (x, y) => do return (← residue x) * (← residueOf y)
  return ps.sum % 13

/-- The check of R385 on one plane: incoming words `m`, operands `a` and `b`, and the exact sums `x` of the active
rows, each a list of rows; one Boolean for the check column and one for the check row. A row or column in which a value
has no residue is not checked. -/
def residueCheck (m a b x : List (List FVal)) : Bool × Bool :=
  let agree (l p q : Option Nat) : Bool :=
    match l, p, q with
    | some l, some p, some q => l == (p + q) % 13
    | _, _, _ => true
  let cols := (x.headD []).length
  let depth := b.length
  ((List.range x.length).all fun r =>
      agree (residueSum (x.getD r [])) (residueOf (m.getD r [])) (residueDot (a.getD r []) b),
   (List.range cols).all fun c =>
      agree (residueSum (columnOf x c)) (residueOf (columnOf m c))
        (residueDot (columnOf b c) ((List.range depth).map (columnOf a))))

/-- What the check of one plane sees: the incoming words of the active rows, the operands, and the exact sums. -/
structure PlaneSums where
  m : List (List FVal)
  a : List (List FVal)
  b : List (List FVal)
  x : List (List FVal)

/-- The exact value of a sum, a NaN where it has none. -/
def exactSum (terms : List (List FVal)) : FVal :=
  match sumGroup terms with
  | .val v => v
  | .nan p y => .nan p y
  | .invalid => .nan fmt27.p 0

def fins (xs : List Int) : List FVal := xs.map fun x => .fin x 0

/-- The plane of an mma, with the array's errors. -/
def mmaPlane (t : Tile) (f : MmaForm) (o : EngOp) (errs : List SumError) : PlaneSums :=
  let (a, b) := mmaOperands f o
  let words (l : Nat) : List Int := t.w.getRun (27 * l) 27
  let vals (fm : Fmt) (xs : List Int) : List FVal := if formFloat f then xs.map (fdecode fm) else fins xs
  let fm := if f = .f9 then fmt9 else fmt27
  let cell (l c : Nat) : FVal :=
    let row := a.getD l []
    let col := b.map fun r => r.getD c 0
    let old := (words l).getD c 0
    let off := offAt errs 0 l c
    if formFloat f then exactSum (mmaTerms f old row col ++ offTerm off)
    else .fin (old + (List.zipWith (fun (x y : Int) => x * y) row col).sum + off) 0
  { m := o.lanes.map fun l => vals fmt27 (words l), a := o.lanes.map fun l => vals fm (a.getD l [])
    b := b.map (vals fm), x := o.lanes.map fun l => (List.range 27).map (cell l) }

/-- One plane of an mmc. Each lane has rows of X of its own, so they stand one below the other in B, and a row of A is zero
at those of other lanes. -/
def mmcPlane (tl : Tile) (t : FType) (imag : Bool) (m : MmcIn) (errs : List SumError) : PlaneSums :=
  let dec (xs : List Int) : List FVal := xs.map (fdecode (fmtOf t))
  let words (l : Nat) : List Int := tl.w.getRun (27 * l) m.cols
  let part (w : CRow) : List FVal :=
    let r := fdecode (fmtOf t) (w.1.headD 0)
    let i := fdecode (fmtOf t) (w.2.headD 0)
    if imag then [i, r] else [r, i.neg]
  { m := m.lanes.map fun l => (words l.1).map (fdecode fmt27)
    a := m.lanes.map fun l => m.lanes.flatMap fun k =>
      if k.1 = l.1 then k.2.flatMap fun b => part b.1 else List.replicate (2 * k.2.length) .zero
    b := m.lanes.flatMap fun k => k.2.flatMap fun b => [dec (b.2.1.take m.cols), dec (b.2.2.take m.cols)]
    x := m.lanes.map fun l => (List.range m.cols).map fun c =>
      exactSum (mmcTerms t imag ((words l.1).getD c 0) l.2 c ++ offTerm (offAt errs (if imag then 1 else 0) l.1 c)) }

/-- The planes that an operation's run forms, with the array's errors in it. -/
def planesOf (s : State) (o : EngOp) (errs : List SumError) : List PlaneSums :=
  match o.i with
  | .mma _ f d _ _ _ _ => ((tileOf s o d).map fun t => mmaPlane t f o errs).toList
  | .mmc _ t d _ _ x =>
    let m := unflatMmc x.blocks o.z
    ((tileOf s o d).map fun tl => mmcPlane tl t false m errs).toList ++
      ((tileOf s o (d + 1)).map fun tl => mmcPlane tl t true m errs).toList
  | _ => []

/-- Does a run of the array pass its checks (R385)? One without an error does; one with errors does where the checks of every
plane see none of them. -/
def runPasses (s : State) (o : EngOp) (errs : List SumError) : Bool :=
  errs.all (·.off == 0) ||
    (planesOf s o errs).all fun p => let r := residueCheck p.m p.a p.b p.x; r.1 && r.2

/-- MATRIX_START: the array accepts the oldest operation of its queue once both operands are complete,
which for a registered operand is at issue and otherwise with the fetch of this step. -/
def execMatrixStart (op : Nat) (s : State) : Out :=
  match s.ops.get? op with
  | none => .next s
  | some o =>
    if !matrixRuns s o || inFlight s op || !matrixNext s o.core op then .next s
    else
      let r : EngRes State := match o.i with
        | .mma _ f d _ _ asrc bsrc => startMma s op o f d asrc bsrc
        | .mmc _ t d _ _ x => startMmc s op o t d x
        | _ => .ok s
      match r with
      | .error e => .next (opStop s op o e)
      | .ok s1 => .next s1

/-- The results of a run of an operation in its tiles. -/
def matrixResult (s : State) (o : EngOp) (rerun : Bool) (errs : List SumError) : State :=
  let put (s : State) (d : Nat) (f : Tile → Tile) : State :=
    match o.strand, tileOf s o d with
    | some k, some t => putTile s k d (f t)
    | _, _ => s
  match o.i with
  | .mma _ f d _ _ _ _ => put s d fun t => mmaTile t ((mmaAttr t.attr f).getD t.attr) f o rerun errs
  | .mmc _ t d _ _ x =>
    let m := unflatMmc x.blocks o.z
    let one (s : State) (pl : Nat) : State :=
      put s (d + pl) fun tl => mmcTile tl ((mmcAttr tl.attr pl x m.scale).getD tl.attr) t (pl == 1) m rerun errs
    one (one s 0) 1
  | _ => s

/-- A word of a tile that the manual leaves unspecified (log 20). -/
def dirtyWord (n : Nat) : Int := wrapVal (Config.dirtyTileWord n) 27

/-- After a second mismatch the active rows of the tile hold what the manual does not say (R299, R329); the first one's rerun
has set the rerun trit. Whether an unwritten tile is then written, with a format and a domain, the manual leaves open: its
attribute keeps its other fields (DESIGN CHOICE, log 20). -/
def dirtyRows (s : State) (o : EngOp) : State :=
  let (tiles, rows) : List Nat × List Nat := match o.i with
    | .mma _ _ d _ _ _ _ => ([d], o.lanes)
    | .mmc _ _ d _ _ x => ([d, d + 1], (unflatMmc x.blocks o.z).lanes.map Prod.fst)
    | _ => ([], [])
  tiles.foldl (fun s d =>
    match o.strand, tileOf s o d with
    | some k, some t =>
      let row (c : Cells) (l : Nat) : Cells := c.putRun (27 * l) ((List.range 27).map fun j => dirtyWord (s.free + 27 * l + j))
      { putTile s k d { attr := setField 27 t.attr 0 1 1, w := rows.foldl row t.w } with free := s.free + 864 }
    | _, _ => s) s

/-- MATRIX_COMPLETE: rows and flag. `errs` holds the errors of the array in the operation's run and in its rerun: sums that
fail their check rerun the operation, and on the rerun are the array data-error fault (R299, R385). Sums with errors that
the check does not see are taken as they are (log 87). -/
def execMatrixComplete (op : Nat) (errs : List (List SumError)) (s : State) : Out :=
  match s.ops.get? op with
  | none => .next s
  | some o =>
    if !matrixRuns s o || o.unit != .matrix || o.phase != .active then .next s
    else
      let first := errs.headD []
      let second := (errs.drop 1).headD []
      let s1 := s.modCore o.core fun c => { c with reruns := c.reruns + 1 }
      if runPasses s o first then .next (opDone (matrixResult s o false first) op o)
      else if runPasses s o second then .next (opDone (matrixResult s1 o true second) op o)
      else .next (opFault (dirtyRows s1 o) op o 9)

/-- Is a core's array hung (R337)? -/
def arrayHung (s : State) (core : Nat) : Bool :=
  (matrixOps s core).any fun x => decide (x.2.issuedAt + Config.hang ≤ (counter s core).toNat)

/-- What the tiles of a core hold after their loss is not given: each keeps its attribute word, and its words are free
values (DESIGN CHOICE, log 81). -/
def loseTiles (s : State) (core : Nat) : State :=
  let lose (k : Nat) (st : Strand) : Strand :=
    if st.core = core then
      { st with tiles := st.tiles.map fun (d, t) =>
          (d, { t with w := Cells.putRun [] 0 ((List.range 864).map fun j => dirtyWord (s.free + 864 * (9 * k + d) + j)) }) }
    else st
  { s with strands := s.strands.map fun p => (p.1, lose p.1 p.2), free := s.free + 864 * 9 * (s.nextId + 1) }

/-- MATRIX_ENGINE_RESET (R337): the tiles of the core are lost, every weave with a strand there is
failed, and the context that owns the core halts with code 15. -/
def execMatrixEngineReset (core : Nat) (s : State) : Out :=
  if !arrayHung s core then .next s
  else
    let hit := ((s.strands.filter fun x => x.2.core == core).map fun x => x.2.weave).eraseDups
    let s1 := loseTiles s core
    let s2 := { s1 with ops := s1.ops.filter fun x => !(x.2.unit == Unit_.matrix && x.2.core == core && x.2.fault.isNone) }
    let s3 := s2.modCore core fun c => { c with latch := none }
    let fail (s : State) (w : Nat) : State :=
      match s.weaves.get? w with
      | none => s
      | some wv =>
        let s' := s.setWeave w { wv with failed := true }
        let s'' := raiseFault s' wv.ctx none none { code := 15 } (some core)
        if wv.failed then s'' else postEvent s'' wv.die 3 (wv.ctx % 256) 0 (stopWord 3 15 0 0 0 0)
    .next (hit.foldl fail s3)

end Sys2Proof.Machine
end

