-- ==== Sys2Proof/Machine/Place.lean ====
section
/-!
DEFINITION. Launch records as the hardware checks them (R340 to R344, R353), placing a weave on a
cluster (R30, R31, R455) and what its strands start with (R46 to R49, R56).
-/
namespace Sys2Proof.Machine

/-! ### Launch records (R340 to R344) -/

/-- A pair that holds a device pointer (R93, R222): trits 53:45 zero, space trit -1. -/
def devicePair (x : Int) : Bool := fits 45 x && spaceOf x == -1

def inRange (lo hi x : Int) : Bool := decide (lo ≤ x) && decide (x ≤ hi)

/-- Trits 15 to 23 of the resources word are 0 or +1. -/
def tilesLegal (w : Int) : Bool := (List.range 9).all fun i => trit 27 w (15 + i) != -1

/-- Fields of words 21 to 23: of a node, or all 0 (R343). -/
def nodeFields (kind : Nat) (r : List Int) : Bool :=
  if kind = 1 then
    inRange 1 4096 (sgd (recWord r 21) 18 9) && inRange 1 4096 (sgd (recWord r 21) 9 9) &&
      inRange 1 (3 ^ 26) (recWord r 22) && inRange 1 531441 (sgd (recWord r 23) 9 15)
  else recWord r 21 == 0 && recWord r 22 == 0 && recWord r 23 == 0

/-- Ranges and rules of R340 to R343, for a record of a kind. -/
def recordOk (kind : Nat) (r : List Int) : Bool :=
  let size := recWord r 3
  let offset (x m : Int) : Bool := x % m == 0 && decide (0 ≤ x) && decide (x < size)
  let table (n : Nat) (x : Int) : Bool := if n = 0 then x == 0 else devicePair x
  recKind r == kind && idx (recWord r 0) 21 3 == 0 &&
    decide (recArgs r ≤ (if kind = 1 then 53 else 54)) && decide (recPush r ≤ 9) &&
    decide (recBindings r ≤ 9) && decide (recSuccs r ≤ 9) &&
    devicePair (recPair r 1) && inRange 81 (3 ^ 26) size && size % 81 == 0 &&
    offset (recWord r 4) 3 && offset (recWord r 5) 3 && offset (recWord r 16) 81 &&
    ([7, 8, 9].all fun i => inRange 1 1594323 (recWord r i)) &&
    ([10, 11, 12].all fun i => inRange 1 131072 (recWord r i)) && decide (recThreads r ≤ 131072) &&
    tilesLegal (recWord r 13) && inRange 0 177147 (recWord r 14) && inRange 0 1594323 (recWord r 15) &&
    table (recBindings r) (recPair r 17) && table (recSuccs r) (recPair r 19) &&
    (kind == 1 || recSuccs r == 0) && nodeFields kind r

/-- Reserved fields of a record, which the BQI leaves to the first dispatch (R344). -/
def reservedClear (r : List Int) : Bool :=
  sgd (recWord r 0) 0 8 == 0 && sgd (recWord r 6) 6 19 == 0 && sgd (recWord r 13) 0 9 == 0 &&
    sgd (recWord r 21) 0 9 == 0 && sgd (recWord r 23) 0 9 == 0 &&
    ([24, 25, 26].all fun i => recWord r i == 0)

/-- Further rules of a handler's record (R353). -/
def handlerRecord (r : List Int) : Bool :=
  recordOk 2 r && recGrid r == [1, 1, 1] && inRange 1 32 (recWord r 10) && recWord r 11 == 1 &&
    recWord r 12 == 1 && (recTiles r).isEmpty && recWindow r == 0 && recBindings r == 0 && recSuccs r == 0

/-- Is every page of a code segment executable (R344)? -/
def codeExec (s : State) (ctx : Nat) (base : Int) (size : Nat) : Bool :=
  let ok (p : Int) : Bool :=
    match translate s ctx .exec p with
    | .ok (.home _ _) => true
    | _ => false
  (List.range ((size + 3 ^ 10 - 1) / 3 ^ 10)).all (fun i => ok (base + 3 ^ 10 * (i : Int))) &&
    ok (base + size - 1)

/-! ### Placement (R30, R31) -/

/-- A core's room: its key, allocated granules, and what is left of slots, granules and tiles. -/
structure Room where
  core : Nat
  used : Nat
  slots : Nat
  granules : Nat
  tiles : Nat
  deriving DecidableEq, Repr

def roomOf (s : State) (core : Nat) : Room :=
  let sts := s.strands.filter fun x => x.2.core == core && !x.2.handler
  { core, used := allocated s core, slots := Config.strandSlots - sts.length,
    granules := freeGranules s core, tiles := Config.tileStore - (sts.map fun x => x.2.tiles.length).sum -
      ((s.weaves.map fun x => ((x.2.spent.filter fun y => y.1 == core).map Prod.snd).sum).sum) }

/-- What a number of strands of `g` granules and `t` tiles leave of a room; none where they do not fit. -/
def Room.take (r : Room) (n g t : Nat) : Option Room :=
  if n ≤ r.slots ∧ n * g ≤ r.granules ∧ n * t ≤ r.tiles then
    some { r with used := r.used + n * g, slots := r.slots - n, granules := r.granules - n * g, tiles := r.tiles - n * t }
  else none

/-- The room with the fewest allocated granules, the lowest core among equals. -/
def emptiest (rs : List Room) : Option Room :=
  leastBy (fun a b => decide (a.used < b.used) || (a.used == b.used && decide (a.core ≤ b.core))) rs

/-- Strands with given granules, in number order, each to the emptiest core that still holds it. -/
def placeList (t : Nat) : List Nat → List Room → Option (List Nat)
  | [], _ => some []
  | g :: gs, rs =>
    match emptiest (rs.filter fun r => (r.take 1 g t).isSome) with
    | none => none
    | some r =>
      (placeList t gs (rs.map fun x => if x.core = r.core then (x.take 1 g t).getD x else x)).map (r.core :: ·)

/-- The core of every strand of a weave on a cluster (R31): one core if one holds them all. -/
def placeOn (rooms : List Room) (gs : List Nat) (t : Nat) : Option (List Nat) :=
  let whole (r : Room) : Bool :=
    decide (gs.length ≤ r.slots) && decide (gs.sum ≤ r.granules) && decide (gs.length * t ≤ r.tiles)
  match emptiest (rooms.filter whole) with
  | some r => some (gs.map fun _ => r.core)
  | none => placeList t gs rooms

/-! ### Windows (R455) -/

/-- Spans of scratchpad words that the weaves of a cluster hold. -/
def heldSpans (s : State) (die cluster : Nat) : List (Nat × Nat) :=
  (s.weaves.filter fun x => x.2.die == die && x.2.cluster == cluster && x.2.len != 0).map fun x =>
    (x.2.base, x.2.base + x.2.len)

def spanFree (held : List (Nat × Nat)) (base len : Nat) : Bool :=
  len == 0 || (decide (base + len ≤ Config.scratchWords) &&
    held.all fun h => decide (base + len ≤ h.1) || decide (h.2 ≤ base))

/-- The lowest multiple of 81 at which a window is free. -/
def windowBase (s : State) (die cluster len : Nat) : Option Nat :=
  if len = 0 then some 0
  else
    let held := heldSpans s die cluster
    let cands := 0 :: held.map fun h => (h.2 + 80) / 81 * 81
    leastBy (fun a b => decide (a ≤ b)) (cands.filter fun b => spanFree held b len)

/-! ### Strands at their start (R20, R46 to R49, R56) -/

/-- A thread at its start. An absent lane holds no PC (R20), and no rule gives one to its block of a stop record: it is
the entry address here (DESIGN CHOICE, log 80). -/
def newThread (present : Bool) (pc : Int) : Thread := { status := if present then .ready else .absent, pc }

/-- A strand of a launch record: threads, arguments, pointers, trap state. -/
def newStrand (r : List Int) (recPtr : Int) (weave number core base : Nat) : Strand :=
  let threads := recThreads r
  { weave, number, core, granules := recGranules r, tiles := (recTiles r).map fun d => (d, {}),
    threads := (List.range 32).map fun l => newThread (decide (32 * number + l < threads)) (recWord r 4),
    s := Cells.putRun [] 0 ((List.range (recArgs r)).map fun j => recWord r (27 + j)),
    a := Cells.putRun [] 0 [recPtr + 81, base],
    mask := { maskOf (recWord r 6) with global := false }, handlerPc := recWord r 5 }

/-- A weave of a launch record, at the coordinates of its number (R33). The weaves of a coalesced group may be more than
the node's grid has, which R33 does not foresee: `wz` goes on past GZ - 1 (DESIGN CHOICE, log 80). -/
def newWeave (r : List Int) (recPtr : Int) (die ctx launch num part cluster base age : Nat) : Weave :=
  let g := recGrid r
  let gx := g.getD 0 1
  let gy := g.getD 1 1
  { die, ctx, launch, num, wx := num % gx, wy := num / gx % gy, wz := num / gx / gy, shape := recShape r,
    nstrands := recStrands r, pass := recPass r, part, cluster, base, len := recWindow r, age,
    codeBase := recPair r 1, codeSize := (recWord r 3).toNat, recPtr }

/-- Enter strands under fresh numbers. -/
def addStrands (s : State) (sts : List Strand) : State :=
  sts.foldl (fun s st => { s with strands := s.strands.put s.nextId st, nextId := s.nextId + 1 }) s

end Sys2Proof.Machine
end

