-- ==== Sys2Proof/Machine/Message.lean ====
section
/-!
DEFINITION. Active messages: msg, the message unit's events and the handler strands that they spawn
(R126, R310, R311, R353, R386).
-/
namespace Sys2Proof.Machine

def execMsg (g : Guard) (a b : Nat) (sc : Scope) (n : Nat) (s : State) : Out :=
  engineWord (.msg g a b sc n) .message s fun w o =>
    { o with block := sBlock w.st a n, sval := w.st.sget b }

/-! ### Targets (R310) -/

structure Target where
  die : Nat
  cluster : Nat
  handler : Nat
  handle : Nat
  deriving DecidableEq, Repr

/-- The fields of a target word; none for a reserved value. -/
def readTarget (w : Int) : Option Target :=
  let t : Target := ⟨idx w 25 2, idx w 22 3, idx w 16 6, idx w 8 8⟩
  if 7 < t.die ∨ 15 < t.cluster ∨ sgd w 0 8 ≠ 0 then none else some t

/-- Does the scope cover the target cluster (R100, R126)? -/
def scopeReaches (sc : Scope) (die cluster : Nat) (t : Target) : Bool :=
  match sc with
  | .thd | .snd | .wv => false
  | .cl => t.die == die && t.cluster == cluster
  | .die => t.die == die
  | .pkg | .sys => true

/-- The record that entry `h` of a context's handler table names (R353): pointer and record. -/
def handlerEntry (s : State) (ctx h : Nat) : Option (Int × List Int) := do
  let c ← s.contexts.get? ctx
  if c.handlerTab = 0 then none
  else
    let p ← (ctxPair s (ctx / 256) c.root (c.handlerTab + 6 * h)).toOption
    if !devicePair p then none
    else
      let r ← (ctxWords s ctx p 81).toOption
      if handlerRecord r then some (p, r) else none

/-- The owner's export index that a target word's message handle names (R393, R398): none where the entry is not one of
kind 2 for the target's die, or has a reserved trit set (log 38). -/
def messageExport (s : State) (ctx : Nat) (t : Target) : Option Nat := do
  let c ← s.contexts.get? ctx
  let e ← (ctxPair s (ctx / 256) c.root (c.handleTab + 6 * t.handle)).toOption
  if field 54 e 51 3 ≠ 2 ∨ field 54 e 48 3 ≠ t.die ∨ sfield 54 e 0 8 ≠ 0 then none else some (field 54 e 38 8)

/-- The context that an export of a die belongs to. -/
def exporter (s : State) (die exp : Nat) : Option Nat := ((s.die die).exports.get? exp).map fun x => x.1

/-- The context whose handler a message starts: the sender's own, or the exporting one of a message
handle (R398). -/
def targetCtx (s : State) (ctx : Nat) (t : Target) : Option Nat :=
  if t.die = ctx / 256 then some ctx else (messageExport s ctx t).bind (exporter s t.die)

/-- What the device reads of an entry of a context's handler table and of the record that it names (R361). -/
def touchHandler (s : State) (ctx h : Nat) : State :=
  match s.contexts.get? ctx with
  | none => s
  | some c =>
    if c.handlerTab = 0 then s
    else
      let at_ : Int := c.handlerTab + 6 * h
      let s1 := touchReads s (pairKeys s (ctx / 256) c.root at_).eraseDups
      match ctxPair s (ctx / 256) c.root at_ with
      | .ok p => if devicePair p then touchRun s1 ctx p 243 else s1
      | .error _ => s1

/-- What the device reads as it checks a target (R310, R361): a message handle, and the handler's entry and record. -/
def touchTarget (s : State) (ctx : Nat) (t : Target) : State :=
  let s1 := match s.contexts.get? ctx with
    | some c =>
      if t.die = ctx / 256 then s
      else touchReads s (pairKeys s (ctx / 256) c.root (c.handleTab + 6 * t.handle)).eraseDups
    | none => s
  match targetCtx s ctx t with
  | some x => touchHandler s1 x t.handler
  | none => s1

/-- What a msg names once every check of R310 passes: target, target context. -/
def checkTarget (s : State) (o : EngOp) (sc : Scope) : Option (Target × Nat) := do
  let t ← readTarget o.sval
  let ctx ← targetCtx s o.ctx t
  let _ ← handlerEntry s ctx t.handler
  if (enabledCores s (16 * t.die + t.cluster)).isEmpty || !scopeReaches sc o.die (o.cluster % 16) t then none
  else some (t, ctx)

/-! ### Handler slots (R311, R353) -/

/-- Handler slots that a cluster's handlers and its accepted messages take. -/
def handlersOn (s : State) (cluster : Nat) : Nat :=
  (s.strands.filter fun x => x.2.handler && clusterOf x.2.core == cluster).length + (s.cluster cluster).inbox.length

/-- The partition in which a handler of a context may start on a cluster: one the context holds and
that is not halting, or a free one (log 32). -/
def handlerPart (s : State) (die cluster ctx : Nat) : Option Nat :=
  match (List.range 3).find? fun p =>
      partHolds p cluster && (s.part die p).phase != .free && (s.part die p).ctx == ctx with
  | some p => if halting (s.part die p) then none else some p
  | none => (List.range 3).find? fun p => partHolds p cluster && partFree s die p

/-- May the message unit of a cluster accept a message now: a free buffer entry and a free handler slot (R386, R353),
for a context that has not faulted (log 32)? -/
def canAccept (s : State) (t : Target) (ctx : Nat) : Bool :=
  let cl := 16 * t.die + t.cluster
  decide ((s.cluster cl).inbox.length < Config.inboxEntries) && decide (handlersOn s cl < (s.die t.die).handlers) &&
    (s.contexts.get? ctx).any fun c => c.status == .alive

/-- A context takes a partition that nobody holds. -/
def holdPart (s : State) (die p ctx : Nat) : State :=
  if (s.part die p).phase = .free then
    (s.modPart die p fun x => { x with ctx, phase := .run, since := s.cycle, forCtx := none }).modCtx ctx fun c =>
      { c with waitSince := s.cycle }
  else s

/-- Where a message has given its context a partition that was free, triggers are tested (R349), once what the context has
come there for is there. -/
def heldNow (s0 s : State) (die p : Nat) : State := if (s0.part die p).phase = .free then triggers s die else s

/-- The handler strand of a message (R311): payload, zeros, and the sender in s80. Its start is an
acquire .all (R126, R360). It ignores priority and drain (R353): only with its weave there are triggers tested. -/
def spawnHandler (s : State) (cl p core : Nat) (recPtr : Int) (r : List Int) (x : Letter) : State :=
    let s0 := becomesResident (holdPart s (cl / 16) p x.ctx) x.ctx
    let w := s0.nextId
    let wv := { newWeave r recPtr (cl / 16) x.ctx 0 0 p (cl % 16) 0 w with len := 0 }
    let st := newStrand r recPtr w 0 core 0
    let regs : Cells := (Cells.putRun [] 0 x.payload).put 80 x.sender
    heldNow s (dropAll (addStrands { s0 with weaves := s0.weaves.put w wv, nextId := w + 1 }
      [{ st with handler := true, s := regs }]) core) (cl / 16) p

/-- The handler of one accepted message starts, where its context has a partition to run it in; a record with a nonzero
reserved field is the engine-error fault (R344), for which a context that holds no partition takes the one that the handler
would have run in. A message whose table entry has gone is dropped (log 32). -/
def openLetter (cl : Nat) (s : State) (x : Letter) : State :=
  let waits := !(s.contexts.get? x.ctx).any fun c => c.status == .alive
  match handlerPart s (cl / 16) (cl % 16) x.ctx, handlerCore s cl with
  | some p, some core =>
    if waits then s
    else
      let c := s.cluster cl
      let s1 := touchHandler (s.setCluster cl { c with inbox := c.inbox.erase x }) x.ctx x.handler
      match handlerEntry s x.ctx x.handler with
      | none => s1
      | some (ptr, r) =>
        if reservedClear r then spawnHandler s1 cl p core ptr r x
        else
          let s2 := if (partsOf s1 x.ctx).isEmpty then holdPart s1 (cl / 16) p x.ctx else s1
          heldNow s1 (raiseFault s2 x.ctx none none { code := 12 } (some core)) (cl / 16) p
  | _, _ => s

/-- Every accepted message of a cluster, oldest first. -/
def openInbox (s : State) (cl : Nat) : State := (s.cluster cl).inbox.foldl (openLetter cl) s

/-- Accept a message if the unit can: it enters the receive buffer, and its handler starts. -/
def deliver (s : State) (t : Target) (ctx : Nat) (payload : List Int) (sender : Nat) : Option State :=
  let cl := 16 * t.die + t.cluster
  if canAccept s t ctx then
    let c := s.cluster cl
    some (openInbox (s.setCluster cl { c with inbox := c.inbox ++ [⟨ctx, t.handler, payload, sender⟩] }) cl)
  else none

/-! ### Sending (R310, R386) -/

/-- Message operations of a cluster's send queue, in issue order. -/
def messageOps (s : State) (cluster : Nat) : List (Nat × EngOp) :=
  s.ops.filter fun x => x.2.unit == .message && x.2.cluster == cluster && x.2.fault.isNone

/-- Do two target words name one target cluster (R310)? -/
def sameTarget (x y : Int) : Bool := idx x 25 2 == idx y 25 2 && idx x 22 3 == idx y 22 3

/-- Is an operation the first of its send queue for its target cluster? -/
def messageTurn (s : State) (n : Nat) (o : EngOp) : Bool :=
  (((messageOps s o.cluster).find? fun x => sameTarget x.2.sval o.sval).map Prod.fst) == some n

def mayRetry (s : State) (o : EngOp) : Bool :=
  match o.phase with
  | .queued => true
  | .retry t => decide (t ≤ fabricCycle s)
  | _ => false

/-- The wait before a refused message is sent again; it does not count as a stall, nor does that of the messages behind it
(R320, R353, R386). -/
def retryLater (s : State) (n : Nat) : State :=
  let s1 := s.modOp n fun x => { x with phase := .retry (fabricCycle s + 81) }
  match s.ops.get? n with
  | none => s1
  | some o =>
    (((messageOps s o.cluster).filter fun x => sameTarget x.2.sval o.sval).map Prod.fst).foldl (fun s m =>
      s.modOp m fun x => { x with movedAt := (counter s x.core).toNat }) s1

/-- The packet of a message for another die (R393): its requester is the sender's core, its export that of the message
handle, and the target word stands for the offset. -/
def messagePacket (s : State) (n : Nat) (o : EngOp) (t : Target) : Packet :=
  { type := .message, src := o.die, dst := t.die, requester := coreRequester o.core,
    export_ := (messageExport s o.ctx t).getD 0, w0 := o.w0, w1 := o.w1, payload := o.block,
    offset := leNat (wordBytes o.sval), serves := n, at_ := o.die, beats := beatsFor (6 * o.block.length) }

/-- MESSAGE_SEND: the checks of R310, then the message leaves for its target unit, over the rim for
another die. -/
def execMessageSend (op : Nat) (s : State) : Out :=
  match s.ops.get? op with
  | none => .next s
  | some o =>
    match o.i with
    | .msg _ _ _ sc _ =>
      if !opRuns s op o || !messageTurn s op o || !mayRetry s o then .next s
      else
        let s1 := ((readTarget o.sval).map (touchTarget s o.ctx)).getD s
        match checkTarget s o sc with
        | none => .next (opFault s1 op o 12)
        | some (t, _) =>
          if t.die = o.die then .next (s1.modOp op fun x => { x with phase := .sent 0 })
          else .next ((addPacket s1 (messagePacket s op o t)).modOp op fun x => { x with phase := .sent s1.nextId })
    | _ => .next s

/-- MESSAGE_ACCEPT (R386) at a target unit of the sender's own die: the handler is spawned, or the
sender tries again no sooner than 81 fabric cycles later. -/
def execMessageAccept (op : Nat) (s : State) : Out :=
  match s.ops.get? op with
  | none => .next s
  | some o =>
    match o.phase, readTarget o.sval with
    | .sent 0, some t =>
      if !opRuns s op o || t.die != o.die then .next s
      else
        match deliver s t o.ctx o.block o.cluster with
        | some s1 => .next (opDone s1 op o)
        | none => .next (retryLater s op)
    | _, _ => .next s

end Sys2Proof.Machine
end

