-- ==== Sys2Proof/Machine/Fabric.lean ====
section
/-!
DEFINITION. The rim (R391 to R397): links, beats and their check, routing, channels and their slots; and
peer requests at the owner's tracker and back at the requester (R399 to R404).
-/
namespace Sys2Proof.Machine

/-! ### Packets as bytes (R392, R393) -/

def pktTypes : List PktType :=
  [.read, .write, .atomic, .dataResponse, .acknowledgement, .refusal, .slotReady, .message, .messageAccepted,
   .messageRefused]
def channels : List Channel := [.adaptive, .e0, .e1]

/-- The content bytes of a packet: its header, then its payload, in whole beats. -/
def packetBytes (p : Packet) : List Nat :=
  let payload := if p.type = .message then p.payload.flatMap wordBytes else streamBytes p.payload
  let bytes := [pktTypes.idxOf p.type + 16 * channels.idxOf p.channel, p.beats, p.src + 8 * p.dst,
      p.requester % 128] ++ leBytes 2 p.seq ++ leBytes 2 p.export_ ++ leBytes 8 p.offset ++ wordBytes p.w0 ++
    wordBytes p.w1 ++ leBytes 2 p.status ++ payload
  bytes ++ List.replicate (62 * p.beats - bytes.length) 0

/-- A packet whose content bytes are as received; none for a reserved type or a nonzero reserved bit, or
for trits that no code stands for. What it serves is the sender's and receiver's own. -/
def readPacket (p : Packet) (bytes : List Nat) : Option Packet := do
  let at_ (i : Nat) : Nat := bytes.getD i 0
  let run (i n : Nat) : List Nat := (bytes.drop i).take n
  let type ← pktTypes[at_ 0 % 16]?
  let channel ← channels[at_ 0 / 16]?
  let w0 ← bytesWord (run 16 6)
  let w1 ← bytesWord (run 22 6)
  let payload ← if type = .message then (chunks 6 27 (run 30 (6 * p.payload.length))).mapM bytesWord
    else (streamTrytes p.payload.length (run 30 (streamLength p.payload.length))).toOption
  if at_ 1 < 1 ∨ 4 < at_ 1 ∨ 64 ≤ at_ 2 ∨ 96 ≤ at_ 3 then none
  else
    some { p with type, channel, src := at_ 2 % 8, dst := at_ 2 / 8, requester := p.requester / 128 * 128 + at_ 3,
                  seq := leNat (run 4 2), export_ := leNat (run 6 2), offset := leNat (run 8 8), w0, w1,
                  status := leNat (run 28 2), payload }

/-- One bit into a CRC-16 of polynomial 0x1021, and a byte, highest bit first (log 24). -/
def crcBit (c : Nat) (b : Nat) : Nat :=
  let top := (c / 32768 + b) % 2
  let c' := c % 32768 * 2
  if top = 1 then c' ^^^ 0x1021 else c'
def crcByte (c x : Nat) : Nat := (List.range 8).foldl (fun c i => crcBit c (x / 2 ^ (7 - i) % 2)) c

/-- Does a beat pass its receiver's check with these 64 bytes of noise on it? The check is linear, so it
passes just when the noise on the content has the noise on the code as its own code. -/
def beatGood (noise : List Nat) : Bool :=
  noise.all (· == 0) ||
    (let at_ (i : Nat) : Nat := noise.getD i 0
     ((List.range 62).map at_).foldl crcByte 0 == at_ 62 % 256 * 256 + at_ 63 % 256)

/-! ### Channels (R395, R396) -/

/-- The dateline (R395). -/
def dateline (l : Nat) : Bool := l == 28 || l == 1

/-- Beat slots that packets hold at the input port of a link, on one channel. -/
def slotsHeld (s : State) (l : Nat) (c : Channel) : Nat :=
  ((s.packets.filter fun x => x.2.port == some l && x.2.channel == c).map fun x => x.2.beats).sum

def slotsOf : Channel → Nat
  | .adaptive => 54
  | _ => 6

def hasRoom (s : State) (l : Nat) (c : Channel) (n : Nat) : Bool := decide (slotsHeld s l c + n ≤ slotsOf c)

/-- The channel that a packet takes over its next link (R396); none while no slots are free. A packet that has waited
for both no longer takes the adaptive one (R405). -/
def nextChannel (s : State) (p : Packet) (l : Nat) : Option Channel :=
  let crossed := p.crossed || dateline l
  let escape : Channel := if crossed then .e1 else .e0
  if p.channel = .adaptive ∧ !p.waits ∧ hasRoom s l .adaptive p.beats then some .adaptive
  else if hasRoom s l escape p.beats then some escape
  else none

/-! ### The order of a crossbar (R389) -/

/-- Is a packet on its way over a link? -/
def onLink (s : State) (id : Nat) (p : Packet) : Bool :=
  match p.port with
  | some l => (s.link l).queue.contains id
  | none => false

/-- The spoke of a requester: a core, or the copy engine or transform unit of a cluster (R393). -/
def requesterSpoke (r : Nat) : Nat := if r % 128 < 64 then r % 128 / 32 else r % 16 / 8
/-- The spoke of the cluster that a message's target word, which stands for the offset, names. -/
def targetSpoke (off : Nat) : Nat := ((bytesWord (leBytes 6 off)).map fun w => idx w 22 3 / 8).getD 0

/-- The places that a request names, in order. -/
def requestPlaces (p : Packet) : List Place :=
  if p.split.isEmpty then (List.range p.size).map fun i => .peer p.dst p.export_ (p.offset + i) else p.split

/-- The port of the home slice of a place (R389): 2 to 17, or 18 for what the tracker itself answers. -/
def slicePort (s : State) (p : Option Place) : Nat :=
  match p.bind fun x => (placeKey s .read x).toOption with
  | some (k, _) => ((homeOf s (k / 3 ^ 27) (k % 3 ^ 27 / 81)).map fun h => 2 + h.slice).getD 18
  | none => 18

/-- The port at which a packet entered its die: a link's, a spoke's, or a slice's. -/
def sourcePort (s : State) (p : Packet) : Nat :=
  match p.port with
  | some l => 32 + l
  | none =>
    match p.type with
    | .read | .write | .atomic => requesterSpoke p.requester
    | .message => requesterSpoke p.requester
    | .messageAccepted | .messageRefused => targetSpoke p.offset
    | .dataResponse | .acknowledgement => slicePort s p.split.head?
    | .refusal | .slotReady => 18

/-- The port at which it leaves its die. -/
def destPort (s : State) (p : Packet) : Nat :=
  if p.dst = p.at_ then
    match p.type with
    | .read | .write | .atomic => slicePort s ((requestPlaces p).find? isPeer)
    | .message => targetSpoke p.offset
    | .messageAccepted | .messageRefused => requesterSpoke p.requester
    | _ => requesterSpoke p.requester
  else 32 + nextLink s p.at_ p.src p.dst

/-- Packets at a die that entered at a port, in the order in which they entered. -/
def atPort (s : State) (p : Packet) : List Nat :=
  match p.port with
  | some l => (s.link l).held
  | none => (s.packets.filter fun x =>
      x.2.at_ == p.at_ && x.2.port.isNone && sourcePort s x.2 == sourcePort s p).map Prod.fst

/-- Is a packet the first of those that go from its source port to its destination port? -/
def firstInOrder (s : State) (id : Nat) (p : Packet) : Bool :=
  !onLink s id p &&
    ((atPort s p).find? fun q => match s.packets.get? q with
      | some x => destPort s x == destPort s p
      | none => false) == some id

/-! ### Tracker entries (R402, R403) -/

/-- Answer to a request or message: back to its source. -/
def answer (p : Packet) (type : PktType) (status : Nat) (payload : List Int) (fault : Option Nat) : Packet :=
  { p with type, src := p.dst, dst := p.src, at_ := p.dst, status, payload, fault, port := none,
           channel := .adaptive, crossed := false,
           beats := if 64 ≤ p.requester % 128 ∧ type = .dataResponse ∧ p.type = .read then 3
             else beatsFor (streamLength payload.length), waits := false }

/-- Reserve free entries for the oldest tickets, each with its slot-ready packet (R403). -/
def serveTickets (s : State) (d : Nat) : State :=
  let t := (s.die d).tracker
  match t.tickets with
  | [] => s
  | (r, n) :: rest =>
    if 256 ≤ t.entries.length + t.reserved.length then s
    else
      let p : Packet := { type := .slotReady, src := d, dst := r / 128, requester := r, status := 16 * (n % 4096),
                          at_ := d }
      let t' := { t with tickets := rest, reserved := t.reserved ++ [(r, fabricCycle s)] }
      addPacket (s.modDie d fun x => { x with tracker := t' }) p

/-- A response has been sent: its tracker entry frees. -/
def freeEntry (s : State) (d id : Nat) : State :=
  if (s.die d).tracker.entries.contains id then
    serveTickets (s.modDie d fun x =>
      { x with tracker := { x.tracker with entries := x.tracker.entries.filter (· != id) } }) d
  else s

/-- A packet is consumed or discarded: its slots are free (R397). -/
def dropPacket (s : State) (id : Nat) : State :=
  match s.packets.get? id with
  | none => s
  | some p =>
    let s1 := match p.port with
      | some l =>
        let x := s.link l
        s.setLink l { x with queue := x.queue.filter (· != id), held := x.held.filter (· != id) }
      | none => s
    freeEntry { s1 with packets := s1.packets.del id } p.src id

/-! ### Answers at the requester (R397, R401) -/

/-- The accesses that a request packet or its answer stands for, in lane order. -/
def served (s : State) (p : Packet) : List Acc :=
  s.accs.filter fun a => a.group == p.serves && a.seq == p.seq && isSent a.phase

/-- Replace the accesses that a packet stands for. -/
def settleAccs (s : State) (p : Packet) (f : Acc → Acc) : State :=
  { s with accs := s.accs.map fun a =>
      if a.group == p.serves && a.seq == p.seq && isSent a.phase then f a else a }

/-- After an answer: the word or the engine's line is finished if it can be. -/
def finishServed (s : State) (g : Nat) : State :=
  if (s.ops.get? g).isSome then engineLand s g
  else if (groupOf s g).any (·.prefetch.isSome) then { s with accs := s.accs.filter fun a => a.group != g }
  else thenReplay (if (groupOf s g).any awaits then landWait s g else finishMem s g) (strandOfGroup s g)

/-- After an answer: requests that wait for a permit go out, and what it belongs to may be done. -/
def afterAnswer (s : State) (p : Packet) (owner : Nat) : State :=
  finishServed (sendRequests s p.requester owner) p.serves

/-- The requests that wait for a slot-ready which will not come have failed (R392). -/
def loseTicket (s : State) (p : Packet) : State :=
  let mine (a : Acc) : Bool := routeOf s a == some (p.requester, p.src) && a.phase == .refused true
  let gs := ((s.accs.filter mine).map (·.group)).eraseDups
  gs.foldl finishServed { s with accs := s.accs.map fun a => if mine a then { a with phase := .failed 7 } else a }

/-- A packet that cannot reach its end (R392, R393): the request it belongs to is answered with the
data-integrity fault on the requesting context. -/
def lose (s : State) (id : Nat) (p : Packet) : State :=
  let s1 := dropPacket s id
  match p.type with
  | .read | .write | .atomic => afterAnswer (settleAccs s1 p fun a => { a with phase := .failed 7 }) p p.dst
  | .dataResponse | .acknowledgement | .refusal =>
    afterAnswer (settleAccs s1 p fun a => { a with phase := .failed 7 }) p p.src
  | .slotReady => loseTicket s1 p
  | .message | .messageAccepted | .messageRefused =>
    match s1.ops.get? p.serves with
    | some o => opFault s1 p.serves o 7
    | none => s1

/-! ### Beats (R392) -/

/-- The last beat of a packet is in: it stands at the input port, or is discarded (R393). -/
def landPacket (s : State) (l id : Nat) (p : Packet) : State :=
  let x := s.link l
  let s1 := s.setLink l { x with queue := x.queue.drop 1, held := x.held ++ [id], beat := 0 }
  s1.modPkt id fun _ => { p with at_ := linkEnd l, crossed := p.crossed || dateline l }

/-- BEAT_RECEIVE: the next beat of a link, with noise on its 64 bytes. -/
def execBeatReceive (link : Nat) (noise : List Nat) (s : State) : Out :=
  let x := s.link link
  match x.queue with
  | [] =>
    -- beats to and from the I/O die carry the host traffic, which is no packet of the rim
    if link % 4 < 2 ∨ x.retraining ∨ x.down ∨ 8 ≤ x.attempts then .next s
    else .next (s.setLink link { x with attempts := if beatGood noise then 0 else x.attempts + 1 })
  | id :: _ =>
    match s.packets.get? id with
    | none => .next s
    | some p =>
      if x.retraining || x.down || decide (8 ≤ x.attempts) then .next s
      else if !beatGood noise then .next (s.setLink link { x with attempts := x.attempts + 1 })
      else
        let xs := (List.range 62).map fun i => noise.getD i 0 % 256
        let bytes := packetBytes p
        let got := if xs.all (· == 0) then some p
          else readPacket p ((List.range bytes.length).map fun i =>
            if i / 62 = x.beat then bytes.getD i 0 ^^^ xs.getD (i % 62) 0 else bytes.getD i 0)
        let s1 := s.setLink link { x with attempts := 0, beat := x.beat + 1 }
        match got with
        | none => .next (lose (s1.setLink link { x with attempts := 0, beat := 0 }) id p)
        | some p' =>
          if x.beat + 1 < p.beats then .next (s1.modPkt id fun _ => p') else .next (landPacket s1 link id p')

/-- The other direction of a link (R391). -/
def backLink (l : Nat) : Nat :=
  match l % 4 with
  | 0 => 4 * ((l / 4 + 1) % 8) + 1
  | 1 => 4 * ((l / 4 + 7) % 8)
  | 2 => l + 1
  | _ => l - 1

/-- LINK_RETRAIN: after 8 failed attempts in a row; both directions of the link wait. -/
def execLinkRetrain (link : Nat) (s : State) : Out :=
  let x := s.link link
  if 8 ≤ x.attempts ∧ !x.down then
    let s1 := s.setLink link { x with attempts := 0, retraining := true, retrains := x.retrains + 1 }
    .next (s1.setLink (backLink link) { s1.link (backLink link) with attempts := 0, retraining := true })
  else .next s

/-- Packets whose route crosses a link that is down. -/
def crossing (s : State) (p : Packet) : Bool := (routeLinks s p.src p.dst 8 p.at_).any fun l => (s.link l).down

/-- Replay entries that waited for an I/O link go on (R334, R392). -/
def wakeReplays (s : State) (die : Nat) : State :=
  (s.strands.filter fun x => dieOf x.2.core == die && !x.2.replay.isEmpty).foldl (fun s x => thenReplay s (some x.1)) s

/-- LINK_RETRAINING_COMPLETE: the waiting traffic flows again, or the link is down in both directions until module
reset and what was on it is discarded. -/
def execLinkRetrainingComplete (link : Nat) (ok : Bool) (s : State) : Out :=
  let x := s.link link
  if !x.retraining then .next s
  else
    let y := s.link (backLink link)
    let s1 := (s.setLink link { x with retraining := false, down := x.down || !ok }).setLink (backLink link)
      { y with retraining := false, down := y.down || !ok }
    let s2 := if ok then s1 else (x.queue ++ y.queue).foldl (fun s id => match s.packets.get? id with
      | some p => lose s id p
      | none => s) s1
    .next (if 2 ≤ link % 4 then wakeReplays s2 (link / 4) else s2)

/-! ### Forwarding (R395, R396) -/

/-- PACKET_FORWARD: a packet leaves for its next hop once its channel there has slots for all its beats. -/
def execPacketForward (pkt : Nat) (s : State) : Out :=
  match s.packets.get? pkt with
  | none => .next s
  | some p =>
    if p.at_ = p.dst ∨ !firstInOrder s pkt p then .next s
    else if crossing s p then .next (lose s pkt p)
    else
      let l := nextLink s p.at_ p.src p.dst
      match nextChannel s p l with
      | none => .next (s.modPkt pkt fun x => { x with waits := p.channel == .adaptive })
      | some c =>
        let s1 := match p.port with
          | some k => s.setLink k { s.link k with held := (s.link k).held.filter (· != pkt) }
          | none => s
        let s2 := s1.modPkt pkt fun x => { x with port := some l, channel := c }
        let s3 := s2.setLink l { s2.link l with queue := (s2.link l).queue ++ [pkt] }
        .next (freeEntry s3 p.at_ pkt)

/-! ### The owner (R399, R400, R402) -/

inductive Verdict where
  | accept | order | full
  | ticket (n : Nat)
  deriving DecidableEq, Repr

/-- The first row of the tracker's table that matches (R402). -/
def verdict (t : Tracker) (requester seq : Nat) : Verdict :=
  if (t.expect.get? requester).getD 0 ≠ seq then .order
  else if t.reserved.any (fun r => r.1 == requester) then .accept
  else if t.entries.length + t.reserved.length < 256 then .accept
  else if t.recorded.contains requester then
    .ticket (((t.tickets.find? fun x => x.1 == requester).map Prod.snd).getD t.nextTicket)
  else .full

/-- What the tracker keeps of a decision; `id` is the response of an accepted request. -/
def Tracker.decide_ (t : Tracker) (requester id : Nat) : Verdict → Tracker
  | .accept =>
    { t with entries := t.entries ++ [id], reserved := t.reserved.filter fun r => r.1 != requester,
             recorded := t.recorded.filter (· != requester), tickets := t.tickets.filter fun x => x.1 != requester,
             expect := t.expect.put requester (((t.expect.get? requester).getD 0 + 1) % 65536) }
  | .order => t
  | .full => { t with recorded := t.recorded ++ [requester] }
  | .ticket n =>
    if t.tickets.any (fun x => x.1 == requester) then t
    else { t with tickets := t.tickets ++ [(requester, n)], nextTicket := (t.nextTicket + 1) % 4096 }

/-- The home keys of a request's trytes through the exporting context's tables (R400). -/
def requestKeys (s : State) (p : Packet) : Except Nat (List (Nat × Bool)) := do
  let ks ← (requestPlaces p).mapM (placeKey s (if p.type = .read then .read else .write))
  if brokenAt s (ks.map Prod.fst) then throw 7 else return ks

/-- An engine's request at its home: trytes read, trytes written, or the sum of a signal (R278, R377). -/
def serveEngine (s : State) (p : Packet) (ks : List (Nat × Bool)) : State × List Int :=
  let old := readKeys s (ks.map Prod.fst)
  match p.type with
  | .read => (touchReads s (ks.map Prod.fst), old)
  | .write => (writeKeys s ks p.payload, [])
  | _ => (writeKeys (touchReads s (ks.map Prod.fst)) ks (toTrytes p.size (wrapVal (ofTrytes old + ofTrytes (p.payload.take p.size)) (9 * p.size))), old)

/-- The line that a plain load allocates in its core's data cache, read whole (R359, R393): its trytes, or those asked
for where the load allocates none. -/
def loadTrytes (s : State) (core k : Nat) (m : Mem) (ks : List Nat) (xs : List Int) : List Int :=
  let line := lineOf (ks.headD 0)
  if m.kind = .load ∧ m.hint ≠ 3 ∧ (residentFor s core k m.hint ks).isSome then s.mem.getRun (lineBase line) 81 else xs

/-- Serve a core's request at its home, as a local access of the core (R400); the lanes of one atomic
act in ascending order (R119), and the answer carries the location's value before the first. A line that the core holds by
now is not read again, and serves the strand no more where it is older than the answer (R102). A pair over two lines
is read whole and brings in neither (R104, log 107). -/
def serveAt (s : State) (p : Packet) (m : Mem) (ks : List (Nat × Bool)) : State × List Int :=
  let core := p.requester / 128 * 64 + p.requester % 128
  let k := ((served s p).head?.map (·.strand)).getD 0
  let whole := (ks.map fun k => lineOf k.1).eraseDups.length ≤ 1
  let m := if m.kind = .load ∧ (!whole ∨ resident s core (ks.map Prod.fst)) then { m with hint := 3 } else m
  let a : Int := ofTrytes (p.payload.take m.size)
  let e : Int := ofTrytes ((p.payload.drop m.size).take m.size)
  let first := perform s core k m ks a e
  let rest := ((served s p).drop 1).foldl (fun s x => (perform s core k m ks x.data x.expect).1) first.1
  (if m.kind = .atomic then rest else first.1,
   if m.kind = .store then [] else loadTrytes first.1 core k m (ks.map Prod.fst) (toTrytes m.size first.2))

/-- What was written to a wait's word before it is read is in what is read. -/
def forgetLate (s : State) (p : Packet) : State :=
  settleAccs s p fun a => if awaits a then { a with result := [] } else a

/-- A request at its owner's tracker: refused, or served at once and answered. -/
def atTracker (kind : PktType) (pkt : Nat) (s : State) : Out :=
  match s.packets.get? pkt with
  | none => .next s
  | some p =>
    if p.type ≠ kind ∨ p.at_ ≠ p.dst ∨ !firstInOrder s pkt p then .next s
    else
      let t := (s.die p.dst).tracker
      let v := verdict t p.requester p.seq
      let s1 := dropPacket s pkt
      let s2 := s1.modDie p.dst fun x => { x with tracker := x.tracker.decide_ p.requester s1.nextId v }
      match v with
      | .order => .next (addPacket s2 (answer p .refusal 2 [] none))
      | .full => .next (addPacket s2 (answer p .refusal 1 [] none))
      | .ticket n => .next (addPacket s2 (answer p .refusal (3 + 16 * n) [] none))
      | .accept =>
        let type : PktType := if p.type = .write then .acknowledgement else .dataResponse
        match requestKeys s2 p with
        | .error c =>
          let s3 := touchReads s2 ((requestPlaces p).flatMap (ownerKeys s2)).eraseDups
          .next (addPacket s3 (answer p type 0 [] (some c)))
        | .ok ks =>
          let s2 := touchReads s2 ((requestPlaces p).flatMap (ownerKeys s2)).eraseDups
          let from_ := ks.take 1 |>.map fun k => Place.home k.1 k.2
          match if 64 ≤ p.requester % 128 then some (serveEngine s2 p ks)
              else ((decode p.w0 p.w1).bind requestOf).map fun m => serveAt (forgetLate s2 p) p m ks with
          | none => .next (addPacket s2 { answer p type 0 [] (some 7) with split := from_ })
          | some r => .next (addPacket r.1 { answer p type 0 r.2 none with split := from_ })

def execPeerRead (pkt : Nat) (s : State) : Out := atTracker .read pkt s
def execPeerWrite (pkt : Nat) (s : State) : Out := atTracker .write pkt s
def execPeerAtomic (pkt : Nat) (s : State) : Out := atTracker .atomic pkt s

/-! ### Answers (R397, R402, R403) -/

/-- A packet of a type that has come to its end and may be consumed. -/
def arrived (s : State) (pkt : Nat) (type : PktType) : Option Packet :=
  match s.packets.get? pkt with
  | none => none
  | some p => if p.type = type ∧ p.at_ = p.dst ∧ firstInOrder s pkt p then some p else none

/-- The old value that each lane of one atomic sees, from the value before the first (R119, R262). -/
def laneValues (m : Mem) : Int → List Acc → List Int
  | _, [] => []
  | o, a :: as => o :: laneValues m ((m.rmw o a.data a.expect).getD o) as

/-- The trytes of an answer that its access asked for: out of a whole line, those at its place. -/
def askedFor (p : Packet) (a : Acc) : List Int :=
  if a.eng.isNone && decide (a.size < p.payload.length) then
    match p.split.head? with
    | some (.home k _) => (p.payload.drop (k % 3 ^ 27 % 81)).take a.size
    | _ => p.payload.take a.size
  else p.payload

/-- Data or an acknowledgement lands: its accesses are done or carry the owner's fault. -/
def landAnswer (s : State) (pkt : Nat) (p : Packet) : State :=
  let as := served s p
  let v : Int := ofTrytes ((as.head?.map (askedFor p)).getD p.payload)
  let vals : List Int := match as.head?.bind fun a => memOf a.i with
    | some m => if m.kind = .atomic then laneValues m v as else as.map fun _ => v
    | none => as.map fun _ => v
  let s1 := (as.zip vals).foldl (fun s x =>
    { s with accs := s.accs.map fun a =>
        if a.group == x.1.group && a.lane == x.1.lane then
          { a with phase := match p.fault with | some c => .failed c | none => .done
                   result := if a.eng.isSome then p.payload else x.2 :: (if awaits a then a.result else []) }
        else a }) (dropPacket s pkt)
  afterAnswer s1 p p.src

def execDataResponse (pkt : Nat) (s : State) : Out :=
  match arrived s pkt .dataResponse with
  | none => .next s
  | some p => .next (landAnswer s pkt p)

def execAcknowledgement (pkt : Nat) (s : State) : Out :=
  match arrived s pkt .acknowledgement with
  | none => .next s
  | some p => .next (landAnswer s pkt p)

/-- REFUSAL: the request is sent again, at once or, with a ticket, after its slot-ready. -/
def execRefusal (pkt : Nat) (s : State) : Out :=
  match arrived s pkt .refusal with
  | none => .next s
  | some p =>
    let s1 := settleAccs (dropPacket s pkt) p fun a => { a with phase := .refused (p.status % 16 == 3) }
    .next (sendRequests s1 p.requester p.src)

/-- SLOT_READY: the requester's refused requests to that owner are sent again. -/
def execSlotReady (pkt : Nat) (s : State) : Out :=
  match arrived s pkt .slotReady with
  | none => .next s
  | some p =>
    let s1 := dropPacket s pkt
    let mine (a : Acc) : Bool := routeOf s1 a == some (p.requester, p.src) && a.phase == .refused true
    let s2 := { s1 with accs := s1.accs.map fun a => if mine a then { a with phase := .refused false } else a }
    .next (sendRequests s2 p.requester p.src)

/-- TICKET_RESERVATION_EXPIRY (R403): 6,561 fabric cycles after the slot-ready. -/
def execTicketReservationExpiry (die requester : Nat) (s : State) : Out :=
  let t := (s.die die).tracker
  match t.reserved.find? fun r => r.1 == requester with
  | none => .next s
  | some r =>
    if fabricCycle s < r.2 + 6561 then .next s
    else
      let t' := { t with reserved := t.reserved.filter fun x => x.1 != requester,
                         recorded := t.recorded.filter (· != requester) }
      .next (serveTickets (s.modDie die fun x => { x with tracker := t' }) die)

/-! ### Messages over the rim (R311, R386, R393) -/

/-- The sender of a message over the rim (R311): its die, and the cluster of the core that its packet names. -/
def senderOf (p : Packet) : Nat := 16 * p.src + p.requester % 64 / 4

/-- MESSAGE: the target die's message unit accepts or refuses. The packet's export names the context; a message whose
export was revoked on its way is refused, so that its next attempt meets the check of R310 (DEDUCED, log 111). -/
def execMessage (pkt : Nat) (s : State) : Out :=
  match arrived s pkt .message with
  | none => .next s
  | some p =>
    let s1 := dropPacket s pkt
    let sent : Option State := do
      let t ← (bytesWord (leBytes 6 p.offset)).bind readTarget
      let ctx ← exporter s1 p.dst p.export_
      deliver s1 t ctx p.payload (senderOf p)
    match sent with
    | some s2 => .next (addPacket s2 (answer p .messageAccepted 0 [] none))
    | none => .next (addPacket s1 (answer p .messageRefused 0 [] none))

/-- MESSAGE_ACCEPTED: the sender's msg is complete. -/
def execMessageAccepted (pkt : Nat) (s : State) : Out :=
  match arrived s pkt .messageAccepted with
  | none => .next s
  | some p =>
    let s1 := dropPacket s pkt
    match s1.ops.get? p.serves with
    | some o => .next (opDone s1 p.serves o)
    | none => .next s1

/-- MESSAGE_REFUSED: the sender's unit tries again no sooner than 81 fabric cycles later. -/
def execMessageRefused (pkt : Nat) (s : State) : Out :=
  match arrived s pkt .messageRefused with
  | none => .next s
  | some p => .next (retryLater (dropPacket s pkt) p.serves)

end Sys2Proof.Machine
end

