-- ==== Sys2Proof/Machine/Records.lean ====
section
/-!
DEFINITION. Stop records (R324 to R329): what a halt writes for each weave, strand and operation.
-/
namespace Sys2Proof.Machine

/-- A halted weave with its strands in number order and its operations in flight in issue order. -/
structure Halted where
  id : Nat
  weave : Weave
  strands : List (Nat × Strand)
  ops : List (Nat × EngOp)

/-- The weaves of a die's partition as they halt. -/
def haltedOn (s : State) (die part : Nat) : List Halted :=
  (residents s die part).map fun x =>
    ⟨x.1, x.2, s.strandsOf x.1, s.ops.filter fun o => o.2.weave == x.1⟩

/-! ### Words of the records -/

def pairWords (x : Int) : List Int := [loWord x, hiWord x]

/-- Fill to a length with zeros, or cut to it. -/
def fillTo (n : Nat) (ws : List Int) : List Int := (List.range n).map fun i => ws.getD i 0

/-- A record header word (R325). -/
def headerWord (kind length : Nat) : Int := ((kind : Int) - 13) * 3 ^ 24 - 13 * 3 ^ 21 + length

/-- State and barrier of a thread at the halt (R326). A sleep has ended, a waitw and an exit stand at
their own words, and a thread that a trap holds is ready. -/
def threadState (t : Thread) : Nat × Nat :=
  match t.status with
  | .ended => (1, 0)
  | .absent => (2, 0)
  | .bar n => (3, n)
  | .barw n => (4, n)
  | .inTret => match t.ret with
    | some (n, _) => (7, n)
    | none => (5, 0)
  | _ => match t.ret with
    | some (n, _) => (6, n)
    | none => (0, 0)

/-- Clause header and position of a thread at the halt (R322). -/
def threadRest (t : Thread) : Int × Nat :=
  match t.status with
  | .waiting w => (w.header, w.before)
  | _ => (t.pc, t.pos)

def threadWords (t : Thread) : List Int :=
  let (state, n) := threadState t
  let (pc, pos) := threadRest t
  let word : Int := ((state : Int) - 13) * 3 ^ 24 + ((n : Int) - 13) * 3 ^ 21 + ((pos : Int) - 13) * 3 ^ 18 +
    ((t.savedPos : Int) - 13) * 3 ^ 15
  [word] ++ pairWords pc ++ pairWords t.savedPc ++ (List.range 4).map (fun i => condImage (t.cond i)) ++
    [ofTrits ((List.range 27).map fun n => if t.marks.contains n then 1 else 0)]

def replayWords (r : Replay) : List Int :=
  [((r.lane : Int) - 40) * 3 ^ 23 + (if r.once then 3 ^ 22 else 0), r.w0, r.w1] ++ pairWords r.addr ++
    pairWords r.data ++ pairWords r.expect

def tileWords (t : Tile) : List Int := t.attr :: t.w.getRun 0 864

/-- The allocation word: granules, declared tiles, flags. -/
def allocationWord (st : Strand) : Int :=
  ((st.granules : Int) - 14) * 3 ^ 24 +
    3 ^ 15 * ofTrits ((List.range 9).map fun i => if (st.tiles.get? i).isSome then 1 else 0) +
    ofTrits ((List.range 12).map fun i => if st.flag i then 1 else 0)

/-- A strand record (R326). Its cycle counter at stop is the core's as the record is written, not as the core stops
forming picks (DESIGN CHOICE, log 80). -/
def strandWords (s : State) (st : Strand) (weaveOrd : Nat) (cause : Int) : List Int :=
  let tiles := (List.range 9).filterMap fun i => st.tiles.get? i
  let n := 446 + 288 * st.granules + 865 * tiles.length + 9 * st.replay.length
  fillTo 27 ([headerWord 2 n, cause] ++ pairWords st.faultAddr ++
      [(weaveOrd : Int), (st.number : Int), allocationWord st, st.cause,
       maskWord st.mask (st.mask.global && timerDue s st)] ++
      pairWords st.trapMask ++ pairWords st.handlerPc ++ pairWords st.comparator ++ pairWords (counter s st.core) ++
      pairWords st.presentMask ++ [(st.replay.length : Int), wrapVal st.stall 27]) ++
    (List.range 81).map st.sget ++ (List.range 9).flatMap (fun i => pairWords (st.areg i)) ++
    (List.range 32).flatMap (fun l => threadWords (st.thread l)) ++
    (List.range (9 * st.granules)).flatMap (fun j => (List.range 32).map fun l => (st.thread l).vget j) ++
    tiles.flatMap tileWords ++ st.replay.flatMap replayWords

def slotWords (x : Option Slot × Int) : List Int :=
  match x.1 with
  | some y => [x.2, (y.view : Int) * 3 ^ 12 + y.table]
  | none => [x.2, 0]

def barrierWord_ (b : Barrier) : Int :=
  (match b.expected with | some n => (n : Int) | none => -1) * 3 ^ 18 + (b.arrivals : Int) * 3 ^ 9

/-- A weave record (R328). -/
def weaveWords (s : State) (wv : Weave) : List Int :=
  [headerWord 1 (42 + wv.len)] ++ pairWords wv.recPtr ++ [(wv.wx : Int), (wv.wy : Int), (wv.wz : Int),
      (wv.nstrands : Int), (wv.pass : Int), (wv.base : Int) * 3 ^ 12 + wv.len] ++
    (wv.slots.zip wv.exts).flatMap slotWords ++ (List.range 27).map (fun n => barrierWord_ (wv.barrier n)) ++
    (s.cluster (16 * wv.die + wv.cluster)).scratch.getRun wv.base wv.len

/-! ### Engine records (R329) -/

/-- Length of a transform's working store, from its source descriptor. -/
def storeLength (s : State) (o : EngOp) : Nat :=
  match transformOf o.i with
  | none => 0
  | some (dir, _, _, x) =>
    match keptDesc { s } o x.srcSp o.va with
    | .ok ds => if o.z.isEmpty then 2 * ds.size * blocksOf dir ds * ds.cols else o.z.length
    | .error _ => o.z.length

/-- Words 14 to 44: what an operation read at its issue. A cpf's value follows its shape; the words of a
map (log 35) come last. The mask of an mma or mmc has -1 for every lane that takes no part (R59). -/
def blockWords (o : EngOp) : List Int :=
  match o.i with
  | .cpf _ t _ _ _ x =>
    o.block.take (3 * x.dims) ++ (if isPair t then pairWords o.va else [o.va]) ++ o.block.drop (3 * x.dims)
  | .mma .. | .mmc .. => fillTo 4 o.block ++ pairWords (laneMask fun l => if o.lanes.contains l then 1 else -1)
  | .xff .. | .xfi .. => []
  | _ => o.block

/-- What follows word 44. -/
def engineTail (s : State) (o : EngOp) : List Int :=
  match o.i with
  | .cpt .. | .cpm .. | .cpg .. | .cpf .. | .mld .. | .mst .. =>
    match o.buffer with
    | some ws => 1 :: fillTo 27 ws
    | none => List.replicate 28 0
  | .xff .. | .xfi .. => fillTo (storeLength s o) o.z
  | .mma .. | .mmc .. => o.regs.flatten
  | _ => []

/-- An engine record. -/
def engineWords (s : State) (o : EngOp) (strandOrd : Nat) : List Int :=
  let tail := engineTail s o
  let va : Int := match o.i with
    | .cpf .. => 0
    | _ => o.va
  let first := [headerWord 3 (45 + tail.length), (strandOrd : Int),
      ((Enc.opOf o.w0 : Int) - 121) * 3 ^ 22 + ((o.flag : Int) - 13) * 3 ^ 19, o.w0, o.w1] ++ pairWords o.vd ++
    pairWords va ++ pairWords o.vsig ++ [o.sval] ++ pairWords (o.prog : Nat) ++ blockWords o
  fillTo 45 first ++ tail

/-! ### Stop causes (R325) -/

def faultCause (f : FaultInfo) : Int := stopWord 0 f.code f.pos f.lane f.cls f.reg

/-- A strand's stop cause. Reason 2 holds for a strand of a pre-emption, but for one in which a fault arose during the
halt (log 74). -/
def strandCause (c : Context) (reason : Nat) (wv : Weave) (st : Strand) : Int :=
  if wv.failed then stopWord 3 15 0 0 0 0
  else
    match st.fault with
    | some f => faultCause f
    | none => if reason ≠ 0 then stopWord 2 0 0 0 0 0 else stopWord 1 ((c.fault.map (·.code)).getD 0) 0 0 0 0

/-- Did the context's fault arise in one of these weaves? -/
def faultIn (c : Context) (hs : List Halted) : Bool :=
  (c.faultStrand.any fun k => hs.any fun h => h.strands.any fun x => x.1 == k) ||
    c.faultOp.any fun o => hs.any fun h => h.ops.any fun x => x.1 == o

/-! ### The image (R324) -/

/-- Ordinals of the weave records and of their strands' records. -/
def ordinals : Nat → List Halted → List (Nat × List (Nat × Nat))
  | _, [] => []
  | n, h :: hs =>
    (n, h.strands.zipIdx.map fun x => (x.1.1, n + 1 + x.2)) :: ordinals (n + 1 + h.strands.length) hs

/-- The records of a halt, the summary first. A pre-emption's summary has reason 2, unless the context's fault arose in
the weaves that it halts (log 74). The faulting record of an engine fault is the engine record (DESIGN CHOICE,
log 80). -/
def imageRecords (s : State) (c : Context) (reason : Nat) (parts : List Nat) (hs : List Halted) :
    List (List Int) :=
  let ords := ordinals 1 hs
  let strandOrd (k : Nat) : Nat := ((ords.flatMap fun x => x.2).find? fun y => y.1 == k).map Prod.snd |>.getD 0
  let body := (hs.zip ords).flatMap fun (h, n, _) =>
    weaveWords s h.weave :: h.strands.map fun x => strandWords s x.2 n (strandCause c reason h.weave x.2)
  let ops := hs.flatMap fun h => h.ops
  let engines := ops.map fun x => engineWords s x.2 ((x.2.strand.map strandOrd).getD 0)
  let rest := body ++ engines
  let swapped := decide (reason ≠ 0) && !faultIn c hs
  let count := 1 + rest.length
  let total := 27 + (rest.map List.length).sum
  let f : FaultInfo := c.fault.getD { code := 0 }
  let op := c.faultOp.bind fun o => ops.findIdx? fun x => x.1 == o
  let ord := if swapped then 0 else
    match op with
    | some i => 1 + body.length + i
    | none => (c.faultStrand.map strandOrd).getD 0
  let addr : Int := if swapped then 0 else
    match f.addr with
    | some a => a
    | none => ((c.faultStrand.bind s.strands.get?).map (·.faultAddr)).getD 0
  let bits (p : Nat) : Int := if parts.contains p || parts.contains 2 then 1 else 0
  let summary := [headerWord 0 27, if swapped then stopWord 2 0 0 0 0 0 else faultCause f, (ord : Int),
    (count : Int), (total : Int)] ++ pairWords addr ++ [bits 0 + 3 * bits 1] ++
    pairWords (if swapped then (s.cycle : Int) else c.faultCycle)
  fillTo 27 summary :: rest

/-- What is kept beside the record of an operation. -/
def keptOp (o : EngOp) : KeptOp :=
  { trapOk := o.trapOk, hit := o.hit, lanes := o.lanes, slots := o.slots, skips := o.skips, upTo := o.upTo, common := o.common,
    refused := o.phase == .dropped }

/-- What is kept beside the records of a weave. -/
def keptOf (h : Halted) : Kept :=
  let trap (st : Strand) : KeptTrap :=
    { pending := st.pending, held := st.heldTrap, lanes := st.lanes (·.inHandler),
      rets := (List.range 32).filterMap fun l => ((st.thread l).ret).map fun r => (l, r) }
  { launch := h.weave.launch, age := h.weave.age, bindings := h.weave.bindings, ready := h.weave.ready,
    binding := h.ops.any fun x => x.2.strand.isNone, traps := h.strands.map fun x => trap x.2,
    ops := h.ops.map fun x => keptOp x.2 }

/-- Write records to device memory, each whole, for as long as they fit and can be written: none where
one could not (the state then holds those before it). -/
def writeRecords (s : State) (ctx : Nat) (ptr : Int) : Nat → List (List Int) → State × Bool
  | _, [] => (s, true)
  | room, r :: rs =>
    if room < r.length then (s, false)
    else
      match ctxWrite (touchPages s ctx ptr (3 * r.length)) ctx ptr r with
      | none => (s, false)
      | some s1 => writeRecords s1 ctx (ptr + 3 * (r.length : Int)) (room - r.length) rs

/-! ### Reading an image back (R334) -/

/-- A pair of a record. -/
def wordPair (ws : List Int) (i : Nat) : Int := pairOf (ws.getD i 0) (ws.getD (i + 1) 0)

/-- Cut an image into its records. -/
def cutRecords : Nat → List Int → List (List Int)
  | 0, _ => []
  | _, [] => []
  | fuel + 1, w :: ws =>
    let n := (sgd w 0 21).toNat
    if n < 27 then [] else (w :: ws).take n :: cutRecords fuel ((w :: ws).drop n)

def recordKind (r : List Int) : Nat := idx (r.getD 0 0) 24 3

/-- The barrier to which a thread returns (R238): the record's states 6 and 7 name it, and of a handler thread that is
itself blocked at a barrier, which the record names, what is kept beside it tells (log 12). -/
def readRet (k : KeptTrap) (l state n : Nat) : Option (Nat × Bool) :=
  let kept := (k.rets.find? fun x => x.1 == l).map Prod.snd
  if state = 6 ∨ state = 7 then some (n, (kept.map Prod.snd).getD false)
  else if state = 3 ∨ state = 4 then kept
  else none

/-- A thread from its block. Wait ages start at 0. -/
def readThread (k : KeptTrap) (l : Nat) (ws : List Int) (v : Cells) : Thread :=
  let w := ws.getD 0 0
  let n := idx w 21 3
  let state := idx w 24 3
  let status : TStatus := match state with
    | 1 => .ended
    | 2 => .absent
    | 3 => .bar n
    | 4 => .barw n
    | 5 | 7 => .inTret
    | _ => .ready
  { status, pc := wordPair ws 1, pos := idx w 18 3, savedPc := wordPair ws 3, savedPos := idx w 15 3, v,
    c := (List.range 4).map fun i => condOfImage (ws.getD (5 + i) 0),
    marks := (List.range 27).filter fun i => trit 27 (ws.getD 9 0) i == 1,
    inHandler := k.lanes.contains l,
    ret := readRet k l state n }

def readReplay (ws : List Int) : Replay :=
  { lane := idx (ws.getD 0 0) 23 4, once := trit 27 (ws.getD 0 0) 22 == 1, w0 := ws.getD 1 0, w1 := ws.getD 2 0,
    addr := wordPair ws 3, data := wordPair ws 5, expect := wordPair ws 7 }

/-- The trap unit of a strand whose image came without one: a recorded cause is delivered if the global
trit is 0, and being handled if it is +1 (R334). -/
def defaultTrap (r : List Int) : KeptTrap :=
  let busy := idx (r.getD 7 0) 24 3 != 0
  let global := trit 27 (r.getD 8 0) 26 == 1
  { pending := busy && !global, lanes := if busy && global then List.range 32 else [] }

/-- The distance to a comparator, until a core is known (R57). One at its start value is farther away than any counter
lets it come, so that it keeps that value. -/
def toComparator (comparator stop : Int) : Int := if comparator = half 45 then 3 ^ 45 else comparator - stop

/-- A strand from its record; weave, core and comparator are set where it is placed. -/
def readStrand (k : Option KeptTrap) (handler : Bool) (r : List Int) : Strand :=
  let at_ (i : Nat) : Int := r.getD i 0
  let kt := k.getD (defaultTrap r)
  let g := idx (at_ 6) 24 3 + 1
  let decl := (List.range 9).filter fun i => trit 27 (at_ 6) (15 + i) == 1
  let block := 446 + 288 * g
  let v (l : Nat) : Cells := Cells.putRun [] 0 ((List.range (9 * g)).map fun j => at_ (446 + 32 * j + l))
  let tile (n : Nat) : Tile :=
    { attr := at_ (block + 865 * n), w := Cells.putRun [] 0 ((r.drop (block + 865 * n + 1)).take 864) }
  let entries := r.drop (block + 865 * decl.length)
  { weave := 0, number := (at_ 5).toNat, core := 0, handler, granules := g,
    tiles := decl.zipIdx.map fun x => (x.1, tile x.2),
    threads := (List.range 32).map fun l => readThread kt l ((r.drop (126 + 10 * l)).take 10) (v l),
    s := Cells.putRun [] 0 ((r.drop 27).take 81),
    a := Cells.putRun [] 0 ((List.range 9).map fun i => wordPair r (108 + 2 * i)),
    flags := (List.range 12).map fun i => trit 27 (at_ 6) i == 1,
    cause := at_ 7, mask := maskOf (at_ 8), trapLanes := (List.range 32).filter fun l => trit 54 (wordPair r 9) l == 1,
    pending := kt.pending, heldTrap := kt.held, faultAddr := wordPair r 2, handlerPc := wordPair r 11,
    comparator := toComparator (wordPair r 13) (wordPair r 15), stall := (at_ 20 % 3 ^ 27).toNat,
    replay := (chunks 9 (at_ 19).toNat entries).map readReplay }

/-- The instruction of a binding entry (R347): d, a, b and the guard are 0, and stand for the first registers of the
block; the engine-error fault refuses a conversion, a signal, another instruction or too large a block. What the
decoder refuses is the illegal-instruction fault that the instruction itself would raise. -/
def bindingInstr (w0 w1 : Int) : Except Nat Instr :=
  let op := Enc.opOf w0
  let zeros := idx w0 10 5 == 121 && idx w0 5 5 == 121 && idx w0 0 5 == 121 && Enc.guardField w0 == 40
  let copy := op == 189 || op == 190 || op == 191 || op == 192
  let low (x : Int) (lo : Nat) : Int := setField 27 x lo 5 (-121)
  let w := low (low w0 10) 5
  if !zeros || !(copy || op == 194 || op == 195) then .error 12
  else
    match decode (if copy then low w 0 else w) w1 with
    | none => .error 3
    | some i =>
      let ok : Bool := match i with
        | .cpt _ _ _ _ _ _ x => x.kind.isNone && x.sig.isNone && decide (x.dims ≤ 7) && !x.map.any (19 < ·)
        | .cpm _ _ _ _ _ x => x.sig.isNone && decide (x.dims ≤ 5)
        | .cpg _ _ _ _ _ _ x => x.sig.isNone
        | .cpf _ _ _ _ _ x => x.sig.isNone && decide (x.dims ≤ 6) && !x.map.any (19 < ·)
        | .xff _ _ _ _ _ x | .xfi _ _ _ _ _ x => x.sig.isNone
        | _ => false
      if ok then .ok i else .error 12

/-- Are a record's reserved fields 0 (R13, R325 to R329), those of tile attributes (R53), of spz extension words (R259) and
of an operation's instruction and control words among them (log 38)? A binding entry that was refused keeps the words for
which it was (R347). -/
def recordClear (refused : Bool) (r : List Int) : Bool :=
  let at_ (i : Nat) : Int := r.getD i 0
  let zero (is : List Nat) : Bool := is.all fun i => at_ i == 0
  let blocks := (List.range 32).map fun l => at_ (126 + 10 * l)
  let tiles := (List.range ((List.range 9).countP fun i => trit 27 (at_ 6) (15 + i) == 1)).map fun n =>
    at_ (446 + 288 * (idx (at_ 6) 24 3 + 1) + 865 * n)
  idx (at_ 0) 21 3 == 0 &&
    match recordKind r with
    | 0 => sgd (at_ 1) 0 6 == 0 && zero ((List.range 17).map (10 + ·))
    | 1 => sgd (at_ 8) 24 3 == 0 && [9, 11, 13].all fun i => sgd (at_ i) 0 3 == 0
    | 2 =>
      sgd (at_ 1) 0 6 == 0 && sgd (at_ 6) 12 3 == 0 && sgd (at_ 7) 18 6 == 0 && sgd (at_ 7) 0 9 == 0 &&
        sgd (at_ 8) 6 19 == 0 && zero [21, 22, 23, 24, 25, 26] && (blocks.all fun w => sgd w 0 15 == 0) &&
        tiles.all fun w => sgd w 4 11 == 0
    | _ =>
      decide (recordKind r = 3) && sgd (at_ 2) 0 19 == 0 &&
        (if at_ 1 = 0 then refused || (bindingInstr (at_ 3) (at_ 4)).toOption.isSome
         else (decode (at_ 3) (at_ 4)).isSome)

/-- What stands for the instruction of a refused binding entry: its record has the length of a copy's, or of an
operation without data. -/
def refusedInstr (w0 : Int) : Instr :=
  if 189 ≤ Enc.opOf w0 ∧ Enc.opOf w0 ≤ 192 then .mld .always 0 0 false else .thnd .always 0 0 0

/-- An operation from its record: of the strand with a number, or of the prologue. -/
def readOp (k : KeptOp) (strand : Option Nat) (r : List Int) : Option EngOp := do
  let at_ (i : Nat) : Int := r.getD i 0
  let i ← if strand.isNone then (bindingInstr (at_ 3) (at_ 4)).toOption else decode (at_ 3) (at_ 4)
  let blk := (r.drop 14).take 31
  let tail := r.drop 45
  let unit : Unit_ := match i with
    | .xff .. | .xfi .. => .transform
    | .mma .. | .mmc .. => .matrix
    | .msg .. => .message
    | _ => .copy
  let o : EngOp :=
    { i, w0 := at_ 3, w1 := at_ 4, unit, strand, weave := 0, die := 0, ctx := 0, cluster := 0, core := 0,
      flag := idx (at_ 2) 19 3, vd := wordPair r 5, va := wordPair r 7, vsig := wordPair r 9, sval := at_ 11,
      prog := (wordPair r 12).toNat, block := blk, trapOk := k.trapOk, hit := k.hit, lanes := k.lanes,
      slots := k.slots, skips := k.skips, upTo := k.upTo, common := k.common }
  match i with
  | .cpf _ t _ _ _ x =>
    let n := 3 * x.dims
    let m := if isPair t then 2 else 1
    return { o with va := if m = 2 then wordPair blk n else blk.getD n 0, block := blk.take n ++ blk.drop (n + m),
                    buffer := if tail.headD 0 = 1 then some (tail.drop 1) else none }
  | .cpt .. | .cpm .. | .cpg .. | .mld .. | .mst .. =>
    return { o with buffer := if tail.headD 0 = 1 then some (tail.drop 1) else none }
  | .xff .. | .xfi .. => return { o with block := [], z := tail }
  | .mma .. | .mmc .. =>
    return { o with block := blk.take 4, prog := 0,
                    lanes := (List.range 32).filter fun l => trit 54 (wordPair r 18) l == 1,
                    regs := if tail.isEmpty then [] else chunks (tail.length / 32) 32 tail }
  | .msg _ _ _ _ n => return { o with block := blk.take n }
  | _ => return o

def readSlot (ext pl : Int) : Option Slot :=
  if trit 27 ext 24 = 1 then
    some { ext, view := (sgd pl 12 12).toNat, table := (sgd pl 0 12).toNat, base := (sgd ext 12 12).toNat,
           tiles := (sgd ext 3 9).toNat }
  else none

def readBarrier (w : Int) : Barrier :=
  let e := sgd w 18 9
  { expected := if e < 0 then none else some e.toNat, arrivals := (sgd w 9 9).toNat }

end Sys2Proof.Machine
end

