-- ==== Sys2Proof/Machine/Upkeep.lean ====
section
/-!
DEFINITION. Memory upkeep (R361, R367, R368, R432, R433, R355) and host translation (R373, R374): events
that no program orders.
-/
namespace Sys2Proof.Machine

/-! ### Slices and HBM -/

/-- SLICE_WRITEBACK: a full set of a slice makes room, and the line that it replaces is written back (R361, R367). -/
def execSliceWriteback (die line : Nat) (s : State) : Out :=
  .next (if victimOf (s.die die) (setOf s die line) == some line then evictLine s die line else s)

/-- The lines of a summary region (R368). -/
def regionLines (s : State) (die line : Nat) : List Nat :=
  match homeOf s die line with
  | some h =>
    let en := enabledSlices s die
    let n := en.length
    let c := n * Config.sliceLines - s.record.reserve.getD die 0
    let ps := (List.range 243).map fun i => h.pos / 243 * 243 + i
    if h.range = 0 then (ps.map fun k => k * n + en.idxOf h.slice).filter (· < c)
    else if h.range = 17 then []
    else (ps.filter (· < Config.sliceLines)).map fun k => line - h.pos + k
  | none => []

/-- An error that scrub cannot correct is recorded (R432). -/
def recordBad (s : State) (die : Nat) (x : ScrubPlace) : State :=
  s.modDie die fun d => { d with uncorrected := if d.uncorrected.contains x then d.uncorrected else d.uncorrected ++ [x] }

/-- Scrub of a stored line: what its check code corrects is written back (R366, R432). Nothing of a line in a region
of zero lines is read from HBM (R368). -/
def scrubLine (s : State) (die line : Nat) : State :=
  match (s.die die).spans.get? line with
  | none => s
  | some x =>
    if (regionOf s die line).any fun r => summaryTrit (s.die die) r == -1 then s
    else if spanBroken s die line then recordBad s die (.line line)
    else if x.bad.isEmpty then s
    else countCorrected (s.modDie die fun d => { d with spans := d.spans.put line { x with bad := [] } }) die
      (if Config.secondTier ≤ line then 1 else 0)

/-- Scrub of an on-die word, by the trits in error that its array holds: one is corrected, two are detected. -/
def scrubWord (s : State) (die kind : Nat) (x : ScrubPlace) (bad : Option Nat) (mend : State → State) : State :=
  match bad with
  | none | some 0 => s
  | some 1 => countCorrected (mend s) die kind
  | some _ => recordBad s die x

/-- A region whose lines are found all uncompressed, or all zero, gets its summary trit (R368). -/
def scrubRegion (s : State) (die line : Nat) : State :=
  let d := s.die die
  match regionOf s die line with
  | none => s
  | some r =>
    if summaryTrit d r ≠ 1 then s
    else
      let ls := regionLines s die line
      let all (e : Nat) : Bool := ls.all fun l => (spanOf d l).entry == e && !spanBroken s die l
      if all 0 then s.setDie die (setSummary d r 0)
      else if all 1 then
        s.setDie die (setSummary { d with spans := d.spans.filter fun p => !ls.contains p.1 } r (-1))
      else s

/-- PATROL_SCRUB of one place (R432). -/
def execPatrolScrub (die : Nat) (at_ : ScrubPlace) (s : State) : Out :=
  .next (match at_ with
    | .line n => scrubRegion (scrubLine s die n) die n
    | .slice n j =>
      scrubWord s die 2 at_ ((held s die n).bind fun x => x.bad.get? j) fun s => s.modDie die fun d =>
        { d with slices := d.slices.map fun x => if x.line == n then { x with bad := x.bad.del j } else x }
    | .scratch k j =>
      if k / 16 ≠ die then s
      else scrubWord s die 3 at_ ((s.cluster k).bad.get? j) fun s =>
        s.setCluster k { s.cluster k with bad := (s.cluster k).bad.del j })

/-- CALIBRATION of a bank changes timing only: requests wait, and none is refused (R433). What levels that have drifted
leave in a bank's words is a disturbance of its own (`Turn.breakSlice`, `Turn.breakScratch`). -/
def execCalibration (_die _bank : Nat) (s : State) : Out := .next s

/-- CLOCK_STRETCH (R355): the core's present cycle takes two reference cycles and counts once. -/
def execClockStretch (core : Nat) (s : State) : Out :=
  .next (if (s.core core).stretch = 0 then s.modCore core fun c => { c with stretch := 1 } else s)

/-! ### Host translation (R373) -/

/-- Who waits for a translation: a lane of a core's access, an engine operation, a command for a COPY's data, its
status or its completion word, a queue for its ring (R416). -/
inductive Waiter where
  | acc (a : Acc)
  | op (o : EngOp)
  | cmd (c : Cmd)
  | queue (q : Queue)
  deriving DecidableEq, Repr

/-- The waiter that a group and lane name: operations and commands have lane 0, a queue is lane 32 of its key. -/
def waiterOf (s : State) (grp lane : Nat) : Option Waiter :=
  if lane = 32 then (s.queues.get? grp).map .queue
  else match s.accs.find? fun a => a.group == grp && a.lane == lane && a.peer.isNone with
  | some a => some (.acc a)
  | none =>
    match s.ops.get? grp with
    | some o => some (.op o)
    | none => (s.cmds.get? grp).map .cmd

/-- Die, PASID, and the byte whose translation a waiter needs, with whether it writes, whether a page
request has been answered, and whether one is outstanding. -/
structure Want_ where
  die : Nat
  pasid : Nat
  addr : Nat
  write : Bool
  again : Bool
  pri : Bool
  deriving DecidableEq, Repr

def ofPhase (die pasid : Nat) (p : Phase) : Option Want_ :=
  match p with
  | .host a wr again => some ⟨die, pasid, a, wr, again, false⟩
  | .hostPri a wr => some ⟨die, pasid, a, wr, false, true⟩
  | _ => none

/-- The first byte of a lane's run that has no translation. -/
def missOf (s : State) (die pasid : Nat) (a : Acc) : Nat :=
  let first := a.addr.toNat
  if atsGrants s die pasid (a.kind == .store) first then first + a.size - 1 else first

/-- The PASID of a command's queue; the admin queue needs no translation (R416). -/
def cmdPasid (s : State) (c : Cmd) : Nat := ((s.queues.get? c.queue).map (·.pasid)).getD 0

def wantOf (s : State) (w : Waiter) : Option Want_ :=
  match w with
  | .queue q => ofPhase (q.ctx / 256) q.pasid q.io
  | .acc a =>
    match s.strands.get? a.strand with
    | none => none
    | some st =>
      let ctx := (s.weaveOf st).ctx
      let die := ctx / 256
      let p := (pasidOf s ctx).getD 0
      match a.phase with
      | .xlate again => some ⟨die, p, missOf s die p a, a.kind == .store, again, false⟩
      | .pri => some ⟨die, p, missOf s die p a, a.kind == .store, false, true⟩
      | _ => none
  | .op o => ofPhase o.die ((pasidOf s o.ctx).getD 0) o.phase
  | .cmd c => ofPhase c.die (cmdPasid s c) c.io

/-- Replace a waiting lane's access. -/
def setAcc (s : State) (a : Acc) (p : AccPhase) : State :=
  { s with accs := s.accs.map fun b => if b.group == a.group && b.lane == a.lane then { b with phase := p } else b }

/-- A page request has had its answer, or is no more wanted. -/
def dropRequest (s : State) (grp lane : Nat) : State :=
  { s with pageRequests := s.pageRequests.filter (· != (grp, lane)) }

/-- The translation is here. -/
def granted (s : State) (grp : Nat) (w : Waiter) : State :=
  match w with
  | .queue _ => s.modQueue grp fun q => { q with io := .queued }
  | .acc a =>
    match s.strands.get? a.strand with
    | none => s
    | some st =>
      let ok := hostGranted s (s.weaveOf st).ctx (a.kind == .store) a.addr.toNat a.size
      thenReplay (finishHost (setAcc s a (if ok then .ready else .xlate false)) grp) (some a.strand)
  | .op o => noteMove (s.modOp grp fun o => { o with phase := .active }) grp o
  | .cmd _ => s.modCmd grp fun c => { c with io := .active }

/-- A page request goes out. -/
def requested (s0 : State) (grp lane : Nat) (w : Waiter) (x : Want_) : State :=
  let s1 := dropRequest s0 grp lane
  let s := { s1 with pageRequests := s1.pageRequests ++ [(grp, lane)] }
  match w with
  | .queue _ => s.modQueue grp fun q => { q with io := .hostPri x.addr x.write }
  | .acc a => setAcc s a .pri
  | .op _ => s.modOp grp fun o => { o with phase := .hostPri x.addr x.write }
  | .cmd _ => s.modCmd grp fun c => { c with io := .hostPri x.addr x.write }

/-- A page request has succeeded: the translation is asked for once more. The wait is no stall of an operation (R320). -/
def askAgain (s : State) (grp : Nat) (w : Waiter) (x : Want_) : State :=
  match w with
  | .queue _ => s.modQueue grp fun q => { q with io := .host x.addr x.write true }
  | .acc a => setAcc s a (.xlate true)
  | .op o => noteMove (s.modOp grp fun o => { o with phase := .host x.addr x.write true }) grp o
  | .cmd _ => s.modCmd grp fun c => { c with io := .host x.addr x.write true }

/-- No translation, or none with the permission: the fault; a command completes with status 1 (R416). A ring that
cannot be read puts its queue in error, and a status or completion word that cannot be written stays unwritten
(log 45). -/
def denied (s : State) (grp : Nat) (w : Waiter) (x : Want_) (code : Nat) : State :=
  match w with
  | .acc a => finishHost (setAcc s a (.failed code)) grp
  | .op o => opFault (s.modOp grp fun o => { o with phase := .active }) grp { o with phase := .active } code (some x.addr)
  | .cmd c =>
    match c.phase with
    | .ended _ _ => s.modCmd grp fun c => { c with io := .active, lost := x.addr :: c.lost }
    | _ => endCmd s (some grp) 1 0
  | .queue q => postEvent (s.modQueue grp fun q => { q with io := .queued, error := true }) x.die 4 (q.ctx % 256) (grp % 1025) 0

/-- Enter a translation: 6,561 for a function. -/
def cacheAts (s : State) (die : Nat) (e : AtsEntry) : State :=
  s.modDie die fun d =>
    { d with ats := (e :: d.ats.filter fun x => !(x.pasid == e.pasid && x.base == e.base)).take 6561 }

/-- ATS_TRANSLATION_COMPLETION: the host's answer for a waiting access. A size of 0 gives no translation. -/
def execAtsTranslationCompletion (grp lane size : Nat) (r w : Bool) (s : State) : Out :=
  match (waiterOf s grp lane).bind fun y => (wantOf s y).map fun x => (y, x) with
  | none => .next s
  | some (y, x) =>
    if x.pri || ioWaits s x.die then .next s
    else if ioDown s x.die then .next (denied s grp y x 7)
    else
      let s1 := if size = 0 then s else cacheAts s x.die ⟨x.pasid, x.addr / size * size, size, r, w⟩
      if size ≠ 0 ∧ (if x.write then w else r) then .next (granted s1 grp y)
      else if x.again then .next (denied s1 grp y x (if size = 0 then 1 else 2))
      else .next (requested s1 grp lane y x)

/-- The page requests of a function's PASID that are outstanding: the oldest 27 (R373). -/
def outstanding (s : State) (die pasid : Nat) : List (Nat × Nat) :=
  (s.pageRequests.filter fun r =>
    ((waiterOf s r.1 r.2).bind (wantOf s)).any fun x => x.pri && x.die == die && x.pasid == pasid).take 27

/-- PRI_RESPONSE: success leads to a repeated translation request, failure to the translation fault. -/
def execPriResponse (grp lane : Nat) (ok : Bool) (s : State) : Out :=
  match (waiterOf s grp lane).bind fun y => (wantOf s y).map fun x => (y, x) with
  | none => .next s
  | some (y, x) =>
    if !x.pri || !(outstanding s x.die x.pasid).contains (grp, lane) then .next s
    else
      let s1 := dropRequest s grp lane
      .next (if ok then askAgain s1 grp y x else denied s1 grp y x 1)

/-! ### Invalidation (R374) -/

/-- Is a host access under way with a translation that it holds? -/
def usesHostEntry (a : Acc) : Bool := a.peer.isNone && a.eng.isNone && a.phase == .ready

/-- The completions that can go out: those of invalidations whose accesses have all been acknowledged or withdrawn. -/
def Die.completeInvals (d : Die) (accs : List Acc) : Die :=
  let open_ (ws : List (Nat × Nat)) : Bool :=
    ws.any fun w => accs.any fun a => a.group == w.1 && a.lane == w.2 && usesHostEntry a
  { d with invals := d.invals.filter open_, invalsDone := d.invalsDone + (d.invals.filter fun ws => !open_ ws).length }

def completeInvals (s : State) : State :=
  { s with dies := s.dies.map fun d => if d.invals.isEmpty then d else d.completeInvals s.accs }

/-- The accesses that use an entry of a range of a die's PASID. -/
def usersOf (s : State) (die pasid base size : Nat) : List (Nat × Nat) :=
  (s.accs.filter fun a => usesHostEntry a && decide (a.addr.toNat < base + size) && decide (base < a.addr.toNat + a.size) &&
    ((s.strands.get? a.strand).any fun st =>
      dieOf st.core == die && pasidOf s (s.weaveOf st).ctx == some pasid)).map fun a => (a.group, a.lane)

/-- ATS_INVALIDATION (R374): the matching entries go; the completion is sent once the accesses that used them are
acknowledged, or withdrawn at a halt. -/
def execAtsInvalidation (die pasid base size : Nat) (s : State) : Out :=
  .next (completeInvals (s.modDie die fun d =>
    { d with
      ats := d.ats.filter fun e => !(e.pasid == pasid && decide (e.base < base + size) && decide (base < e.base + e.size))
      invals := d.invals ++ [usersOf s die pasid base size] }))

end Sys2Proof.Machine
end

