-- ==== Sys2Proof/Machine/Halt.lean ====
section
/-!
DEFINITION. Halts and what follows them (R319 to R324, R330 to R333, R337, R45, R312): the end of the skid,
shadow storage, deadlines, the loss of a context, and the watchdogs (R320).
-/
namespace Sys2Proof.Machine

/-! ### Leaving the die (R324, R333) -/

/-- The strands of weaves. -/
def strandsIn (s : State) (ws : List Nat) : List (Nat × Strand) := s.strands.filter fun x => ws.contains x.2.weave

/-- The cores of weaves. -/
def coresIn (s : State) (ws : List Nat) : List Nat := ((strandsIn s ws).map fun x => x.2.core).eraseDups

/-- The requesters that serve weaves (R393): their cores, and the copy engine and transform unit of their clusters. -/
def requestersIn (s : State) (ws : List Nat) : List Nat :=
  (coresIn s ws).map coreRequester ++
    ((s.weaves.filter fun x => ws.contains x.1).map fun x => 16 * x.2.die + x.2.cluster).eraseDups.flatMap fun k =>
      [128 * (k / 16) + 64 + k % 16, 128 * (k / 16) + 80 + k % 16]

/-- Requests that were not accepted are never performed: the packets go, the requester numbers its next request to each
owner as that owner expects it, and no tracker has recorded a refusal of it (R323, R402 to R404). -/
def withdrawPackets (s : State) (requesters groups : List Nat) : State :=
  let dead := (s.packets.filter fun x => groups.contains x.2.serves && x.2.type != .message &&
    x.2.type != .messageAccepted && x.2.type != .messageRefused).map Prod.fst
  let s1 := dead.foldl dropPacket s
  let s2 := { s1 with dies := s1.dies.map fun d =>
    { d with tracker := { d.tracker with recorded := d.tracker.recorded.filter fun r => !requesters.contains r } } }
  requesters.foldl (fun s r =>
    (List.range 8).foldl (fun s o =>
      if (s.seqs.get? (8 * r + o)).isSome then
        { s with seqs := s.seqs.put (8 * r + o) (((s.die o).tracker.expect.get? r).getD 0) }
      else s) s) s2

/-- The groups of the accesses that weaves have in flight: those of their strands' words, and their operations. -/
def groupsIn (s : State) (ws : List Nat) : List Nat :=
  let ks := (strandsIn s ws).map Prod.fst
  let rs := (coresIn s ws).map coreRequester
  ((s.accs.filter fun a => a.eng.isNone && (ks.contains a.strand || a.prefetch.any rs.contains)).map (·.group)).eraseDups ++
    (s.ops.filter fun x => ws.contains x.2.weave).map Prod.fst

/-- Remove the weaves with their strands, operations, accesses, requests and queued grows. -/
def removeWeaves (s : State) (ws : List Nat) : State :=
  let gone := (strandsIn s ws).map Prod.fst
  let cores := coresIn s ws
  let groups := groupsIn s ws
  let s0 := withdrawPackets s (requestersIn s ws) groups
  let s1 := ((s0.packets.filter fun x => groups.contains x.2.serves).map Prod.fst).foldl dropPacket s0
  let s2 := { s1 with
    weaves := s1.weaves.filter fun x => !ws.contains x.1
    strands := s1.strands.filter fun x => !ws.contains x.2.weave
    ops := s1.ops.filter fun x => !ws.contains x.2.weave
    accs := s1.accs.filter fun a => !groups.contains a.group }
  let s3 := cores.foldl (fun s c => s.modCore c fun x =>
    { x with growQ := x.growQ.filter fun r => !gone.contains r.strand,
             latch := x.latch.bind fun l => if ws.contains l.weave then none else some l }) s2
  -- pins of a context that has left a core go (R246), and what was freed is allocated
  cores.foldl (fun s c =>
    let ctxs := (s.strands.filter fun x => x.2.core == c).map fun x => (s.weaveOf x.2).ctx
    allocate (s.modCore c fun x => { x with pins := x.pins.filter fun p => ctxs.contains p.1 }) c) s3

/-- LOSE A CONTEXT (R333): its on-die state, images, launches and graphs go, its partitions return, and its
open commands end with status 3. Its device memory stays. -/
def loseContext (s : State) (ctx : Nat) (status : CtxStatus) (event : Bool) : State :=
  match s.contexts.get? ctx with
  | none => s
  | some c =>
    let die := ctx / 256
    let parts := partsOf s ctx
    let s1 := removeWeaves s ((s.weaves.filter fun x => x.2.ctx == ctx).map Prod.fst)
    let s2 := { s1 with
      launches := s1.launches.filter fun x => x.2.ctx != ctx
      graphs := s1.graphs.filter fun x => x.2.ctx != ctx
      contexts := s1.contexts.put ctx { c with status, images := [], stored := [] }
      clusters := s1.clusters.map fun (x : Nat × Cluster) =>
        (x.1, { x.2 with inbox := x.2.inbox.filter fun l => l.ctx != ctx }) }
    let s3 := s2.modDie die fun d =>
      { d with parts := d.parts.map fun p =>
          { p with shadow := p.shadow.bind fun x => if x.ctx = ctx then none else some x } }
    -- commands of the context that have started, and all of its queues' once it is destroyed
    let open_ (x : Nat × Cmd) : Bool :=
      x.2.ctx == some ctx &&
        (match x.2.phase with | .started | .fetched => true | _ => false)
    let s4 := ((s3.cmds.filter open_).map Prod.fst).foldl (fun s n => endCmd s (some n) 3 0) s3
    let s5 := parts.foldl (fun s p => freePart s die p) s4
    if event ∧ c.status ≠ .lost ∧ c.status ≠ .destroyed then
      postEvent s5 die 2 (ctx % 256) 0 ((c.fault.map faultCause).getD 0)
    else s5

/-! ### The end of the skid (R321 to R323) -/

/-- Answers to the accesses of groups that are on their way count as performed (R323). -/
def landAnswers (s : State) (groups : List Nat) : State :=
  let mine := s.packets.filter fun x =>
    groups.contains x.2.serves && (x.2.type == .dataResponse || x.2.type == .acknowledgement)
  mine.foldl (fun s x => match s.packets.get? x.1 with
    | some p => landAnswer s x.1 p
    | none => s) s

/-- An accepted message is delivered; any other stays to be sent again (R312). -/
def landMessages (s : State) (ws : List Nat) : State :=
  let acks := s.packets.filter fun x => x.2.type == .messageAccepted &&
    (s.ops.get? x.2.serves).any fun o => ws.contains o.weave
  acks.foldl (fun s x => match s.ops.get? x.2.serves with
    | some o => opDone (dropPacket s x.1) x.2.serves o
    | none => s) s

/-- Does a lane of an ldh that has its data hold an invalid byte (R256)? -/
def badLane (a : Acc) : Option (Acc × Nat) :=
  match hostOf a.i with
  | some h =>
    if h.write || !accDone a then none
    else match fromHost h.kind h.type (a.result.map Int.toNat) with
      | .bad _ => some (a, 7)
      | _ => none
  | none => none

/-- Accesses in the order of their lanes, those that share a request next to one another (R327). -/
def adjacent : Nat → List Acc → List Acc
  | 0, _ => []
  | _, [] => []
  | fuel + 1, a :: as => a :: (as.filter (sameRequest a)) ++ adjacent fuel (as.filter fun b => !sameRequest a b)

/-- The replay entry of an access that is withdrawn (R327). -/
def replayOf (a : Acc) : Replay :=
  { lane := a.lane, once := a.once, w0 := a.w0, w1 := a.w1, addr := a.addr, data := a.data, expect := a.expect }

/-- A strand's word in progress at the end of the skid: a lane that failed faults the word; else the lanes
that are done have acted, and the others' accesses become replay entries in order. A waitw still to be read is tested
afresh (R270, R334). -/
def withdrawWord (s : State) (k : Nat) : State :=
  match s.strands.get? k with
  | none => s
  | some st =>
    match st.pick, st.pick.bind (·.busy) with
    | some p, some g =>
      let as := groupOf s g
      let done : List Acc := as.filter accDone
      let left : List Acc := as.filter fun a => !accDone a
      let s0 := captureLanes s (s.weaveOf st).ctx done
      match as.findSome? fun a => (accFailed a).or (badLane a) with
      | some (a, c) => groupFault s0 k g a c
      | none =>
        let i := as.head?.map (·.i)
        if as.any awaits then { s with accs := s.accs.filter fun a => a.group != g }.modStrand k fun st =>
          { st with pick := some { p with busy := none } }
        else
        let s1 := match i.bind memOf, i.bind hostOf with
          | some m, _ => settleMem s0 k m (done.map fun (a : Acc) => (a.lane, a.result.headD 0)) (done.flatMap Acc.bound)
          | none, some h => if h.write then s0 else s0.modStrand k fun st => ldhLanes st h done
          | none, none => s0
        let s2 := { s1 with accs := s1.accs.filter fun a => a.group != g }
        let n := (i.map wordCount).getD 1
        let put : List Nat := (i.bind hostOf).elim (done.map Acc.lane) fun h => ldhWritten st h done
        s2.modStrand k fun st =>
          { (if done.isEmpty then st else clearBad st put ((i.map writtenBy).getD []) false) with
            replay := st.replay ++ (adjacent left.length left).map replayOf
            pick := some { p with pos := p.pos + n, busy := none } }
    | _, _ => s

/-- An operation at the end of the skid (R312, R379): a line that was not all acknowledged keeps its buffer and starts again
from its first element, and so does one that was read and is still to be written; a transform writes its output again, a line
still being read is read afresh, and a signal not acknowledged is written again. A request that the owner answered with a
fault raises it. -/
def withdrawOp (s : State) (n : Nat) : State :=
  match s.ops.get? n with
  | none => s
  | some o =>
    let mine := s.accs.filter fun a => a.eng.isSome && a.group == n
    let s1 := { s with accs := s.accs.filter fun a => !(a.eng.isSome && a.group == n) }
    let s2 := match o.phase with
      | .writing _ => s1.modOp n fun x => { x with phase := .active, upTo := if x.unit = .transform then 0 else x.upTo }
      | .signalling => s1.modOp n fun x => { x with phase := .written }
      | _ => (if o.unit = .copy ∧ mine.all accDone then saveLine s1 n o else s1).modOp n fun x => { x with got := [] }
    match o.phase, mine.findSome? accFailed with
    | .writing _, some (a, c) | .signalling, some (a, c) => opFault s2 n o c (some a.addr)
    | _, _ => s2

/-- A pick at the end of the skid: its lanes rest at their positions (R322). -/
def restPick (st : Strand) : Strand :=
  match st.pick with
  | none => st
  | some p =>
    { st.modThreads p.lanes fun _ t =>
        if p.words.length ≤ p.pos then { t with pc := t.jump.getD (fallThrough p), pos := 0, jump := none }
        else { t with pc := p.header, pos := p.pos } with pick := none }

/-- A register found in the invalid state as it is saved raises the data-integrity fault, which names it and has no
address (R47). -/
def badSaved (s : State) (k : Nat) : State :=
  match s.strands.get? k with
  | none => s
  | some st =>
    match st.fault, st.bad with
    | none, b :: _ =>
      raiseFault s (s.weaveOf st).ctx (some k) none (regFault b)
    | _, _ => s

/-- What the skid owes the strands before they rest: grows queued since the halt began end with status 0 (R45, R321). -/
def settleGrows (s : State) (ws ks : List Nat) : State :=
  (coresIn s ws).foldl (fun s c => denyGrows s c ks.contains) s
/-- Waits that a write or a wake has ended are over, those among them that an answer has just begun (R270, R271). -/
def settleWaits (s : State) (ks : List Nat) : State :=
  ks.foldl (fun s k => (List.range 32).foldl (fun s l => finishWait s k l) s) s

/-- A word of a weave's window that cannot be corrected is met as the window is saved (R324, R432): the data-integrity fault,
raised by no strand, with the word's index for its address. -/
def lostSaved (s : State) (w : Nat) : State :=
  match s.weaves.get? w with
  | none => s
  | some wv =>
    let c := s.cluster (16 * wv.die + wv.cluster)
    match c.bad.find? fun b => decide (2 ≤ b.2) && decide (wv.base ≤ b.1) && decide (b.1 < wv.base + wv.len) with
    | some b => raiseFault s wv.ctx none none { code := 7, addr := some (b.1 : Int) }
    | none => s

/-- THE END OF THE SKID for weaves: answers land, lines whose reads are all back are done, what is not performed is withdrawn,
and every thread rests (R321 to R323); then the registers and the windows are saved (R47, R432). -/
def settleHalt (s : State) (ws : List Nat) : State :=
  let ks := (strandsIn s ws).map Prod.fst
  let s0 := settleWaits (landAnswers (settleGrows s ws ks) (groupsIn s ws)) ks
  let s1 := landMessages (((s0.ops.filter fun x => ws.contains x.2.weave).map Prod.fst).foldl finishLine s0) ws
  let s2 := withdrawPackets s1 (requestersIn s1 ws) (groupsIn s1 ws)
  let ops := (s2.ops.filter fun x => ws.contains x.2.weave).map Prod.fst
  let s3 := ((s2.packets.filter fun x => ops.contains x.2.serves).map Prod.fst).foldl dropPacket s2
  let s4 := ops.foldl withdrawOp (ks.foldl withdrawWord s3)
  let gs := groupsIn s4 ws
  let s5 := { s4 with accs := s4.accs.filter fun a => a.eng.isSome || !(ks.contains a.strand || gs.contains a.group) }
  let s6 := ks.foldl badSaved { s5 with strands := s5.strands.map fun x => (x.1, if ks.contains x.1 then restPick x.2 else x.2) }
  ws.foldl lostSaved s6

/-- Take the weaves off the die: failed ones have ended (R337), the others are in the image. -/
def clearHalted (s : State) (hs : List Halted) : State :=
  let failed := (hs.filter fun h => h.weave.failed).map (·.id)
  let s1 := removeWeaves s ((hs.filter fun h => !h.weave.failed).map (·.id))
  let s2 := failed.foldl (fun s w =>
    let wv := s.weaves.get? w
    let s' := removeWeaves s [w]
    match wv with
    | some x => endWeave { s' with weaves := s'.weaves.put w x } w
    | none => s') s1
  s2

/-- Matrix operations of weaves that have still to finish their array cycles (R312, R321). -/
def matrixPending (s : State) (ws : List Nat) : Bool :=
  s.ops.any fun x => x.2.unit == .matrix && ws.contains x.2.weave && matrixRuns s x.2

/-- Words of a context's stop area that images already fill. -/
def areaUsed (c : Context) : Nat :=
  (c.images.map fun r => match r with | .area _ n _ => n | .shadow _ => 0).sum

/-- Write records to the stop area, after images that stand there (log 36). -/
def toArea (s : State) (ctx : Nat) (c : Context) (rs : List (List Int)) (kept : List Kept) : State × Bool :=
  let used := areaUsed c
  let base := c.stopBase + 3 * (used : Int)
  let r := writeRecords s ctx base (c.stopSize - used) rs
  let n := (rs.map List.length).sum
  (r.1.modCtx ctx fun x => { x with images := x.images ++ [.area base n kept] }, r.2)

/-- Capture records a halt with its summary record (R437). -/
def captureHalt (s : State) (ctx : Nat) (rs : List (List Int)) : State :=
  capture s ctx ⟨.halt, 0, (rs.headD []).flatMap wordBytes⟩

/-- A halt of reason 0 ends: the records go to the stop area, the event is posted, and the partitions are
free; where they cannot be written whole the context is lost (R324). -/
def endFaultHalt (s : State) (ctx : Nat) (parts : List Nat) : State :=
  let die := ctx / 256
  let ws := (parts.flatMap fun p => residents s die p).map Prod.fst
  let s1 := settleHalt s ws
  match s1.contexts.get? ctx with
  | none => s1
  | some c =>
    let hs := parts.flatMap fun p => haltedOn s1 die p
    let rs := imageRecords s1 c 0 parts hs
    let r := toArea s1 ctx c rs (hs.map keptOf)
    let s2 := captureHalt r.1 ctx rs
    if !r.2 then loseContext s2 ctx .lost true
    else
      let s3 := clearHalted s2 hs
      let s4 := parts.foldl (fun s p => freePart s die p) s3
      postEvent s4 die 1 (ctx % 256) 0 ((c.fault.map faultCause).getD 0)

/-- Cycles of a spill (R332): 2 µs and 1 µs for each 54,000 words. -/
def spillCycles (n : Nat) : Nat := us (2 + (n + 53999) / 54000)

/-- Cut the words of an image into its records. -/
def recordsOf (ws : List Int) : List (List Int) := cutRecords ws.length ws

/-- Spill the image in a partition's shadow to its own context's stop area (R332); one that does not fit
loses its context. The cycles that it takes come with the state. -/
def spillShadow (s : State) (die part : Nat) : State × Nat :=
  match (s.part die part).shadow with
  | none => (s, 0)
  | some im =>
    let s1 := s.modPart die part fun p => { p with shadow := none }
    match s1.contexts.get? im.ctx with
    | none => (s1, 0)
    | some c =>
      let c1 := { c with images := c.images.filter fun r => match r with | .shadow q => q != part | .area .. => true }
      let r := toArea { s1 with contexts := s1.contexts.put im.ctx c1 } im.ctx c1 (recordsOf im.words) im.kept
      (if r.2 then r.1 else loseContext r.1 im.ctx .lost true, spillCycles im.words.length)

def statusOf (s : State) (ctx : Nat) : CtxStatus := ((s.contexts.get? ctx).map (·.status)).getD .destroyed

/-- The event of a fault that arose as a pre-emption saved the context (log 74), unless a halt of reason 0 is to post
it. -/
def lateFault (s : State) (ctx : Nat) (before : CtxStatus) : State :=
  match s.contexts.get? ctx with
  | none => s
  | some c =>
    let later := (partsOf s ctx).any fun p => match (s.part (ctx / 256) p).phase with
      | .halt _ _ 0 => true
      | _ => false
    if before = .alive ∧ c.status = .faulted ∧ !later then
      postEvent s (ctx / 256) 1 (ctx % 256) 0 ((c.fault.map faultCause).getD 0)
    else s

/-- A halt of a pre-emption ends: the image goes to the partition's shadow, after a spill of what is there. -/
def endSwapHalt (s : State) (die part swapBy : Nat) : State :=
  let ctx := (s.part die part).ctx
  let s1 := settleHalt s ((residents s die part).map Prod.fst)
  match s1.contexts.get? ctx with
  | none => s1
  | some c =>
    let hs := haltedOn s1 die part
    let rs := imageRecords s1 c 2 [part] hs
    let kept := hs.map keptOf
    let s2 := clearHalted (captureHalt s1 ctx rs) hs
    let (s3, t) := spillShadow s2 die part
    let im : Image := { ctx, words := rs.flatten, kept }
    lateFault (s3.modPart die part fun p =>
      { p with shadow := some im, phase := .imaging (s.cycle + t + Config.imageCycles) swapBy }) ctx (statusOf s ctx)

/-- A halt of CONTEXT_SPILL ends: the image goes to the stop area, with reason 2 (R417). -/
def endSpillHalt (s : State) (die part : Nat) : State :=
  let ctx := (s.part die part).ctx
  let s1 := settleHalt s ((residents s die part).map Prod.fst)
  match s1.contexts.get? ctx with
  | none => s1
  | some c =>
    let hs := haltedOn s1 die part
    let rs := imageRecords s1 c 2 [part] hs
    let r := toArea (captureHalt s1 ctx rs) ctx c rs (hs.map keptOf)
    if !r.2 then loseContext r.1 ctx .lost true
    else freePart (lateFault (clearHalted r.1 hs) ctx (statusOf s ctx)) die part

/-- SKID_BOUND_EXPIRY (R321): 12,000 cycles of the halt's clock after it began, once every matrix operation of the
partition has finished. -/
def execSkidBoundExpiry (die part : Nat) (s : State) : Out :=
  let x := s.part die part
  let ended (p : Nat) : Bool := match (s.part die p).phase with
    | .halt t _ _ => decide (t + Config.skid ≤ clockTime s (s.part die p).clock) && !matrixPending s ((residents s die p).map Prod.fst)
    | _ => false
  match x.phase with
  | .halt _ swapBy reason =>
    if reason = 0 then
      let parts := (partsOf s x.ctx).filter fun p => match (s.part die p).phase with
        | .halt _ _ 0 => true
        | _ => false
      if parts.all ended then .next (endFaultHalt s x.ctx parts) else .next s
    else if !ended part then .next s
    else if reason = 4 then .next (endSpillHalt s die part)
    else .next (endSwapHalt s die part swapBy)
  | _ => .next s

/-! ### Drain, swap and their deadlines (R330, R332) -/

/-- DRAIN_DEADLINE_EXPIRY: the drain ends in a halt. -/
def execDrainDeadlineExpiry (die part : Nat) (s : State) : Out :=
  match (s.part die part).phase with
  | .drain d => if d ≤ s.cycle then .next (beginHalt s die part 2 none) else .next s
  | _ => .next s

/-- SWAP_OUT_COMPLETE: the image is whole, and the partition is free. -/
def execSwapOutComplete (die part : Nat) (s : State) : Out :=
  let x := s.part die part
  match x.phase with
  | .imaging done swapBy =>
    if s.cycle < done ∨ swapBy < done then .next s
    else
      .next (freePart (s.modCtx x.ctx fun c => { c with images := c.images ++ [.shadow part] }) die part)
  | _ => .next s

/-- SWAP_DEADLINE_EXPIRY: the deadline passes before the image is complete, and the context is lost. -/
def execSwapDeadlineExpiry (die part : Nat) (s : State) : Out :=
  let x := s.part die part
  match x.phase with
  | .halt _ swapBy reason => if reason ≠ 0 ∧ swapBy ≤ s.cycle then .next (loseContext s x.ctx .lost true) else .next s
  | .imaging done swapBy =>
    if swapBy < done ∧ swapBy ≤ s.cycle then .next (loseContext s x.ctx .lost true) else .next s
  | _ => .next s

/-! ### Watchdogs (R320) -/

/-- CONTEXT_WATCHDOG: resident weaves, and for a whole period no pick and no operation completed. -/
def execContextWatchdog (ctx : Nat) (s : State) : Out :=
  match s.contexts.get? ctx with
  | none => .next s
  | some c =>
    match c.watchdog with
    | none => .next s
    | some t =>
      if c.status = .alive ∧ c.progress + t ≤ s.cycle ∧ s.weaves.any (fun x => x.2.ctx == ctx) then
        .next (raiseFault s ctx none none { code := 13 })
      else .next s

/-- Is a message refused, or does it wait behind a refused one of its queue (R320, R353, R386)? -/
def retries (s : State) (o : EngOp) : Bool :=
  o.unit == .message && match (messageOps s o.cluster).find? fun x => sameTarget x.2.sval o.sval with
    | some x => (match x.2.phase with | .retry _ => true | _ => false)
    | none => false

/-- An operation that waits on PRI service or on a refused request is not counted as stalled, nor a refused message and
those behind it, nor a cpw while it waits for what it covers (log 37). -/
def opStalls (s : State) (n : Nat) (o : EngOp) : Bool :=
  let routes := ((s.accs.filter fun a => a.eng.isSome && a.group == n).filterMap (routeOf s)).eraseDups
  !(routes.any fun r => (heldUp s r.1 r.2).contains n) && !retries s o &&
    match o.phase with
    | .hostPri _ _ => false
    | _ => (o.unit == .copy && !isCpw o.i) || o.unit == .transform || o.unit == .message

/-- OPERATION_WATCHDOG: no element, stage or accepted message for 1,594,323 cycles of the operation's core. -/
def execOperationWatchdog (op : Nat) (s : State) : Out :=
  match s.ops.get? op with
  | none => .next s
  | some o =>
    if opStalls s op o && opLives s o && decide (o.movedAt + Config.opWatchdog ≤ (counter s o.core).toNat) then .next (opFault s op o 13)
    else .next s

end Sys2Proof.Machine
end

