-- ==== Sys2Proof/Machine/Issue.lean ====
section
/-!
DEFINITION. Forming picks (R23, R24, R28, R29, R151 to R156, R158, R168, R354, R376) and the events that
make threads eligible or deliver traps (R57, R234, R270, R316) or form a group by its timeout (R38).
-/
namespace Sys2Proof.Machine

/-! ### Clause headers (R152) -/

structure Header where
  waits : List Nat
  flagA : Option Nat
  flagB : Option Nat
  length : Nat
  yield : Bool
  deriving DecidableEq, Repr

/-- A flag field: none for -1; the outer none where it is malformed. -/
def flagField (x : Int) : Option (Option Nat) :=
  if x = -1 then some none else if 0 ≤ x ∧ x ≤ 11 then some (some x.toNat) else none

/-- The fields of a header word; none where it is malformed or no header. -/
def readHeader (w : Int) : Option Header := do
  let a ← flagField (sgd w 7 3)
  let b ← flagField (sgd w 4 3)
  let mask := (List.range 12).map fun i => trit 27 w (10 + i)
  let bad := Enc.opOf w != 0 || mask.any (· == -1) || trit 27 w 1 == -1 || trit 27 w 0 != 0 ||
    (a == b && a.isSome) || (b.isSome && a.isNone)
  if bad then none
  else some { waits := (List.range 12).filter fun i => trit 27 w (10 + i) == 1, flagA := a, flagB := b,
              length := idx w 2 2 + 1, yield := trit 27 w 1 == 1 }

/-! ### Fetching (R158, R168) -/

/-- A word of code at an offset of the code segment, as a core fetches it (R359), or the structural fault; code 0 is
no fault, the fetch waits for a link (R392). -/
def fetchWord (s : State) (core : Nat) (wv : Weave) (off : Int) : Except FaultInfo Int :=
  if off < 0 ∨ (wv.codeSize : Int) < off + 3 then .error { code := 3 }
  else
    let p := wv.codeBase + off
    match homeKeys s wv.ctx .exec p 3 (.core core) with
    | .error 1 => .error { code := 1, addr := some p }
    | .error 7 => .error { code := 7, addr := some p }
    | .error _ => .error { code := 3 }
    | .ok ks =>
      let keys := ks.map Prod.fst
      let away := keys.filter fun k => (codeHeld? s core wv.ctx (lineOf k)).isNone
      if brokenAt s away then .error { code := 7, addr := some p }
      else if tierWaits s away then .error { code := 0 }
      else .ok (ofTrytes (keys.map (codeTryte s core wv.ctx)))

/-- The structural checks on the instruction words of a clause (R154, R156, R168); `longs` counts the
long-latency words before. -/
def wordsLegal (h : Header) : Nat → Nat → List Int → Bool
  | 0, _, _ => false
  | _, _, [] => true
  | fuel + 1, longs, w :: ws =>
    let op := Enc.opOf w
    let gd := Enc.guardField w
    let n := if Enc.isL op then 1 else 0
    let long := Enc.isLong op
    let flagged := if longs = 0 then h.flagA.isSome else h.flagB.isSome
    op != 0 && (decide (gd < 36) || gd == 40) && decide (n ≤ ws.length) &&
      (!Enc.isTransfer op || ws.length == n) && (!long || (decide (longs < 2) && flagged)) &&
      wordsLegal h fuel (if long then longs + 1 else longs) (ws.drop n)

structure Clause where
  header : Header
  words : List Int

/-- The clause at an offset, with every structural check (R151, R168). Of several structural cases of one clause, whose
order R168 leaves open, the header's own comes first, then the first word in order that cannot be fetched, then
what the words themselves break (DESIGN CHOICE, log 78). The fault's lane is 0, as its position is, whichever lanes the pick
has: R325 gives only the position of a structural fault (DESIGN CHOICE, log 108). -/
def fetchClause (s : State) (core : Nat) (wv : Weave) (pc : Int) : Except FaultInfo Clause := do
  let w ← fetchWord s core wv pc
  match readHeader w with
  | none => throw { code := 3 }
  | some h =>
    let ws ← (List.range h.length).mapM fun (i : Nat) => fetchWord s core wv (pc + 3 + 3 * (i : Int))
    if wordsLegal h 10 0 ws then return ⟨h, ws⟩ else throw { code := 3 }

/-- The header at an offset, as far as it can be read. -/
def headerAt (s : State) (core : Nat) (wv : Weave) (pc : Int) : Option Header :=
  match fetchWord s core wv pc with
  | .ok w => readHeader w
  | .error _ => none

/-! ### What a clause asks of engines and budget (R354, R376) -/

/-- The opcodes of the words of a clause from a position on, extension words left out. -/
def opsFrom (pos : Nat) : Nat → Nat → List Int → List Nat
  | 0, _, _ => []
  | _, _, [] => []
  | fuel + 1, at_, w :: ws =>
    let op := Enc.opOf w
    let n := if Enc.isL op then 1 else 0
    (if pos ≤ at_ then [op] else []) ++ opsFrom pos fuel (at_ + 1 + n) (ws.drop n)

def longsBefore (pos : Nat) (ws : List Int) : Nat :=
  let all := (opsFrom 0 10 0 ws).countP Enc.isLong
  all - (opsFrom pos 10 0 ws).countP Enc.isLong

def isMatrixOp (op : Nat) : Bool := op == 196 || op == 197
def isTransformOp (op : Nat) : Bool := op == 194 || op == 195
def isMessageOp (op : Nat) : Bool := op == 205
def isCopyOp (op : Nat) : Bool := Enc.isLong op && !isMatrixOp op && !isTransformOp op && !isMessageOp op

/-- The opcodes of the words that open picks have still to issue, on a core's cluster or on the core. -/
def openOps (s : State) (p : Strand → Bool) : List Nat :=
  (s.strands.filter fun x => p x.2).flatMap fun x =>
    match x.2.pick with
    | some p => opsFrom p.pos 10 0 p.words
    | none => []

/-- Free entries of the issue queues that a strand's long-latency words enter (R376): copy, transform,
message, matrix. The words of open picks have theirs. -/
def queueRoom (s : State) (core : Nat) : Nat × Nat × Nat × Nat :=
  let cl := clusterOf core
  let near := openOps s fun st => clusterOf st.core == cl
  let here := openOps s fun st => st.core == core
  let mine (l : List (Nat × EngOp)) : List EngOp := (l.filter fun x => x.2.strand.isSome).map Prod.snd
  let copies := mine (copyOps s cl)
  let active := (mine (activeCopies s cl)).length
  let xfs := (mine (transformOps s cl)).length
  let xf := if (transformNow s cl).any fun x => x.2.strand.isSome then 1 else 0
  let msgs := mine (messageOps s cl)
  let targets := ((msgs.map fun o => (idx o.sval 25 2, idx o.sval 22 3)).eraseDups).length
  let mats := ((mine (matrixOps s core)).filter fun o => o.phase == .queued).length
  (27 - (copies.length - active) - near.countP isCopyOp, 9 - (xfs - xf) - near.countP isTransformOp,
   27 - (msgs.length - targets) - near.countP isMessageOp, 2 - mats - here.countP isMatrixOp)

def queuesTake (s : State) (core : Nat) (ops : List Nat) : Bool :=
  if ops.any Enc.isLong then
    let (c, x, m, a) := queueRoom s core
    decide (ops.countP isCopyOp ≤ c) && decide (ops.countP isTransformOp ≤ x) &&
      decide (ops.countP isMessageOp ≤ m) && decide (ops.countP isMatrixOp ≤ a)
  else true

/-- The budget window that a core's counter stands in (R354). -/
def windowOf (s : State) (core : Nat) : Nat := (counter s core).toNat / 81

/-- The thermal cap of a die (R431). -/
def thermalCap (temp : Nat) : Nat := if 108 ≤ temp then 1 else if 100 ≤ temp then 9 else 81

/-- The effective budget of a die: the least of the driver's, the power cap and the thermal cap, never
below 1 (R354, R431). -/
def effectiveBudget (s : State) (die : Nat) : Nat :=
  max 1 (min (s.die die).budget (min (thermalCap (s.die die).temp) (Config.powerCap s.mgmt.powerLimit die)))

/-- Enter the present window: the die's effective budget holds, and nothing is used. -/
def rollWindow (s : State) (core : Nat) : State :=
  let c := s.core core
  if c.window = windowOf s core then s
  else s.setCore core { c with window := windowOf s core, budget := effectiveBudget s (dieOf core), used := 0 }

/-- Matrix words that open picks of a core, formed in its present window, have still to issue (log 75). -/
def openMatrix (s : State) (core : Nat) : Nat :=
  (openOps s fun st => st.core == core && st.pick.any fun p => p.window == windowOf s core).countP isMatrixOp

/-- Every core of a die enters its present window, before something changes what the next ones get (R354, R431). -/
def rollDie (s : State) (die : Nat) : State :=
  ((List.range 64).map fun i => 64 * die + i).foldl rollWindow s

/-- Does the budget hold a clause with these words back? The core's window is the present one. -/
def budgetHolds (s : State) (core : Nat) (ops : List Nat) : Bool :=
  let n := ops.countP isMatrixOp
  let c := s.core core
  if n = 0 then false
  else
    let used := c.used + openMatrix s core
    if c.budget < n then used != 0 else decide (c.budget < used + n)

/-! ### Eligible threads and ready strands (R23, R24, R28) -/

/-- Does a thread's header name no flag that is set? The flags that a header assigns hold it exactly as if
its wait mask named them (R55, R153; log 16). A header that cannot be read names none. -/
def maskClear (s : State) (wv : Weave) (st : Strand) (pc : Int) : Bool :=
  match headerAt s st.core wv pc with
  | some h => h.waits.all (fun f => !st.flag f) && !(h.flagA.any st.flag) && !(h.flagB.any st.flag)
  | none => true

def eligible (s : State) (wv : Weave) (st : Strand) (t : Thread) : Bool :=
  t.status == .ready && !t.awaits && maskClear s wv st t.pc

/-- Lanes that are eligible; none while a thread is blocked in grow (R43). -/
def eligibleLanes (s : State) (wv : Weave) (st : Strand) : List Nat :=
  if st.threads.any (·.status == .inGrow) then [] else st.lanes (eligible s wv st)

/-- The lane whose PC and position the pick takes: greatest age, lowest PC, lowest position. -/
def chooseLane (st : Strand) (lanes : List Nat) : Option Nat :=
  let before (a b : Nat) : Bool :=
    let x := st.thread a
    let y := st.thread b
    decide (y.age < x.age) ||
      (x.age == y.age && (decide (x.pc < y.pc) || (x.pc == y.pc && decide (x.pos ≤ y.pos))))
  leastBy before lanes

/-- What a strand would issue next. -/
structure Choice where
  pc : Int
  pos : Nat
  lanes : List Nat
  elig : List Nat
  clause : Except FaultInfo Clause

def nextChoice (s : State) (wv : Weave) (st : Strand) : Option Choice :=
  let elig := eligibleLanes s wv st
  (chooseLane st elig).map fun l =>
    let x := st.thread l
    { pc := x.pc, pos := x.pos, elig, clause := fetchClause s st.core wv x.pc,
      lanes := elig.filter fun m => (st.thread m).pc == x.pc && (st.thread m).pos == x.pos }

/-- May a trap be delivered at this boundary (R316)? -/
def trapDue (s : State) (st : Strand) : Bool :=
  atBoundary st && !st.mask.global && (st.pending || st.heldTrap.isSome || timerDue s st)

/-- May the cores of a weave's partition issue (R321)? -/
def mayIssue (s : State) (wv : Weave) : Bool :=
  match (s.part wv.die wv.part).phase with
  | .run | .drain _ => true
  | .halt t _ _ => decide (clockTime s (s.part wv.die wv.part).clock < t + Config.lastIssue)
  | _ => false

/-- A strand whose threads may issue, but for eligibility and the governor. -/
def strandLive (s : State) (st : Strand) : Bool :=
  match s.weaves.get? st.weave with
  | none => false
  | some wv => wv.ready && !wv.failed && mayIssue s wv && st.pick.isNone && st.fault.isNone && st.replay.isEmpty

/-- What stands between a strand with eligible threads and its issue. -/
inductive Standing where
  | idle
  | ready (c : Choice)
  | held
  deriving Inhabited

/-- The standing of a strand, its core's window being the present one. `held` is the hold of the
matrix budget alone (R354). -/
def standing (s : State) (st : Strand) : Standing :=
  if !strandLive s st || trapDue s st then .idle
  else
    match nextChoice s (s.weaveOf st) st with
    | none => .idle
    | some c =>
      match c.clause with
      | .error f => if f.code = 0 then .idle else .ready c
      | .ok cl =>
        let ops := opsFrom c.pos 10 0 cl.words
        if !queuesTake s st.core ops then .idle
        else if budgetHolds s st.core ops then .held
        else .ready c

def isReady_ : Standing → Bool
  | .ready _ => true
  | _ => false

/-! ### ISSUE_PICK -/

/-- Rank of R28 and R29: forced, ordinary, yielded. -/
def rankOf (st : Strand) : Nat := if st.forced || decide (1536 ≤ st.starve) then 0 else if st.yielded then 2 else 1

def issuesBefore (s : State) (a b : Nat × Strand) : Bool :=
  let key (x : Nat × Strand) : Nat × Nat × Nat := (rankOf x.2, (s.weaveOf x.2).age, x.2.number)
  let (r, w, n) := key a
  let (r', w', n') := key b
  decide (r < r') || (r == r' && (decide (w < w') || (w == w' && decide (n ≤ n'))))

/-- Ready strands of a core that have not issued in this cycle. -/
def readyStrands (s : State) (core : Nat) : List (Nat × Strand) :=
  s.strands.filter fun x =>
    x.2.core == core && !(s.core core).issued.contains x.1 && isReady_ (standing s x.2)

/-- Ages after a pick (R24). -/
def ageThreads (st : Strand) (c : Choice) : Strand :=
  st.modThreads c.elig fun l t => { t with age := if c.lanes.contains l then 0 else t.age + 1 }

/-- Open the pick, or raise the structural fault before any word takes effect (R169). -/
def openPick (s : State) (k : Nat) (st : Strand) (c : Choice) : State :=
  let wv := s.weaveOf st
  let st1 := { ageThreads st c with starve := 0, forced := false, yielded := false }
  let s1 := (s.modCore st.core fun x => { x with issued := x.issued ++ [k] }).modCtx wv.ctx fun x =>
    { x with progress := s.cycle }
  match c.clause with
  | .error f =>
    let st2 := st1.modThreads c.lanes fun _ t => { t with pos := 0 }
    -- the walk and the line of the fetch that failed, or of the header that breaks a rule
    let p := f.addr.getD (wv.codeBase + c.pc)
    let s2 := fetchCode (fillTlb s1 (.core st.core) wv.ctx p) st.core wv.ctx p (.core st.core)
    raiseFault (s2.setStrand k st2) wv.ctx (some k) none f
  | .ok cl =>
    let start := wv.codeBase + c.pc
    let ptrs := (List.range (3 * (cl.words.length + 1))).map fun (i : Nat) => start + (i : Int)
    -- the clause's first tryte, and the first of every device line that it goes on in (R359)
    let s1 := (ptrs.filter fun p => p == start || field 45 p 0 4 == 0).foldl (fun s p =>
      fetchCode (fillTlb s (.core st.core) wv.ctx p) st.core wv.ctx p (.core st.core)) s1
    let p : Pick :=
      { header := c.pc, pos := c.pos, lanes := c.lanes, words := cl.words, longs := longsBefore c.pos cl.words,
        flagA := cl.header.flagA, flagB := cl.header.flagB, yield := cl.header.yield,
        window := windowOf s1 st.core }
    let n := (opsFrom c.pos 10 0 cl.words).countP isMatrixOp
    let b := (s.core st.core).budget
    let s2 := if b < n then s1.modCore st.core fun x => { x with used := b } else s1
    s2.setStrand k { st1 with pick := some p }

/-- ISSUE_PICK: the first ready strand of the core in the order of R28, and its pick. The yield hint
of the strands that took part in the choice is spent. -/
def execIssuePick (core : Nat) (s : State) : Out :=
  let s0 := rollWindow s core
  let rs := readyStrands s0 core
  match leastBy (issuesBefore s0) rs with
  | none => .next s
  | some (k, st) =>
    if 2 ≤ (s0.core core).issued.length then .next s
    else
      match standing s0 st with
      | .ready c =>
        let s1 := rs.foldl (fun s x => s.modStrand x.1 fun y => { y with yielded := false }) s0
        .next (openPick s1 k st c)
      | _ => .next s

/-- STRAND_FORCED (R29): a starvation counter that has reached 1,536. -/
def execStrandForced (k : Nat) (s : State) : Out :=
  .next (s.modStrand k fun st => if 1536 ≤ st.starve then { st with forced := true } else st)

/-- BUDGET_WINDOW (R354): a core enters its next window. -/
def execBudgetWindow (core : Nat) (s : State) : Out := .next (rollWindow s core)

/-! ### Threads that become eligible (R234, R270) -/

def execSleepExpiry (k lane : Nat) (s : State) : Out :=
  .next (s.modStrand k fun st =>
    match (st.thread lane).status with
    | .asleep t =>
      if (t : Int) ≤ counter s st.core then st.setThread lane { st.thread lane with status := .ready } else st
    | _ => st)

/-! ### Traps (R57, R285, R316) -/

/-- Strand and weave of a boundary at which a trap may be delivered. -/
def deliverable (s : State) (k : Nat) : Option Strand :=
  match s.strands.get? k with
  | none => none
  | some st => if strandLive s st && atBoundary st && !st.mask.global then some st else none

/-- TRAP_DELIVERY: the pending trap, or the one held back behind the global trit; a clause's own
cause stays first, and a held one's lanes join it: R316 does not say which comes first (DESIGN CHOICE, log 113). -/
def execTrapDelivery (k : Nat) (s : State) : Out :=
  match deliverable s k with
  | none => .next s
  | some st =>
    let add (a b : List Nat) := a ++ b.filter fun x => !a.contains x
    let held := (st.heldTrap.map Prod.snd).getD []
    let st1 := { st with heldTrap := none }
    if st.pending then .next (deliverTrap s k st1 st.cause (add st.trapLanes held))
    else
      match st.heldTrap with
      | some (c, ls) => .next (deliverTrap s k st1 c ls)
      | none => .next s

/-- TIMER_TRAP (R57): the lanes are every entering lane. A clause's trap goes first (R317). -/
def execTimerTrap (k : Nat) (s : State) : Out :=
  match deliverable s k with
  | none => .next s
  | some st =>
    if !timerDue s st || st.pending || st.heldTrap.isSome then .next s
    else .next (deliverTrap s k st (causeWord 1 0) (st.lanes Thread.active))

/-! ### GROUP_FORM_TIMEOUT (R38) -/

/-- Has a node's timeout passed for its oldest record? -/
def timeoutDue (s : State) (nd : Node) : Bool :=
  match nd.queue.head? with
  | none => false
  | some (t, _) => decide (t + 2 * (recWord nd.record 22).toNat ≤ s.cycle)

def execGroupFormTimeout (graph node : Nat) (s : State) : Out :=
  match (s.graphs.get? graph).bind fun g => g.nodes[node]? with
  | none => .next s
  | some nd => if timeoutDue s nd then .next (formGroup s graph node nd.queue.length) else .next s

end Sys2Proof.Machine
end

