-- ==== Sys2Proof/Machine/Launching.lean ====
section
/-!
DEFINITION. From a launch to resident strands: giving partitions (R348, R349), dispatching weaves (R350 to
R352) and their prologues (R39, R127, R346, R347).
-/
namespace Sys2Proof.Machine

/-! ### Partitions (R348, R349) -/

/-- The ready context that a free partition goes to: highest level, longest wait, lowest number. -/
def nextContext (s : State) (die part : Nat) : Option Nat :=
  let cands := s.contexts.keys.filter fun c => c / 256 == die && isReady s c
  let wait (c : Nat) : Nat := ((s.contexts.get? c).map (·.waitSince)).getD 0
  let better (a b : Nat) : Bool :=
    let la := levelOf s a part
    let lb := levelOf s b part
    decide (lb < la) || (la == lb && (decide (wait a < wait b) || (wait a == wait b && decide (a ≤ b))))
  leastBy better cands

/-- PARTITION_ASSIGN: a free partition goes to a ready context, and triggers are tested again. -/
def execPartitionAssign (die part : Nat) (s : State) : Out :=
  if !partFree s die part then .next s
  else
    match nextContext s die part with
    | none => .next s
    | some c =>
      let s1 := s.modPart die part fun x => { x with ctx := c, phase := .run, since := s.cycle, forCtx := none }
      let s2 := s1.modCtx c fun x => { x with waitSince := s.cycle }
      .next (triggers s2 die)

/-- QUANTUM_EXPIRY (R349): a ready context of the same level, and the partition held for a quantum. -/
def execQuantumExpiry (die part : Nat) (s : State) : Out :=
  let x := s.part die part
  let mine := levelOf s x.ctx part
  let others := s.contexts.keys.filter fun c =>
    c / 256 == die && c != x.ctx && isReady s c && levelOf s c part == mine
  if x.phase = .run ∧ x.since + us (s.die die).quantumUs ≤ s.cycle ∧ !others.isEmpty then
    .next (preempt s die part)
  else .next s

/-! ### Dispatch (R350 to R352) -/

/-- The first launch of a context with weaves undispatched: highest level, then order of acceptance. -/
def headLaunch (s : State) (ctx : Nat) : Option (Nat × Launch) :=
  leastBy (fun a b => decide (b.2.level < a.2.level) || (a.2.level == b.2.level && decide (a.2.seq ≤ b.2.seq)))
    (undispatched s ctx)

/-- Clusters of a die's partition that a context runs on. -/
def clustersOf (s : State) (ctx : Nat) : List (Nat × Nat) :=
  let die := ctx / 256
  (List.range 3).flatMap fun p =>
    let x := s.part die p
    if x.phase = .run ∧ x.ctx = ctx then ((List.range 16).filter (partHolds p)).map fun c => (p, c) else []

/-- The core of each strand, and the window base, if a cluster can hold the whole weave (R30). -/
def fitsOn (s : State) (die cluster : Nat) (gs : List Nat) (tiles len : Nat) : Option (List Nat × Nat) := do
  let cores := enabledCores s (16 * die + cluster)
  let base ← windowBase s die cluster len
  let place ← placeOn (cores.map (roomOf s)) gs tiles
  return (place, base)

/-- Allocated granules and enabled cores of a cluster (R351). -/
def ratioOf (s : State) (die cluster : Nat) : Nat × Nat :=
  let cores := enabledCores s (16 * die + cluster)
  ((cores.map (allocated s)).sum, cores.length)

/-- Of the clusters that can hold the weave, the one of lowest ratio, then of lowest number. -/
def chooseCluster (s : State) (ctx : Nat) (gs : List Nat) (tiles len : Nat) :
    Option (Nat × Nat × List Nat × Nat) :=
  let die := ctx / 256
  let all := (clustersOf s ctx).filterMap fun (p, c) =>
    (fitsOn s die c gs tiles len).map fun r => (p, c, r.1, r.2)
  leastBy (fun a b =>
    let x := ratioOf s die a.2.1
    let y := ratioOf s die b.2.1
    decide (x.1 * y.2 < y.1 * x.2) || (x.1 * y.2 == y.1 * x.2 && decide (a.2.1 ≤ b.2.1))) all

/-- Has the stagger since the launch's last start passed (R352)? -/
def staggerOver (s : State) (l : Launch) : Bool :=
  match l.lastStart with
  | none => true
  | some t => decide (t + 2 * (recWord l.record 15).toNat ≤ s.cycle)

/-- The successors' node numbers of a node's weaves. -/
def succsOf (s : State) (l : Launch) : List Nat :=
  match l.graph with
  | none => []
  | some (g, n) => (((s.graphs.get? g).bind fun gr => gr.nodes[n]?).map (·.succs)).getD []

/-- The code lines that a dispatch pushes into the instruction caches of a weave's cores, as far as the segment goes
(R346). -/
def pushLines (s : State) (ctx : Nat) (r : List Int) (cores : List Nat) : State :=
  let ps := (List.range (recPush r)).map fun (i : Nat) => recWord r 16 + 81 * (i : Int)
  let ps' := (ps.filter (· < recWord r 3)).map (recPair r 1 + ·)
  cores.eraseDups.foldl (fun s c => ps'.foldl (fun s p => fetchCodeLine s c ctx p) s) s

/-- The weave and strands of a launch's next weave on a cluster. A node's records are copied to the
start of its window, and s53 holds their count (R39). -/
def startWeave (s0 : State) (n : Nat) (l : Launch) (part cluster : Nat) (cores : List Nat) (base : Nat) : State :=
  let s := pushLines (becomesResident s0 l.ctx) l.ctx l.record cores
  let id := s.nextId
  let binds := (List.range (recBindings l.record)).map fun (i : Nat) => recPair l.record 17 + 81 * (i : Int)
  let wv := { newWeave l.record l.recPtr l.die l.ctx n l.next part cluster base id with
              succ := succsOf s l, bindings := binds, ready := false }
  let recs := l.batches.getD l.next []
  let strand (j core : Nat) : Strand :=
    let st := newStrand l.record l.recPtr id j core base
    if l.graph.isSome then { st with s := st.s.put 53 recs.length } else st
  let s1 := { s with weaves := s.weaves.put id wv, nextId := id + 1 }
  let s2 := addStrands s1 ((cores.zipIdx).map fun x => strand x.2 x.1)
  let s3 := { s2 with launches := s2.launches.put n { l with next := l.next + 1, lastStart := some s.cycle } }
  if recs.isEmpty then s3
  else writeScratch s3 (16 * l.die + cluster) ((recs.flatten.zipIdx).map fun x => (base + x.2, x.1))

/-- Partitions of a context on which nothing holds it any more are left (R348). -/
def leaveChecks (s : State) (ctx : Nat) : State :=
  (partsOf s ctx).foldl (fun s p => leaveCheck s (ctx / 256) p) s

/-- WEAVE_DISPATCH: the next weave of a context's head launch. A record with a nonzero reserved field
is the engine-error fault as its first weave would be placed (R344). Weaves that are swapped out resume
before more are dispatched (log 33). -/
def execWeaveDispatch (ctx : Nat) (s : State) : Out :=
  match headLaunch s ctx, s.contexts.get? ctx with
  | some (n, l), some c =>
    let die := ctx / 256
    let running := (partsOf s ctx).any fun p => (s.part die p).phase == .run
    if c.status != .alive || !c.images.isEmpty || !c.stored.isEmpty || !running || !staggerOver s l then .next s
    else
      let gs := List.replicate (recStrands l.record) (recGranules l.record)
      match chooseCluster s ctx gs (recTiles l.record).length (recWindow l.record) with
      | none => .next s
      | some (p, cl, cores, base) =>
        if l.next = 0 ∧ !reservedClear l.record then .next (raiseFault s ctx none none { code := 12 })
        else .next (leaveChecks (startWeave s n l p cl cores base) ctx)
  | _, _ => .next s

/-! ### The prologue (R127, R346, R347) -/

/-- The operation of a weave's prologue that is in flight. -/
def prologueOp (s : State) (w : Nat) : Option (Nat × EngOp) :=
  s.ops.find? fun x => x.2.weave == w && x.2.strand.isNone

/-- The uniform block of a binding as its instruction reads it at issue. For cpf the value stands first
(log 34). -/
def bindingBlock (i : Instr) (ws : List Int) : List Int × Int :=
  let at_ (j : Nat) : Int := ws.getD j 0
  let run (from_ n : Nat) : List Int := (List.range n).map fun j => at_ (from_ + j)
  let mapPair (m : Option Nat) (from_ : Nat) : List Int :=
    match m with
    | some r => run (from_ + r) 2
    | none => []
  match i with
  | .cpt _ _ _ _ _ _ x => (run 6 (3 * x.dims) ++ mapPair x.map 6, 0)
  | .cpm _ _ _ _ _ x => (run 6 (3 * x.dims + 4), 0)
  | .cpg _ _ _ _ _ _ x => (run 6 (4 * x.dims + 1), 0)
  | .cpf _ t _ _ _ x =>
    let n := if isPair t then 2 else 1
    (run (6 + n) (3 * x.dims) ++ mapPair x.map 6, if n = 2 then pairOf (at_ 6) (at_ 7) else at_ 6)
  | _ => ([], 0)

/-- The places of a binding's destination and source (R279); the source of cpf is no place. -/
def bindingPlaces (i : Instr) : Bool × Bool :=
  match i with
  | .cpt _ _ _ _ _ _ x => (x.dstSp, x.srcSp)
  | .cpm _ _ _ _ _ x => (x.dstSp, x.srcSp)
  | .cpg _ _ _ _ _ _ x => (x.dstSp, x.srcSp)
  | .cpf _ _ _ _ _ x => (x.dstSp, false)
  | .xff _ _ _ _ _ x | .xfi _ _ _ _ _ x => (x.dstSp, x.srcSp)
  | _ => (false, false)

/-- What a pair of a binding entry names (R347): a pointer, or with place +1 a word of the weave's window, by its index in
trits 10:0 as R10 reads one, counted from the window's base (DEDUCED, log 110). -/
def bindingPtr (wv : Weave) (sp : Bool) (x : Int) : Option Int :=
  if !sp then (if fits 45 x then some x else none)
  else if fits 11 x then some ((wv.base : Int) + (x + half 11)) else none

/-- The operation of a binding entry: what its instruction makes of it, with the fault of one that is refused (R347). -/
def bindingOp (s : State) (w : Nat) (wv : Weave) (ws : List Int) : EngOp × Option Nat :=
  let at_ (j : Nat) : Int := ws.getD j 0
  let core := ((s.strandsOf w).map (·.2.core)).headD (64 * wv.die)
  let now := (counter s core).toNat
  let o (i : Instr) (unit : Unit_) (dst src : Int) : EngOp :=
    { i, w0 := at_ 0, w1 := at_ 1, unit, strand := none, weave := w, die := wv.die, ctx := wv.ctx,
      cluster := 16 * wv.die + wv.cluster, core, flag := 0, vd := dst, va := src, slots := wv.slots, issuedAt := now,
      movedAt := now }
  let refused (code : Nat) : EngOp × Option Nat :=
    ({ o (refusedInstr (at_ 0)) .none (pairOf (at_ 2) (at_ 3)) (pairOf (at_ 4) (at_ 5)) with block := (List.range 21).map fun j => at_ (6 + j), phase := .dropped }, some code)
  match bindingInstr (at_ 0) (at_ 1) with
  | .error code => refused code
  | .ok i =>
    let fill := match i with | .cpf .. => true | _ => false
    let (block, value) := bindingBlock i ws
    let places := bindingPlaces i
    let src := if fill then some value else bindingPtr wv places.2 (pairOf (at_ 4) (at_ 5))
    match bindingPtr wv places.1 (pairOf (at_ 2) (at_ 3)), src with
    | some dst, some src =>
      let unit := match i with
        | .xff .. | .xfi .. => Unit_.transform
        | _ => Unit_.copy
      ({ o i unit dst src with block }, none)
    | _, _ => refused 12

/-- May a weave's prologue go on: neither failed nor halting? -/
def prologueRuns (s : State) (wv : Weave) : Bool :=
  !wv.ready && !wv.failed && !halting (s.part wv.die wv.part)

/-- PROLOGUE_BINDING: the next entry of the binding table goes to its engine. One that is refused faults as an
operation of the prologue, and stays the next entry. -/
def execPrologueBinding (weave : Nat) (s : State) : Out :=
  match s.weaves.get? weave with
  | none => .next s
  | some wv =>
    match wv.bindings with
    | [] => .next s
    | p :: rest =>
      if !prologueRuns s wv || (prologueOp s weave).isSome then .next s
      else
        let s := touchRun s wv.ctx p 81
        match ctxWords s wv.ctx p 27 with
        | .error code => .next (raiseFault s wv.ctx none none { code, addr := some p })
        | .ok ws =>
          let (o, bad) := bindingOp s weave wv ws
          let s1 := { s with ops := s.ops.put s.nextId o, nextId := s.nextId + 1 }
          match bad with
          | some code => .next (opFault s1 s.nextId o code)
          | none => .next (s1.setWeave weave { wv with bindings := rest })

/-- PROLOGUE_COMPLETE: every binding is done, and the weave's strands become ready with their cores'
cached lines dropped (R127, R360). -/
def execPrologueComplete (weave : Nat) (s : State) : Out :=
  match s.weaves.get? weave with
  | none => .next s
  | some wv =>
    if !prologueRuns s wv || !wv.bindings.isEmpty || (prologueOp s weave).isSome then .next s
    else
      let s1 := s.setWeave weave { wv with ready := true }
      .next (((s1.strandsOf weave).map (·.2.core)).foldl dropAll s1)

end Sys2Proof.Machine
end

