-- ==== Sys2Proof/Machine/Resume.lean ====
section
/-!
DEFINITION. Resumption of a context (R334 to R336, R57, R312): reading its images back, and placing each weave
on a cluster with its strands, operations and replays.
-/
namespace Sys2Proof.Machine

/-! ### From an image to stored weaves -/

/-- A weave from its record and what is kept of it; the launch record gives what the weave record does not
hold. None where that record cannot be read. The tiles of strands that had ended before the swap are not held again: R22
frees them as the weave ends, and says nothing of a swap (DESIGN CHOICE, log 90). -/
def readWeave (s : State) (ctx : Nat) (k : Option Kept) (r : List Int) : Option (Weave × Bool) := do
  let at_ (i : Nat) : Int := r.getD i 0
  let ptr := wordPair r 1
  let l := k.bind fun x => s.launches.get? x.launch
  let rec_ ← (l.map (·.record)).or (ctxWords s ctx ptr 81).toOption
  let g := recGrid rec_
  let gx := g.getD 0 1
  let gy := g.getD 1 1
  let wx := (at_ 3).toNat
  let wy := (at_ 4).toNat
  let wz := (at_ 5).toNat
  let kt := k.getD {}
  let wv : Weave :=
    { die := ctx / 256, ctx, launch := kt.launch, num := wx + gx * (wy + gy * wz), wx, wy, wz,
      shape := recShape rec_, nstrands := (at_ 6).toNat, pass := (at_ 7).toNat, cluster := 0,
      base := (sgd (at_ 8) 12 12).toNat, len := (sgd (at_ 8) 0 12).toNat,
      slots := (List.range 3).map fun i => readSlot (at_ (9 + 2 * i)) (at_ (10 + 2 * i)),
      exts := (List.range 3).map fun i => at_ (9 + 2 * i),
      barriers := (List.range 27).map fun n => readBarrier (at_ (15 + n)), age := kt.age,
      codeBase := recPair rec_ 1, codeSize := (recWord rec_ 3).toNat, recPtr := ptr,
      succ := (l.map (succsOf s)).getD [], bindings := kt.bindings, ready := kt.ready }
  return (wv, recKind rec_ == 2)

/-- Records with their ordinals, after the summary. -/
def numberedRecords (words : List Int) : List (Nat × List Int) :=
  (recordsOf words).zipIdx.map fun x => (x.2, x.1)

/-- A record of a failed weave's strand (R325). -/
def failedStrand (r : List Int) : Bool := idx (r.getD 1 0) 24 3 == 3

/-- The strand number under a strand record's ordinal, if it is of a weave. -/
def numberOf (recs : List (Nat × List Int)) (weaveOrd strandOrd : Nat) : Option Nat :=
  (recs.find? fun x => x.1 == strandOrd && recordKind x.2 == 2 && x.2.getD 4 0 == (weaveOrd : Int)).map fun x =>
    (x.2.getD 5 0).toNat

/-- The stored weave of a weave record: none where it cannot be read, an empty one where it has failed. -/
def readStored (s : State) (ctx : Nat) (recs : List (Nat × List Int)) (k : Option Kept) (prologue : Option (List Int))
    (ord : Nat) (r : List Int) : Option (Option Stored) := do
  let sts := (recs.filter fun x => recordKind x.2 == 2 && x.2.getD 4 0 == (ord : Int)).map Prod.snd
  if sts.any failedStrand then return none
  let (wv, handler) ← readWeave s ctx k r
  let kt := k.getD {}
  let strands := sts.zipIdx.map fun x => readStrand (k.bind fun y => y.traps[x.2]?) handler x.1
  let mine := recs.filterMap fun x =>
    if recordKind x.2 = 3 then (numberOf recs ord (x.2.getD 1 0).toNat).map fun n => (some n, x.2) else none
  let all := (prologue.map fun p => (none, p)).toList ++ mine
  let ops ← (all.zipIdx.filter fun x => !(kt.ops.getD x.2 {}).refused).mapM fun x => readOp (kt.ops.getD x.2 {}) x.1.1 x.1.2
  return some { weave := wv, strands, ops, window := (r.drop 42).take wv.len }

/-- The weaves of an image in the order of their records. The operations of prologues, which name no
strand, belong to the weaves with a binding in flight, in order. -/
def readImage (s : State) (ctx : Nat) (words : List Int) (kept : List Kept) : Option (List Stored) := do
  let recs := numberedRecords words
  let first ← recs.head?
  if recordKind first.2 ≠ 0 then none
  let ws := recs.filter fun x => recordKind x.2 == 1
  let pros := (recs.filter fun x => recordKind x.2 == 3 && x.2.getD 1 0 == 0).map Prod.snd
  let before (j : Nat) : Nat := (kept.take j).countP (·.binding)
  let all ← ws.zipIdx.mapM fun x =>
    let k := kept[x.2]?
    let pro := if (k.map (·.binding)).getD false then pros[before x.2]? else none
    readStored s ctx recs k pro x.1.1 x.1.2
  return all.filterMap id

/-- The words of an image, and what is kept of its weaves. -/
def imageOf (s : State) (ctx : Nat) (r : ImageRef) : Option (List Int × List Kept) :=
  match r with
  | .shadow p => (s.part (ctx / 256) p).shadow.map fun im => (im.words, im.kept)
  | .area base n kept => (ctxWords s ctx base n).toOption.map fun ws => (ws, kept)

/-- Is some record of a context's images one with a nonzero reserved field (R13)? -/
def reservedSet (s : State) (ctx : Nat) (c : Context) : Bool :=
  c.images.any fun r => (imageOf s ctx r).any fun x =>
    (recordsOf x.1).any fun y => !recordClear (x.2.any fun k => k.ops.any (·.refused)) y

/-- What the device reads of a context's images in device memory (R361). -/
def touchImages (s : State) (ctx : Nat) (c : Context) : State :=
  c.images.foldl (fun s r => match r with
    | .area base n _ => touchRun s ctx base (3 * n)
    | .shadow _ => s) s

/-- Read every image of a context back. Words of one that cannot be read lose the context (log 38). -/
def readImages (s : State) (ctx : Nat) (c : Context) : Option State := do
  let parts ← c.images.mapM fun r => (imageOf s ctx r).bind fun x => readImage s ctx x.1 x.2
  let s1 := s.modDie (ctx / 256) fun d =>
    { d with parts := d.parts.map fun p => { p with shadow := p.shadow.bind fun x => if x.ctx = ctx then none else some x } }
  return s1.modCtx ctx fun x => { x with images := [], stored := x.stored ++ parts.flatten }

/-! ### Placing a stored weave (R334) -/

/-- The cores of a stored weave's strands on a cluster, if the cluster can take it whole at its base. -/
def fitsStored (s : State) (die cluster : Nat) (x : Stored) : Option (List Nat) :=
  let key := 16 * die + cluster
  if x.strands.any (·.handler) then
    if handlersOn s key < (s.die die).handlers then (handlerCore s key).map fun c => x.strands.map fun _ => c else none
  else if !spanFree (heldSpans s die cluster) x.weave.base x.weave.len then none
  else
    placeOn ((enabledCores s key).map (roomOf s)) (x.strands.map (·.granules))
      ((x.strands.map fun st => st.tiles.length).foldl max 0)

/-- Of the clusters that can take it, the one of lowest ratio, then of lowest number (R351). -/
def clusterFor (s : State) (ctx : Nat) (x : Stored) : Option (Nat × Nat × List Nat) :=
  let die := ctx / 256
  let all := (clustersOf s ctx).filterMap fun (p, c) => (fitsStored s die c x).map fun cs => (p, c, cs)
  leastBy (fun a b =>
    let u := ratioOf s die a.2.1
    let v := ratioOf s die b.2.1
    decide (u.1 * v.2 < v.1 * u.2) || (u.1 * v.2 == v.1 * u.2 && decide (a.2.1 ≤ b.2.1))) all

/-- A comparator after rebasing, limited as tcmp limits it (R57, R244). -/
def rebased (d : Int) (now : Int) : Int := max (-half 45) (min (half 45) (d + now))

/-- Has a copy-engine operation done every element, so that its signal and its flag are what is left? -/
def copyOver (s : State) (o : EngOp) : Bool :=
  match o.i with
  | .mld _ _ _ sp =>
    match keptDesc { s } o sp o.va with
    | .ok ds => decide (0 < o.prog) && decide (ds.rows * ds.cols ≤ o.prog)
    | .error _ => false
  | .thnd .. | .cpw .. => false
  | _ => o.unit == .copy && decide (0 < o.prog) && decide (copyTotal s o ≤ o.prog)

/-- Enter a stored weave's operations; a cpw covers its strand's earlier ones again (R312). -/
def addOps (s : State) (w : Nat) (wv : Weave) (ids : List (Nat × Nat × Nat)) (ops : List EngOp) : State :=
  let start (s : State) (o : EngOp) : State :=
    let at_ := o.strand.bind fun n => ids.find? fun x => x.1 == n
    let k := at_.map fun x => x.2.1
    let core := ((at_.map fun x => x.2.2).or ((ids.head?).map fun x => x.2.2)).getD (64 * wv.die)
    let o1 : EngOp :=
      { o with strand := k, weave := w, die := wv.die, ctx := wv.ctx, cluster := 16 * wv.die + wv.cluster, core,
               issuedAt := (counter s core).toNat, movedAt := (counter s core).toNat,
               waits := if isCpw o.i then
                   (s.ops.filter fun x => x.2.unit == .copy && x.2.strand == k && x.2.weave == w && !isCpw x.2.i).map Prod.fst
                 else [] }
    let o2 := if copyOver s o1 then { o1 with phase := .written } else o1
    { s with ops := s.ops.put s.nextId o2, nextId := s.nextId + 1 }
  ops.foldl start s

/-- One stored weave resumes on a cluster (R334, steps 1 to 7). Its operations go on once its strands' replay entries
are done (`replaysDone`). A resumption discards no cached line (R360); lines of its cores serve the strands only where they
are as new as their homes (R102, log 28). -/
def placeStored (s0 : State) (x : Stored) (part cluster : Nat) (cores : List Nat) : State :=
  let s := becomesResident s0 x.weave.ctx
  let w := s.nextId
  let wv : Weave := { x.weave with part, cluster, age := if x.weave.age = 0 then w else x.weave.age }
  let key := 16 * wv.die + cluster
  let s1 := { s with weaves := s.weaves.put w wv, nextId := w + 1 }
  let sc := (s1.cluster key).scratch
  let s2 := if wv.len = 0 then s1
    else s1.setCluster key { s1.cluster key with
      scratch := (sc.clear wv.base (wv.base + wv.len)).putRun wv.base x.window
      bad := (s1.cluster key).bad.filter fun b => decide (b.1 < wv.base) || decide (wv.base + wv.len ≤ b.1) }
  let pairs := x.strands.zip cores
  let ids := pairs.zipIdx.map fun y => (y.1.1.number, w + 1 + y.2, y.1.2)
  let s3 := addStrands s2 (pairs.map fun (st, core) =>
    { st with weave := w, core, comparator := rebased st.comparator (counter s2 core) })
  let s4 := addOps s3 w wv ids x.ops
  let s5 := ids.foldl (fun s y => markResident s y.2.2 y.2.1) s4
  ids.foldl (fun s y => thenReplay s (some y.2.1)) s5

/-- Place stored weaves in order, each where it fits; the others wait. -/
def placeAll (s : State) (ctx : Nat) : List Stored → State
  | [] => s
  | x :: xs =>
    let s1 := match clusterFor s ctx x with
      | some (p, c, cores) => placeStored s x p c cores
      | none => s.modCtx ctx fun y => { y with stored := y.stored ++ [x] }
    placeAll s1 ctx xs

/-- RESUME (R334): a context that holds a running partition takes its halted weaves back. Launches that
staggered their starts begin anew. A record with a nonzero reserved field is the engine-error fault (R13). -/
def execResume (ctx : Nat) (s : State) : Out :=
  match s.contexts.get? ctx with
  | none => .next s
  | some c =>
    let running := (partsOf s ctx).any fun p => (s.part (ctx / 256) p).phase == .run
    if c.status ≠ .alive ∨ !running ∨ (c.images.isEmpty ∧ c.stored.isEmpty) then .next s
    else if reservedSet s ctx c then .next (raiseFault (touchImages s ctx c) ctx none none { code := 12 })
    else
      match readImages (touchImages s ctx c) ctx c with
      | none => .next (loseContext (touchImages s ctx c) ctx .lost true)
      | some s1 =>
        let xs := ((s1.contexts.get? ctx).map (·.stored)).getD []
        let s2 := s1.modCtx ctx fun y => { y with stored := [] }
        let s3 := { s2 with launches := s2.launches.map fun x =>
          (x.1, if x.2.ctx = ctx then { x.2 with lastStart := none } else x.2) }
        .next (leaveChecks (placeAll s3 ctx xs) ctx)

end Sys2Proof.Machine
end

