-- ==== Sys2Proof/Machine/Host.lean ====
section
/-!
DEFINITION. The host interface (R406 to R415, R421): BAR0, the aperture, rings and kicks, what a command's
header says, and completions.
-/
namespace Sys2Proof.Machine

/-! ### Queues by key -/

/-- The key of a queue of a die; queue 1024 is the admin ring. -/
def queueKey (die q : Nat) : Nat := 1025 * die + q
def adminKey (die : Nat) : Nat := queueKey die 1024
def keyDie (k : Nat) : Nat := k / 1025
def keyQueue (k : Nat) : Nat := k % 1025
def isAdmin (k : Nat) : Bool := keyQueue k == 1024

def wrap32 (x : Nat) : Nat := x % 2 ^ 32
/-- t - u on free-running 32-bit counts. -/
def sub32 (t u : Nat) : Nat := (t % 2 ^ 32 + 2 ^ 32 - u % 2 ^ 32) % 2 ^ 32

/-- What a kick does to a ring of N entries (R409): a new tail, nothing, or an error. A tail behind the
present one lies in the upper half of the counts. -/
inductive Kick where
  | raise (t : Nat)
  | ignore
  | error
  deriving DecidableEq, Repr

def kickOf (n head tail t : Nat) : Kick :=
  let d := sub32 t tail
  if d = 0 ∨ 2 ^ 31 ≤ d then .ignore
  else if d ≤ n - sub32 tail head then .raise (wrap32 t)
  else .error

/-! ### BAR0 (R407) -/

def setBar (s : State) (die : Nat) (f : Bar → Bar) : State := s.modDie die fun d => { d with bar := f d.bar }

/-- Is a ring size a power of two within bounds? -/
def ringSize (lo hi n : Nat) : Bool := ((List.range 17).any fun i => n == 2 ^ i) && decide (lo ≤ n) && decide (n ≤ hi)

/-- The admin ring is put in error: STATE reports it, and the error event is posted for queue 1024 of no context
(R409, R415; log 41). -/
def adminError (s : State) (die : Nat) : State :=
  postEvent (setBar s die fun b => { b with error := true }) die 4 0 1024 0

/-- ADMIN_TAIL: a kick of the admin ring (R407, R409). -/
def execAdminTail (die v : Nat) (s : State) : Out :=
  let b := (s.die die).bar
  if !b.ctl.testBit 0 || b.error || !b.ready then .next s
  else
    match kickOf b.sizeNow b.head b.tail v with
    | .raise t => .next (setBar s die fun b => { b with tail := t })
    | .ignore => .next s
    | .error => .next (adminError s die)

/-- ADMIN_CTL: the ring's address and size take effect as the enable bit rises, and its counts start at 0;
a ring that breaks their rules is in error (log 41). -/
def execAdminCtl (die v : Nat) (s : State) : Out :=
  let b := (s.die die).bar
  let ctl := v % 4 + v / 256 % 2048 * 256
  if ctl.testBit 0 && !b.ctl.testBit 0 then
    let ok := ringSize 64 4096 b.size && b.ring % 64 == 0 && b.doneAddr % 8 == 0
    let s1 := { s with cmds := s.cmds.filter fun x => x.2.queue != adminKey die }
    let s2 := setBar s1 die fun b =>
      { b with ctl, ringNow := b.ring, sizeNow := b.size, head := 0, tail := 0, done := 0, error := false }
    .next (if ok then s2 else adminError s2 die)
  else .next (setBar s die fun b => { b with ctl })

/-- REGISTER_WRITE of any other register of BAR0; read-only registers and offsets outside the table ignore
it, and so do the ring's address and size while the ring is enabled. -/
def execRegisterWrite (die off v : Nat) (s : State) : Out :=
  let x := v % 2 ^ 64
  let on := (s.die die).bar.ctl.testBit 0
  match off with
  | 0x10 => .next (if on then s else setBar s die fun b => { b with ring := x })
  | 0x18 => .next (if on then s else setBar s die fun b => { b with size := x })
  | 0x20 => .next (setBar s die fun b => { b with doneAddr := x })
  | 0x38 => .next (setBar s die fun b => { b with eventRing := x })
  | 0x40 => .next (setBar s die fun b => { b with eventSize := x })
  | 0x48 => .next (setBar s die fun b => { b with eventHead := x })
  | 0x50 => .next (setBar s die fun b => { b with aperture := x })
  | _ => .next s

/-- What a register reads: the ADMIN_TAIL register is written only. -/
def readRegister (s : State) (die off : Nat) : Nat :=
  let b := (s.die die).bar
  match off with
  | 0x00 => 1
  | 0x08 => die
  | 0x10 => b.ring
  | 0x18 => b.size
  | 0x20 => b.doneAddr
  | 0x30 => b.ctl
  | 0x38 => b.eventRing
  | 0x40 => b.eventSize
  | 0x48 => b.eventHead
  | 0x50 => b.aperture
  | 0x58 => (if b.ready then 1 else 0) + (if b.error then 2 else 0) + (if b.overflow then 4 else 0)
  | _ => 0

/-- The line as HBM holds it, past the slices (R407). -/
def hbmLine (s : State) (die line : Nat) : List Int :=
  match regionOf s die line with
  | some r => if summaryTrit (s.die die) r = -1 then List.replicate 81 0 else (spanOf (s.die die) line).trytes
  | none => (spanOf (s.die die) line).trytes

/-- A byte of the aperture: 6,553 lines of 160 bytes from the aperture's base. -/
def apertureByte (s : State) (die off : Nat) : Nat :=
  let line := (s.die die).bar.aperture + off / 160
  if 6553 ≤ off / 160 then 0
  else if !backed s die (81 * line) then 255
  else (streamBytes (hbmLine s die line)).getD (off % 160) 0

/-- APERTURE_READ: eight bytes of BAR0 from an offset; registers read whole. -/
def execApertureRead (die off : Nat) (s : State) : Out :=
  let byte (o : Nat) : Nat :=
    if 0x100000 ≤ o then apertureByte s die (o - 0x100000) else (leBytes 8 (readRegister s die (o / 8 * 8))).getD (o % 8) 0
  .next { s with reply := (List.range 8).map fun i => byte (off + i) }

/-! ### Kicks (R408, R409) -/

/-- KICK of a user queue. A kick beyond the free space puts the queue in error and posts the event. -/
def execKick (die q v : Nat) (s : State) : Out :=
  match s.queues.get? (queueKey die q) with
  | none => .next s
  | some x =>
    if x.error || x.closing then .next s
    else
      match kickOf x.size x.head x.tail v with
      | .raise t => .next { s with queues := s.queues.put (queueKey die q) { x with tail := t } }
      | .ignore => .next s
      | .error =>
        .next (postEvent { s with queues := s.queues.put (queueKey die q) { x with error := true } } die 4
          (x.ctx % 256) q 0)

/-- A 32-bit read of BAR2 at an offset (R408): at offset 0 of a queue's page its last accepted tail, elsewhere 0. -/
def readBar2 (s : State) (die off : Nat) : Nat :=
  if off % 4096 = 0 ∧ off / 4096 < 1024 then ((s.queues.get? (queueKey die (off / 4096))).map (·.tail)).getD 0 else 0

/-- A 32-bit write to BAR2 (R408): a kick at offset 0 of a page, and elsewhere nothing. -/
def writeBar2 (die off v : Nat) (s : State) : Out :=
  if off % 4096 = 0 ∧ off / 4096 < 1024 then execKick die (off / 4096) v s else .next s

/-! ### Fetching (R409, R410) -/

/-- COMMAND_FETCH: the next command of a ring, 64 bytes; a user queue's ring is read through ATS and PRI (R373, R416).
Capture records those of its context (R437). -/
def execCommandFetch (queue : Nat) (s : State) : Out :=
  let die := keyDie queue
  let enter (s : State) (index ring n : Nat) (ctx : Option Nat) : State :=
    let bytes := hostBytes s (ring + 64 * (index % n)) 64
    let c : Cmd := { die, queue, index, bytes, ctx }
    let s1 := { s with cmds := s.cmds.put s.nextId c, nextId := s.nextId + 1 }
    match ctx with
    | some x => capture s1 x ⟨.command, keyQueue queue, bytes⟩
    | none => s1
  if ioWaits s die || ioDown s die then .next s
  else if isAdmin queue then
    let b := (s.die die).bar
    if !b.ctl.testBit 0 || b.error || sub32 b.tail b.head == 0 then .next s
    else .next (setBar (enter s b.head b.ringNow b.sizeNow none) die fun b => { b with head := wrap32 (b.head + 1) })
  else
    match s.queues.get? queue with
    | none => .next s
    | some q =>
      let at_ := q.ring + 64 * (q.head % q.size)
      if q.error || q.closing || sub32 q.tail q.head == 0 || q.io != .queued then .next s
      else if !atsGrants s die q.pasid false at_ then .next (s.modQueue queue fun x => { x with io := .host at_ false false })
      else
        let s1 := enter s q.head q.ring q.size (some q.ctx)
        .next { s1 with queues := s1.queues.put queue { q with head := wrap32 (q.head + 1) } }

/-! ### Headers (R410, R411, R421) -/

def cmdNat (c : Cmd) (i n : Nat) : Nat := leNat ((c.bytes.drop i).take n)
def cmdInt (c : Cmd) (i : Nat) : Int := leInt ((c.bytes.drop i).take 8)
def cmdOp (c : Cmd) : Nat := cmdNat c 0 2
def cmdFence (c : Cmd) : Bool := (cmdNat c 3 1).testBit 1
def cmdInterrupt (c : Cmd) : Bool := (cmdNat c 3 1).testBit 0
def cmdStatus (c : Cmd) : Nat := cmdNat c 8 8

def userOp (op : Nat) : Bool := decide (op ≤ 7)
def adminOp (op : Nat) : Bool := decide (0x100 ≤ op) && decide (op ≤ 0x10D)

/-- Operand bytes that a command uses (R416, R417); the others are reserved. -/
def usedBytes (op : Nat) : List Nat :=
  let run (i n : Nat) : List Nat := (List.range n).map fun j => i + j
  match op with
  | 0x1 => run 24 8
  | 0x2 => run 24 10
  | 0x3 | 0x4 => run 24 2
  | 0x5 => run 24 4 ++ run 32 24
  | 0x6 | 0x7 => run 24 16
  | 0x100 | 0x101 => run 24 8
  | 0x102 => run 24 2
  | 0x103 => run 24 2 ++ run 32 8
  | 0x104 => run 24 4 ++ run 32 22
  | 0x105 => run 24 2
  | 0x106 => run 24 2 ++ run 32 16
  | 0x107 => run 24 5 ++ run 30 4
  | 0x108 => run 24 2
  | 0x109 => run 24 2 ++ run 32 16
  | 0x10A => run 24 1
  | 0x10B => run 24 2 ++ run 32 8
  | 0x10C => run 24 2 ++ run 32 24
  | 0x10D => run 24 2
  | _ => []

/-- What is wrong with a header: the status code that the command completes with at its start. -/
def headerFault (c : Cmd) : Option Nat :=
  let op := cmdOp c
  let named := cmdNat c 4 2
  let reserved := cmdNat c 3 1 / 4 != 0 || cmdNat c 6 2 != 0 || cmdNat c 16 8 != 0 || cmdStatus c % 8 != 0 ||
    (List.range 40).any fun i => !(usedBytes op).contains (24 + i) && cmdNat c (24 + i) 1 != 0
  if cmdNat c 2 1 ≠ 1 then some 1
  else if !userOp op && !adminOp op then some 5
  else if adminOp op && !isAdmin c.queue then some 6
  else if reserved || (if isAdmin c.queue && userOp op then decide (255 < named) else named != 0) then some 1
  else none

/-- Earlier commands of the same queue that the table still holds. -/
def earlier (s : State) (c : Cmd) : List Cmd :=
  (s.cmds.filter fun x => x.2.queue == c.queue && decide (sub32 c.index x.2.index < 2 ^ 31) && x.2.index != c.index).map
    Prod.snd

def cmdOver (c : Cmd) : Bool :=
  match c.phase with
  | .ended _ _ | .counted => true
  | _ => false

/-- May a command start (R410, R411, R416)? In ring order, after every earlier WAIT, and with the fence
flag after every earlier command. -/
def mayStart (s : State) (c : Cmd) : Bool :=
  let es := earlier s c
  c.phase == .fetched && (s.die c.die).bar.ready && (es.all fun e => e.phase != .fetched && (cmdOver e || cmdOp e != 6 || headerFault e != none)) &&
    (!cmdFence c || es.all cmdOver)

/-- The context that a user command acts for. -/
def actsFor (c : Cmd) : Nat := c.ctx.getD (256 * c.die + cmdNat c 4 2)

/-- The status that a user command ends with at its start because of its context: none for one that lives
or is halted by a fault. -/
def ctxFault (s : State) (c : Cmd) : Option Nat :=
  match s.contexts.get? (actsFor c) with
  | none => some 1
  | some x => if x.status = .lost ∨ x.status = .destroyed then some 3 else none

/-- Start a command of one opcode: its header is checked, and the body says what it does. A command that
has started already goes on with its body; one that has ended, or may not start, is left as it is. -/
def command (op cmd : Nat) (s : State) (body : Cmd → State → State) : Out :=
  match s.cmds.get? cmd with
  | none => .next s
  | some c =>
    if cmdOp c ≠ op then .next s
    else if c.phase = .started then .next (body c s)
    else if !mayStart s c then .next s
    else
      match (headerFault c).or (if userOp op then ctxFault s c else none) with
      | some code => .next (endCmd s (some cmd) code 0)
      | none =>
        let c' := { c with phase := .started, ctx := if userOp op then some (actsFor c) else none }
        .next (body c' { s with cmds := s.cmds.put cmd c' })

def ends (s : State) (cmd code result : Nat) : State := endCmd s (some cmd) code result

/-! ### Completions (R412, R413) -/

/-- The count of a queue's completed prefix, and what is left of its table entries. -/
def advanceDone (queue : Nat) : Nat → Nat → State × Nat × Bool → State × Nat × Bool
  | 0, _, r => r
  | fuel + 1, done, r =>
    match r.1.cmds.find? fun x => x.2.queue == queue && wrap32 x.2.index == wrap32 done && x.2.phase == .counted with
    | none => r
    | some x =>
      let s' := { r.1 with cmds := r.1.cmds.del x.1 }
      advanceDone queue fuel (done + 1) (s', done + 1, r.2.2 || cmdInterrupt x.2)

/-- A destroyed queue goes, with what is left of its entries: commands that have completed behind one that
was discarded (R417). -/
def closeQueue (s : State) (queue : Nat) : State :=
  { s with queues := s.queues.del queue, cmds := s.cmds.filter fun x => x.2.queue != queue }

/-- The host words that a command's completion writes: its status, then its queue's completion word (R412, R413). -/
def completionWords (s : State) (c : Cmd) : List Nat :=
  let a := cmdStatus c
  let word := if isAdmin c.queue then some (s.die c.die).bar.doneAddr else (s.queues.get? c.queue).map (·.doneAddr)
  (if a = 0 ∨ a % 8 ≠ 0 then [] else [a]) ++ word.toList

/-- The first of them that a user queue's PASID has no translation for (R373, R416). -/
def completionWants (s : State) (c : Cmd) : Option Nat :=
  if isAdmin c.queue then none
  else
    match s.queues.get? c.queue with
    | none => none
    | some q => (completionWords s c).find? fun a => !c.lost.contains a && !atsGrants s c.die q.pasid true a

/-- A queue's word rises to a count, and the vector is sent after it where asked; neither where it has no
translation (log 45). -/
def raiseDone (s : State) (c : Cmd) (addr vector done : Nat) (hit : Bool) : State :=
  if c.lost.contains addr then s
  else
    let s1 := writeHost s addr (leBytes 8 done)
    if hit then sendMsix s1 c.die vector else s1

/-- An ended command writes its status, and then the completion word rises over the completed prefix (R412 to R414). -/
def completeCmd (s : State) (cmd : Nat) (c : Cmd) (code result : Nat) : State :=
  let a := cmdStatus c
  let s1 := if a = 0 ∨ a % 8 ≠ 0 ∨ c.lost.contains a then s else writeHost s a (leBytes 8 (code + result * 2 ^ 32))
  let s2 := s1.modCmd cmd fun x => { x with phase := .counted }
  let n := s2.cmds.length
  if isAdmin c.queue then
    let b := (s2.die c.die).bar
    let (s3, done, hit) := advanceDone c.queue n b.done (s2, b.done, false)
    if done = b.done then s3
    else raiseDone (setBar s3 c.die fun x => { x with done }) c b.doneAddr (b.ctl / 256 % 2048) done (hit && b.ctl.testBit 1)
  else
    match s2.queues.get? c.queue with
    | none => { s2 with cmds := s2.cmds.del cmd }
    | some q =>
      let (s3, done, hit) := advanceDone c.queue n q.done (s2, q.done, false)
      if done = q.done then s3
      else raiseDone (s3.modQueue c.queue fun x => { x with done }) c q.doneAddr q.vector done hit

/-- COMMAND_COMPLETION: a command that ends at its start because of its header ends here at the latest; an ended one
writes its words, a user queue's through ATS and PRI (R416). -/
def execCommandCompletion (cmd : Nat) (s : State) : Out :=
  match s.cmds.get? cmd with
  | none => .next s
  | some c =>
    match c.phase with
    | .fetched =>
      match headerFault c with
      | some code => if mayStart s c then .next (ends s cmd code 0) else .next s
      | none => .next s
    | .ended code result =>
      if ioWaits s c.die then .next s
      else if ioDown s c.die then .next (completeCmd s cmd { c with lost := completionWords s c } code result)
      else
        match c.io, completionWants s c with
        | .host _ _ _, _ | .hostPri _ _, _ => .next s
        | _, some a => .next (s.modCmd cmd fun x => { x with io := .host a true false })
        | _, none => .next (completeCmd s cmd c code result)
    | _ => .next s

end Sys2Proof.Machine
end

