-- ==== Sys2Proof/Machine/Commands.lean ====
section
/-!
DEFINITION. The user commands of a queue (R416): NOP, LAUNCH, graphs, COPY, WAIT and SIGNAL, with what they
check (R36, R39, R343, R344) and when CODE_LOAD holds them back (R420).
-/
namespace Sys2Proof.Machine

/-! ### Addresses (R416) -/

/-- The device pointer that an address operand stands for: none outside trits 43:0. -/
def operandPtr (x : Int) : Option Int := if fits 44 x then some (devicePtr x) else none

/-- The 81 words of a launch record at a pointer aligned to 81 trytes (R339). -/
def recordAt (s : State) (ctx : Nat) (ptr : Int) : Option (List Int) :=
  if addrOf ptr % 81 ≠ 0 then none else (ctxWords s ctx ptr 81).toOption

/-- What the device reads as it takes a launch record and looks at its code segment (R344, R361). -/
def touchRecord (s : State) (ctx : Nat) (ptr : Int) : State :=
  let s1 := touchRun s ctx ptr 243
  match recordAt s ctx ptr with
  | some r => if recordOk 0 r || recordOk 1 r then touchPages s1 ctx (recPair r 1) (recWord r 3).toNat else s1
  | none => s1

/-- Can some cluster of a die hold a weave of a record when nothing else is there (R31, R344)? -/
def fitsDie (s : State) (die : Nat) (r : List Int) : Bool :=
  let tiles := (recTiles r).length
  let gs := List.replicate (recStrands r) (recGranules r)
  let room (core : Nat) : Room :=
    { core, used := 0, slots := Config.strandSlots, granules := poolOf s core, tiles := Config.tileStore }
  (List.range 16).any fun c =>
    decide (recWindow r ≤ Config.scratchWords) &&
      (placeOn ((enabledCores s (16 * die + c)).map room) gs tiles).isSome

/-- What a record's submission is refused with (R344): none where it is accepted. -/
def recordStatus (s : State) (ctx kind : Nat) (r : List Int) : Option Nat :=
  if !recordOk kind r || !codeExec s ctx (recPair r 1) (recWord r 3).toNat then some 1
  else if !fitsDie s (ctx / 256) r then some 2
  else none

/-! ### Held back by CODE_LOAD (R420) -/

def isCodeLoad (c : Cmd) : Bool := cmdOp c == 0x10C
def isRunning (c : Cmd) : Bool := c.phase == .started

/-- Does a started CODE_LOAD of the context hold back launches that start after it? -/
def codeHeld (s : State) (ctx : Nat) : Bool :=
  s.cmds.any fun x => isCodeLoad x.2 && isRunning x.2 && 256 * x.2.die + cmdNat x.2 24 2 == ctx

/-- Launches that start in one queue are accepted in that order (R411). -/
def firstTaken (s : State) (c : Cmd) : Bool :=
  (earlier s c).all fun e => !((cmdOp e == 1 || cmdOp e == 3) && isRunning e && !e.taken)

/-! ### NOP, LAUNCH -/

def execBqiNop (cmd : Nat) (s : State) : Out := command 0 cmd s fun _ s => ends s cmd 0 0

/-- Enter a launch (R350). -/
def enterLaunch (s : State) (l : Launch) : State :=
  let s1 := becomeReady s l.ctx
  trigger { s1 with launches := s1.launches.put s1.nextId { l with seq := s1.nextId }, nextId := s1.nextId + 1 } l.ctx

/-- LAUNCH: an address outside its range ends it at its start (R411); the record is read and checked as the launch is
accepted (R339); the command is open until every weave has ended. -/
def execLaunch (cmd : Nat) (s : State) : Out :=
  command 1 cmd s fun c s =>
    let ctx := actsFor c
    match operandPtr (cmdInt c 24) with
    | none => ends s cmd 1 0
    | some p =>
      if c.taken || codeHeld s ctx || !firstTaken s c then s
      else
        let s0 := touchRecord s ctx p
        match recordAt s ctx p with
        | none => ends s0 cmd 1 0
        | some r =>
          match recordStatus s ctx 0 r with
          | some code => ends s0 cmd code 0
          | none =>
            let s1 := capture s0 ctx ⟨.record, keyQueue c.queue, r.flatMap wordBytes⟩
            let g := recGrid r
            enterLaunch (s1.modCmd cmd fun x => { x with taken := true })
              { die := c.die, ctx, cmd := some cmd, recPtr := p, record := r, level := recLevel r, seq := 0,
                total := g.foldl (· * ·) 1 }

/-! ### Graphs (R36 to R40, R343) -/

/-- The pointers of a table of device pointer pairs: none where one is no device pointer. -/
def pairTable (s : State) (ctx : Nat) (ptr : Int) (n : Nat) : Option (List Int) := do
  let ws ← (ctxWords s ctx ptr (2 * n)).toOption
  (List.range n).mapM fun i =>
    let p := pairOf (ws.getD (2 * i) 0) (ws.getD (2 * i + 1) 0)
    if devicePair p then some p else none

/-- A node's successors by number: each the record of another node, of a higher pass (R36, R343). -/
def succNodes (s : State) (ctx : Nat) (ptrs : List Int) (recs : List (List Int)) (r : List Int) : Option (List Nat) := do
  let ps ← if recSuccs r = 0 then some [] else pairTable s ctx (recPair r 19) (recSuccs r)
  ps.mapM fun p => do
    let i ← ptrs.idxOf? p
    if recPass r < recPass (recs.getD i []) then some i else none

/-- The nodes of a graph, or the status that refuses it. -/
def buildNodes (s : State) (ctx : Nat) (ptrs : List Int) : Except Nat (List Node) := do
  let recs ← ptrs.mapM fun p => match recordAt s ctx p with
    | some r => Except.ok r
    | none => .error 1
  let bad := recs.filterMap (recordStatus s ctx 1)
  -- a node's window holds W records of its queue (R39)
  if bad.contains 1 ∨ recs.any (fun r => decide (recWindow r < recW r * recSize r)) then throw 1
  if !bad.isEmpty then throw 2
  let succs ← recs.mapM fun r => match succNodes s ctx ptrs recs r with
    | some x => Except.ok x
    | none => .error 1
  return (List.range ptrs.length).map fun i =>
    { recPtr := ptrs.getD i 0, record := recs.getD i [], succs := succs.getD i [],
      preds := (List.range ptrs.length).filter fun j => (succs.getD j []).contains i }

/-- What the device reads of a graph: its table, the nodes' records, and their tables of successors (R361). -/
def touchGraph (s : State) (ctx : Nat) (ptr : Int) (n : Nat) : State :=
  let s1 := touchRun s ctx ptr (6 * n)
  (((pairTable s ctx ptr n).getD []).eraseDups).foldl (fun s p =>
    let s2 := touchRecord s ctx p
    match recordAt s ctx p with
    | some r => if recSuccs r = 0 then s2 else touchRun s2 ctx (recPair r 19) (6 * recSuccs r)
    | none => s2) s1

def graphKey (die n : Nat) : Nat := 4096 * die + n

/-- GRAPH_CREATE: the lowest free graph number. A table that names one record address twice is refused with status 1: a
successor names its node by that address (DESIGN CHOICE, log 99). -/
def execGraphCreate (cmd : Nat) (s : State) : Out :=
  command 2 cmd s fun c s =>
    let ctx := actsFor c
    let n := cmdNat c 32 2
    if n = 0 ∨ 729 < n then ends s cmd 1 0
    else
      let s0 := ((operandPtr (cmdInt c 24)).map fun p => touchGraph s ctx p n).getD s
      match (operandPtr (cmdInt c 24)).bind fun p => pairTable s ctx p n with
      | none => ends s0 cmd 1 0
      | some ptrs =>
        if ptrs.eraseDups.length ≠ n then ends s0 cmd 1 0
        else
          match buildNodes s ctx ptrs with
          | .error code => ends s0 cmd code 0
          | .ok nodes =>
            match (List.range 4096).find? fun g => (s.graphs.get? (graphKey c.die g)).isNone with
            | none => ends s0 cmd 2 0
            | some g =>
              let s1 := nodes.foldl (fun s nd => capture s ctx ⟨.record, keyQueue c.queue, nd.record.flatMap wordBytes⟩) s0
              ends { s1 with graphs := s1.graphs.put (graphKey c.die g) { die := c.die, ctx, number := g, nodes } } cmd 0 g

/-- The graph of a command: its key, or the status. -/
def graphOf (s : State) (c : Cmd) : Except Nat (Nat × Graph) :=
  let n := cmdNat c 24 2
  match if n < 4096 then s.graphs.get? (graphKey c.die n) else none with
  | none => .error 1
  | some g => if g.ctx = actsFor c then .ok (graphKey c.die n, g) else .error 6

/-- Launch the nodes that have no predecessor, each over its grid (R416). -/
def startRun (s : State) (key : Nat) (cmd : Nat) (g : Graph) : State :=
  let root (nd : Node) : Bool := nd.preds.isEmpty
  let nodes := g.nodes.map fun nd =>
    { nd with complete := false, started := root nd, open_ := if root nd then 1 else 0 }
  let s1 := { s with graphs := s.graphs.put key { g with nodes, running := some cmd, failed := false } }
  (nodes.zipIdx.filter fun x => root x.1).foldl (fun s x =>
    enterLaunch s
      { die := g.die, ctx := g.ctx, cmd := none, graph := some (key, x.2), recPtr := x.1.recPtr, record := x.1.record,
        level := recLevel x.1.record, seq := 0, total := (recGrid x.1.record).foldl (· * ·) 1 }) s1

/-- GRAPH_RUN: a run of a running graph waits for it. -/
def execGraphRun (cmd : Nat) (s : State) : Out :=
  command 3 cmd s fun c s =>
    if 4096 ≤ cmdNat c 24 2 then ends s cmd 1 0
    else if c.taken || codeHeld s (actsFor c) || !firstTaken s c then s
    else
      match graphOf s c with
      | .error code => ends s cmd code 0
      | .ok (key, g) =>
        if g.running.isSome then s else startRun (s.modCmd cmd fun x => { x with taken := true }) key cmd g

/-- Does a started GRAPH_RUN of a graph still wait to begin its run (R416, R420)? -/
def runWaits (s : State) (c : Cmd) : Bool :=
  s.cmds.any fun x => cmdOp x.2 == 3 && isRunning x.2 && !x.2.taken && x.2.die == c.die && actsFor x.2 == actsFor c &&
    cmdNat x.2 24 2 == cmdNat c 24 2

/-- GRAPH_DESTROY: waits for any run, one that waits to begin among them, then frees the graph. -/
def execGraphDestroy (cmd : Nat) (s : State) : Out :=
  command 4 cmd s fun c s =>
    match graphOf s c with
    | .error code => ends s cmd code 0
    | .ok (key, g) => if g.running.isSome || runWaits s c then s else ends { s with graphs := s.graphs.del key } cmd 0 0

/-! ### COPY -/

/-- The element types in the order of their indices (R164). -/
def copyTypes : List EType := [.t1, .t3, .t9, .t27, .f9, .f27, .p]

structure CopyArgs where
  toHost : Bool
  kind : Kind
  type : EType
  host : Nat
  dev : Int
  count : Nat

/-- The operands of a COPY, where each lies in its range. The host address is aligned to an element of a
numeric kind (R98). -/
def copyArgs (c : Cmd) : Option CopyArgs := do
  let kind ← Enc.kinds[cmdNat c 25 1]?
  let type ← copyTypes[cmdNat c 26 1]?
  let dev ← operandPtr (cmdInt c 40)
  let host := cmdNat c 32 8
  if 1 < cmdNat c 24 1 ∨ cmdNat c 27 1 ≠ 0 ∨ !WF.kindType kind type ∨
      (kind ≠ .packed ∧ host % kindAlign kind type ≠ 0) then none
  else some { toHost := cmdNat c 24 1 == 1, kind, type, host, dev, count := cmdNat c 48 8 }

/-- The host bytes of element `e`: first byte and number. Kind .k is a stream. -/
def copyBytes (a : CopyArgs) (e : Nat) : Nat × Nat :=
  match a.kind with
  | .packed =>
    let (b, n) := streamSpan (9 * trytesOf a.type) e
    (a.host + b, n)
  | _ => let n := kindBytes a.kind a.type; (a.host + n * e, n)

/-- The home keys of element `e`. -/
def copyKeys (s : State) (ctx : Nat) (a : CopyArgs) (e : Nat) : Option (List (Nat × Bool)) :=
  let z := trytesOf a.type
  match checkPtr a.dev (z * (e : Int)) false z with
  | .error _ => none
  | .ok p =>
    match homeKeys s ctx (if a.toHost then .read else .write) p z with
    | .error _ => none
    | .ok ks =>
      let keys := ks.map Prod.fst
      if brokenAt s keys || cutOff s (ctx / 256) keys then none else some ks

/-- The walk of element `e`, and what a COPY to the host reads at its home (R361, R434). -/
def touchElem (s : State) (ctx : Nat) (a : CopyArgs) (e : Nat) : State :=
  match checkPtr a.dev (trytesOf a.type * (e : Int)) false (trytesOf a.type) with
  | .error _ => s
  | .ok p => if a.toHost then touchRun s ctx p (trytesOf a.type) else touchPages s ctx p (trytesOf a.type)

/-- One element of a COPY: the state after, with 1 for a range exception; none where it ends with status 1. The host
bytes that it read are captured all the same (R437). -/
def copyElem (s0 : State) (ctx : Nat) (a : CopyArgs) (e : Nat) : State × Option Nat :=
  let s := touchElem s0 ctx a e
  match copyKeys s0 ctx a e with
  | none => (s, none)
  | some ks =>
    let (h, n) := copyBytes a e
    let width := 9 * trytesOf a.type
    if a.toHost then
      let x := ofTrytes (readKeys s (ks.map Prod.fst))
      match a.kind with
      | .packed => (writeHost s h (streamPut width e (hostByte s h) x), some 0)
      | _ =>
        match toHost a.kind a.type x with
        | .ok bs => (writeHost s h bs, some 0)
        | .range bs => (writeHost s h bs, some 1)
        | .bad _ => (s, none)
    else
      let bs := hostBytes s h n
      let s1 := capture s ctx ⟨.element, e, bs⟩
      let put (x : Int) : State := writeKeys s1 ks (toTrytes ks.length x)
      match a.kind with
      | .packed =>
        match streamElem width e (e + 1 == a.count) bs with
        | some x => (put x, some 0)
        | none => (s1, none)
      | _ =>
        match fromHost a.kind a.type bs with
        | .ok x => (put x, some 0)
        | .range x => (put x, some 1)
        | .bad _ => (s1, none)

/-- Does element `e` wait for a retraining I/O link (R364, R392)? -/
def copyWaits (s : State) (ctx : Nat) (a : CopyArgs) (e : Nat) : Bool :=
  (copyKeys s ctx a e).any fun ks => tierWaits s (ks.map Prod.fst)

/-- The host byte of element `e` whose translation a user queue's COPY lacks (R416). -/
def copyWants (s : State) (c : Cmd) (a : CopyArgs) (e : Nat) : Option Nat :=
  if isAdmin c.queue then none
  else
    let p := cmdPasid s c
    let (h, n) := copyBytes a e
    if !atsGrants s c.die p a.toHost h then some h
    else if !atsGrants s c.die p a.toHost (h + n - 1) then some (h + n - 1) else none

/-- The elements of a COPY from where it stands, until one lacks a translation or ends it. -/
def copyRun (cmd ctx : Nat) (c : Cmd) (a : CopyArgs) : Nat → Nat → Nat → State → State
  | 0, e, hits, s => s.modCmd cmd fun x => { x with prog := e, hits }
  | fuel + 1, e, hits, s =>
    if a.count ≤ e then ends s cmd 0 (min hits (2 ^ 32 - 1))
    else
      match copyWants s c a e with
      | some h => s.modCmd cmd fun x => { x with prog := e, hits, io := .host h a.toHost false }
      | none =>
        if copyWaits s ctx a e then s.modCmd cmd fun x => { x with prog := e, hits }
        else
          match copyElem s ctx a e with
          | (s1, none) => ends s1 cmd 1 0
          | (s1, some n) => copyRun cmd ctx c a fuel (e + 1) (hits + n) s1

/-- COPY: converts as cpt does, in the saturating form; the result counts range exceptions. -/
def execCopy (cmd : Nat) (s : State) : Out :=
  command 5 cmd s fun c s =>
    match c.io, copyArgs c with
    | _, none => ends s cmd 1 0
    | .host _ _ _, _ | .hostPri _ _, _ => s
    | _, some a => if ioWaits s c.die then s else if ioDown s c.die then ends s cmd 1 0 else copyRun cmd (actsFor c) c a (a.count - c.prog + 1) c.prog c.hits s

/-! ### WAIT and SIGNAL -/

/-- The keys of a device word that a command names. -/
def wordKeys (s : State) (ctx : Nat) (want : Want) (x : Int) : Option (List (Nat × Bool)) := do
  let p ← operandPtr x
  if addrOf p % 3 ≠ 0 then none
  else
    match homeKeys s ctx want p 3 with
    | .error _ => none
    | .ok ks =>
      let keys := ks.map Prod.fst
      if brokenAt s keys || cutOff s (ctx / 256) keys then none else some ks

/-- What a command reads or walks for a device word (R361). -/
def touchWord (s : State) (ctx : Nat) (read : Bool) (x : Int) : State :=
  match operandPtr x with
  | none => s
  | some p => if read then touchRun s ctx p 3 else touchPages s ctx p 3

/-- WAIT: open until the word is at least v. -/
def execWait (cmd : Nat) (s : State) : Out :=
  command 6 cmd s fun c s =>
    let s1 := touchWord s (actsFor c) true (cmdInt c 24)
    match wordKeys s (actsFor c) .read (cmdInt c 24) with
    | none => ends s1 cmd 1 0
    | some ks =>
      let keys := ks.map Prod.fst
      if tierWaits s keys then s else if cmdInt c 32 ≤ ofTrytes (readKeys s keys) then ends s1 cmd 0 0 else s1

/-- SIGNAL: an operand outside its range ends it at its start (R411); a word of the value, once every earlier command
of the queue has completed. -/
def execSignal (cmd : Nat) (s : State) : Out :=
  command 7 cmd s fun c s =>
    if !fits 27 (cmdInt c 32) || (operandPtr (cmdInt c 24)).isNone then ends s cmd 1 0
    else if !(earlier s c).all cmdOver then s
    else
      let s1 := touchWord s (actsFor c) false (cmdInt c 24)
      match wordKeys s (actsFor c) .write (cmdInt c 24) with
      | none => ends s1 cmd 1 0
      | some ks =>
        if tierWaits s (ks.map Prod.fst) then s else ends (writeKeys s1 ks (toTrytes 3 (cmdInt c 32))) cmd 0 0

/-! ### Data from the host (R257, R283, R416) -/

/-- HOST_READ_COMPLETION: data for a lane of an ldh, for the next line of a copy from host space, or for a COPY. -/
def execHostReadCompletion (grp lane : Nat) (s : State) : Out :=
  match waiterOf s grp lane with
  | some (.acc a) =>
    match a.phase, a.kind with
    | .ready, .load =>
      let die := ((s.strands.get? a.strand).map fun st => dieOf st.core).getD 0
      let bs := hostBytes s a.addr.toNat a.size
      let s1 := { s with accs := s.accs.map fun b =>
        if b.group == grp && b.lane == lane then { b with phase := .done, result := bs.map fun (x : Nat) => (x : Int) }
        else b }
      if ioWaits s die then .next s
      else if ioDown s die then .next (finishHost (setAcc s a (.failed 7)) grp)
      else .next (thenReplay (finishHost s1 grp) (some a.strand))
    | _, _ => .next s
  | some (.op o) => if usesHost o && hostSide false o.va then execCopyLine grp s else .next s
  | some (.cmd c) =>
    if c.phase == .started && (copyArgs c).any fun a => !a.toHost then execCopy grp s else .next s
  | _ => .next s

end Sys2Proof.Machine
end

