-- ==== Sys2Proof/Machine/Admin.lean ====
section
/-!
DEFINITION. The admin commands (R398, R417 to R420): contexts, queues, exports and imports, pre-emption,
parameters, code.
-/
namespace Sys2Proof.Machine

/-- The context that an admin command's bytes 24 and 25 name. -/
def namedCtx (c : Cmd) : Nat := 256 * c.die + cmdNat c 24 2

/-- A context that an admin command may work on: the status where there is none. -/
def liveCtx (s : State) (c : Cmd) : Except Nat (Nat × Context) :=
  if 255 < cmdNat c 24 2 then .error 1
  else
    match s.contexts.get? (namedCtx c) with
    | none => .error 1
    | some x => if x.status = .lost ∨ x.status = .destroyed then .error 3 else .ok (namedCtx c, x)

/-! ### QUERY -/

/-- The 64-byte block: versions, enabled cores and slices, free queues. -/
def queryBlock (s : State) (die : Nat) : List Nat :=
  let queues := (s.queues.filter fun x => keyDie x.1 == die).length
  leBytes 8 1 ++ leBytes 8 1 ++ leBytes 8 (s.record.cores.getD die 0 % 2 ^ 64) ++
    leBytes 8 (s.record.slices.getD die 0 % 2 ^ 16) ++ leBytes 8 (1024 - queues) ++ List.replicate 24 0

def execQuery (cmd : Nat) (s : State) : Out :=
  command 0x100 cmd s fun c s => ends (writeHost s (cmdNat c 24 8) (queryBlock s c.die)) cmd 0 0

/-! ### Contexts (R418) -/

/-- The words of a descriptor, at a physical tryte address of the die (log 42): no context's tables map
it yet. -/
def descriptorWords (s : State) (die : Nat) (a : Int) : Option (List Int) :=
  if a < 0 then none
  else
    (List.range 27).mapM fun i =>
      let p := a.toNat + 3 * i
      let ks := (List.range 3).map fun j => memKey die (p + j)
      if backed s die p && backed s die (p + 2) && !brokenAt s ks then some (ofTrytes (readKeys s ks)) else none

/-- The trytes of a descriptor that the device reads (R361). -/
def descriptorKeys (s : State) (die : Nat) (a : Int) : List Nat :=
  if a < 0 then [] else ((List.range 81).map (a.toNat + ·)).filterMap fun p => if backed s die p then some (memKey die p) else none

/-- A context from its descriptor, where every field lies in its range. -/
def readContext (s : State) (ws : List Int) : Option Context :=
  let at_ (i : Nat) : Int := ws.getD i 0
  let stop := wordPair ws 18
  let handlers := wordPair ws 21
  let handles := wordPair ws 23
  if !devicePair stop || !inRange 27 (3 ^ 26) (at_ 20) || !(handlers == 0 || devicePair handlers) ||
      !devicePair handles || at_ 25 != 0 || at_ 26 != 0 then none
  else
    some { root := (List.range 9).map fun i => wordPair ws (2 * i), stopBase := stop, stopSize := (at_ 20).toNat,
           handlerTab := handlers, handleTab := handles, progress := s.cycle }

/-- The handler table's entries are empty or name records that keep R353. -/
def handlersOk (s : State) (die : Nat) (c : Context) : Bool :=
  c.handlerTab == 0 ||
    (List.range 729).all fun i =>
      match ctxPair s die c.root (c.handlerTab + 6 * (i : Int)) with
      | .error code => code != 7
      | .ok p =>
        p == 0 || (devicePair p &&
          (match (List.range 243).mapM fun (j : Nat) => localWalk s die c.root (p + (j : Int)) with
           | .ok ls => !brokenAt s (ls.map fun l => memKey die l.2) && handlerRecord ((chunks 3 81 (ls.map fun l => s.mem.get (memKey die l.2))).map ofTrytes)
           | .error _ => false))

/-- What the device reads as it looks at a handler table for CONTEXT_CREATE (R353, R361). -/
def touchHandlers (s : State) (die : Nat) (c : Context) : State :=
  if c.handlerTab == 0 then s
  else
    (List.range 729).foldl (fun s (i : Nat) =>
      let at_ : Int := c.handlerTab + 6 * (i : Int)
      let rec_ : List Nat := match ctxPair s die c.root at_ with
        | .ok p => if devicePair p then (List.range 243).flatMap fun (j : Nat) => tryteKeys s die c.root (p + (j : Int)) else []
        | .error _ => []
      touchReads s (pairKeys s die c.root at_ ++ rec_).eraseDups) s

/-- May a context number be given out: none has it, or a destroyed one whose queues are gone? -/
def ctxFree (s : State) (n : Nat) : Bool :=
  match s.contexts.get? n with
  | none => true
  | some c => c.status == .destroyed && !(s.queues.any fun x => x.2.ctx == n)

/-- CONTEXT_CREATE: the lowest free number. -/
def execContextCreate (cmd : Nat) (s : State) : Out :=
  command 0x101 cmd s fun c s =>
    let s0 := touchReads s (descriptorKeys s c.die (cmdInt c 24))
    match (descriptorWords s c.die (cmdInt c 24)).bind (readContext s) with
    | none => ends s0 cmd 1 0
    | some x =>
      let s1 := touchHandlers s0 c.die x
      if !handlersOk s c.die x then ends s1 cmd 1 0
      else
        match (List.range 256).find? fun n => ctxFree s (256 * c.die + n) with
        | none => ends s1 cmd 2 0
        | some n => ends { s1 with contexts := s1.contexts.put (256 * c.die + n) x } cmd 0 n

/-- A context's lines leave every instruction cache of its die, and their pins are dropped (R246, R420). -/
def dropCode (s : State) (ctx : Nat) : State :=
  { s with cores := s.cores.map fun (x : Nat × Core) =>
      (x.1, { x.2 with icache := x.2.icache.filter fun l => l.ctx != ctx, pins := x.2.pins.filter fun p => p.1 != ctx }) }

/-- What else goes with a destroyed context, whose number may be given out again: its exports, its code lines and its
TLB entries. -/
def forgetCtx (s : State) (ctx : Nat) : State :=
  let s1 := s.modDie (ctx / 256) fun d => { d with exports := d.exports.filter fun x => x.2.1 != ctx }
  dropTlb (dropCode s1 ctx) ctx (devicePtr (-half 44)) (devicePtr (half 44))

def destroyCtx (s : State) (ctx : Nat) : State := forgetCtx (loseContext s ctx .destroyed false) ctx

/-- CONTEXT_DESTROY: its open commands end with status 3, and no event is posted. -/
def execContextDestroy (cmd : Nat) (s : State) : Out :=
  command 0x102 cmd s fun c s =>
    if 255 < cmdNat c 24 2 ∨ (s.contexts.get? (namedCtx c)).all (fun x => x.status == .destroyed) then ends s cmd 1 0
    else ends (destroyCtx s (namedCtx c)) cmd 0 0

/-- Total words that the summary at a device address gives for an image (R325). -/
def imageWords (s : State) (ctx : Nat) (p : Int) : Option Nat :=
  (ctxWords s ctx p 27).toOption.map fun ws => (ws.getD 4 0).toNat

/-- CONTEXT_RESUME: a context halted by a fault becomes ready again, from its own stop area or from an image
at an address; the command waits for a halt that still runs. An image that the context did not itself write there has its
records and nothing beside them (R336, log 12). An address that is no device pointer is refused at once (R411). -/
def execContextResume (cmd : Nat) (s : State) : Out :=
  command 0x103 cmd s fun c s =>
    match liveCtx s c with
    | .error code => ends s cmd code 0
    | .ok (ctx, x) =>
      let a := cmdInt c 32
      let image := operandPtr a
      if a ≠ 0 ∧ image.isNone then ends s cmd 1 0
      else if x.status = .alive then ends s cmd (if x.images.isEmpty && x.stored.isEmpty then 1 else 0) 0
      else if (partsOf s ctx).any fun p => halting (s.part c.die p) then s
      else
        let s0 := match image with
          | some p => if a = 0 then s else touchRun s ctx p 81
          | none => s
        let go (images : List ImageRef) : State :=
          let s1 := s0.modCtx ctx fun y =>
            { y with status := .alive, fault := none, faultStrand := none, faultOp := none, images,
                     waitSince := s.cycle }
          ends (trigger s1 ctx) cmd 0 0
        if a = 0 then go x.images
        else
          match image.bind fun p => (imageWords s ctx p).map fun n => (p, n) with
          | none => ends s0 cmd 1 0
          | some (p, n) =>
            let own := x.images.find? fun r => match r with | .area b _ _ => b == p | .shadow _ => false
            go ((x.images.filter fun r => match r with | .shadow _ => true | .area .. => false) ++ [own.getD (.area p n [])])

/-- CONTEXT_SPILL: the context halts with reason 2 on every partition it holds, and its images go to its stop
area; open until they are there. -/
def execContextSpill (cmd : Nat) (s : State) : Out :=
  command 0x10D cmd s fun c s =>
    match liveCtx s c with
    | .error code => ends s cmd code 0
    | .ok (ctx, _) =>
      let parts := partsOf s ctx
      if !c.taken then
        parts.foldl (fun s p => if halting (s.part c.die p) then s else beginHalt s c.die p 4 none)
          (s.modCmd cmd fun x => { x with taken := true })
      else if parts.any fun p => halting (s.part c.die p) then s
      else
        let s1 := (List.range 3).foldl (fun s p =>
          if (s.part c.die p).shadow.any fun im => im.ctx == ctx then (spillShadow s c.die p).1 else s) s
        ends s1 cmd (if (s1.contexts.get? ctx).any (fun x => x.status == .lost) then 3 else 0) 0

/-! ### Queues -/

/-- QUEUE_CREATE: every queue of a context binds one PASID. -/
def execQueueCreate (cmd : Nat) (s : State) : Out :=
  command 0x104 cmd s fun c s =>
    match liveCtx s c with
    | .error code => ends s cmd code 0
    | .ok (ctx, x) =>
      let log := cmdNat c 26 2
      let ring := cmdNat c 32 8
      let doneAddr := cmdNat c 40 8
      let pasid := cmdNat c 48 4
      let vector := cmdNat c 52 2
      if log < 6 ∨ 16 < log ∨ ring % 64 ≠ 0 ∨ doneAddr % 8 ≠ 0 ∨ 2 ^ 20 ≤ pasid ∨ 2048 ≤ vector ∨
          x.pasid.any (· != pasid) then ends s cmd 1 0
      else
        match (List.range 1024).find? fun q => (s.queues.get? (queueKey c.die q)).isNone with
        | none => ends s cmd 2 0
        | some q =>
          let y : Queue := { ctx, size := 2 ^ log, ring, doneAddr, pasid, vector }
          let s1 := { s with queues := s.queues.put (queueKey c.die q) y }
          ends (s1.modCtx ctx fun z => { z with pasid := some pasid }) cmd 0 q

/-- QUEUE_DESTROY: started commands run to their end, the others are discarded. The command completes once
none is open. -/
def execQueueDestroy (cmd : Nat) (s : State) : Out :=
  command 0x105 cmd s fun c s =>
    let q := cmdNat c 24 2
    let key := queueKey c.die q
    match if q < 1024 then s.queues.get? key else none with
    | none => ends s cmd 1 0
    | some x =>
      let s1 := { s with queues := s.queues.put key { x with closing := true }
                         cmds := s.cmds.filter fun y => !(y.2.queue == key && y.2.phase == .fetched) }
      let open_ := s1.cmds.any fun y => y.2.queue == key && y.2.phase != .counted
      if open_ then s1 else ends (closeQueue s1 key) cmd 0 0

/-! ### Exports and handles (R398, R400) -/

/-- EXPORT: of the die's free indexes it takes the lowest (DESIGN CHOICE, log 97). -/
def execExportMem (cmd : Nat) (s : State) : Out :=
  command 0x106 cmd s fun c s =>
    match liveCtx s c with
    | .error code => ends s cmd code 0
    | .ok (ctx, _) =>
      let pages := cmdNat c 40 8
      match operandPtr (cmdInt c 32) with
      | none => ends s cmd 1 0
      | some base =>
        if pages = 0 ∨ (3 ^ 30 - 1) / 2 < pages ∨ !fits 44 (addrOf base + pages * 3 ^ 10 - 1) then ends s cmd 1 0
        else
          match (List.range 6561).find? fun i => ((s.die c.die).exports.get? i).isNone with
          | none => ends s cmd 2 0
          | some i => ends (s.modDie c.die fun d => { d with exports := d.exports.put i (ctx, base, pages) }) cmd 0 i

/-- Write trytes of a context's device space by the BQI itself: to the context's own pages, writable for programs or
not, but to no executable one (R158, R398), and to no line that cannot be read to be written (R366). -/
def bqiWrite (s : State) (ctx : Nat) (p : Int) (xs : List Int) : Option State := do
  let c ← s.contexts.get? ctx
  let ks ← (List.range xs.length).mapM fun (i : Nat) =>
    match localWalk s (ctx / 256) c.root (p + (i : Int)) with
    | .ok (l, q) => if l.peer || l.x then none else some (memKey (ctx / 256) q, l.comp)
    | .error _ => none
  if brokenAt s (ks.map Prod.fst) then none
  else some (writeKeys (touchReads s (ptrKeys s (ctx / 256) c.root p ++ ptrKeys s (ctx / 256) c.root (p + (xs.length : Int) - 1)).eraseDups) ks xs)

/-- An imported-handle entry (R398). -/
def handleEntry (kind owner : Nat) (r w : Bool) (exp pages : Nat) : Int :=
  ((kind : Int) - 13) * 3 ^ 51 + ((owner : Int) - 13) * 3 ^ 48 + (if r then 3 ^ 47 else 0) + (if w then 3 ^ 46 else 0) +
    ((exp : Int) - 3280) * 3 ^ 38 + (pages : Int) * 3 ^ 8

/-- IMPORT: writes an entry of the context's imported-handle table, its pages those of the owner's export. -/
def execImportHandle (cmd : Nat) (s : State) : Out :=
  command 0x107 cmd s fun c s =>
    match liveCtx s c with
    | .error code => ends s cmd code 0
    | .ok (ctx, x) =>
      let kind := cmdNat c 26 1
      let owner := cmdNat c 27 1
      let rights := cmdNat c 28 1
      let exp := cmdNat c 30 2
      let handle := cmdNat c 32 2
      if (kind ≠ 1 ∧ kind ≠ 2) ∨ 7 < owner ∨ 3 < rights ∨ 6560 < exp ∨ 6560 < handle then ends s cmd 1 0
      else
        match (s.die owner).exports.get? exp with
        | none => ends s cmd 1 0
        | some (_, _, pages) =>
          if kind = 1 ∧ (pages < 1 ∨ (3 ^ 30 - 1) / 2 < pages) then ends s cmd 1 0
          else
            let e := if kind = 1 then handleEntry 1 owner (rights.testBit 0) (rights.testBit 1) exp pages
              else handleEntry 2 owner false false exp 0
            match bqiWrite s ctx (x.handleTab + 6 * (handle : Int)) (toTrytes 6 e) with
            | none => ends s cmd 1 0
            | some s1 => ends s1 cmd 0 0

/-- REVOKE: later accesses fault; one in the tracker completes (R405). -/
def execRevoke (cmd : Nat) (s : State) : Out :=
  command 0x108 cmd s fun c s =>
    let i := cmdNat c 24 2
    if ((s.die c.die).exports.get? i).isNone then ends s cmd 1 0
    else ends (s.modDie c.die fun d => { d with exports := d.exports.del i }) cmd 0 0

/-- INVALIDATE: the context's entries of the pages that the range meets leave every TLB of the die, and with none left
the command completes (R372, R427). A count of 0 stands for all of them. -/
def execInvalidate (cmd : Nat) (s : State) : Out :=
  command 0x109 cmd s fun c s =>
    match liveCtx s c with
    | .error code => ends s cmd code 0
    | .ok (ctx, _) =>
      let n : Int := (cmdNat c 40 8 : Nat)
      match operandPtr (cmdInt c 32) with
      | none => ends s cmd 1 0
      | some p =>
        if n = 0 then ends (dropTlb s ctx (devicePtr (-half 44)) (devicePtr (half 44))) cmd 0 0
        else if !fits 44 (addrOf p + n - 1) then ends s cmd 1 0
        else ends (dropTlb s ctx p (p + n - 1)) cmd 0 0

/-! ### Pre-emption (R330, R349) -/

/-- The held partitions that a mask names: while the whole die is held, either bit names it. -/
def maskParts (s : State) (die mask : Nat) : List Nat :=
  let held (p : Nat) : Bool := (s.part die p).phase != .free
  ([0, 1].filter fun p => mask.testBit p && held p) ++ (if held 2 && mask != 0 then [2] else [])

/-- PREEMPT: completes when the partitions it names are free. -/
def execPreempt (cmd : Nat) (s : State) : Out :=
  command 0x10A cmd s fun c s =>
    let mask := cmdNat c 24 1
    if 3 < mask then ends s cmd 1 0
    else if c.taken then s
    else
      let ps := maskParts s c.die mask
      if ps.isEmpty then ends s cmd 0 0
      else
        let s1 := ps.foldl (fun s p => s.modPart c.die p fun x => { x with waiters := x.waiters ++ [cmd] }) s
        let s2 := s1.modCmd cmd fun x => { x with taken := true }
        ps.foldl (fun s p => preempt s c.die p) s2

/-! ### SET (R419) -/

/-- A SET command of one parameter. -/
def setParam (n cmd : Nat) (s : State) (lo hi : Nat) (f : Cmd → Nat → State → State) : Out :=
  match s.cmds.get? cmd with
  | none => .next s
  | some x =>
    if cmdOp x = 0x10B ∧ cmdNat x 24 2 ≠ n ∧ 1 ≤ cmdNat x 24 2 ∧ cmdNat x 24 2 ≤ 7 then .next s
    else
      command 0x10B cmd s fun c s =>
        let v := cmdNat c 32 8
        if cmdNat c 24 2 ≠ n ∨ v < lo ∨ hi < v then ends s cmd 1 0 else f c v s

def execSetPartitionMode (cmd : Nat) (s : State) : Out :=
  setParam 1 cmd s 0 1 fun c v s => ends (s.modDie c.die fun d => { d with wholeDie := v == 1 }) cmd 0 0

/-- Bits 63:48 name the context, and bits 47:0 give the period in µs, 0 to disable. -/
def execSetContextWatchdog (cmd : Nat) (s : State) : Out :=
  setParam 2 cmd s 0 (2 ^ 64 - 1) fun c v s =>
    let ctx := v / 2 ^ 48
    let t := v % 2 ^ 48
    let key := 256 * c.die + ctx
    if 81000000 < t ∨ 255 < ctx ∨ (s.contexts.get? key).isNone then ends s cmd 1 0
    else ends (s.modCtx key fun x => { x with watchdog := if t = 0 then none else some (us t) }) cmd 0 0

def execSetDrainDeadline (cmd : Nat) (s : State) : Out :=
  setParam 3 cmd s 0 81000000 fun c v s => ends (s.modDie c.die fun d => { d with drainUs := v }) cmd 0 0
def execSetSwapDeadline (cmd : Nat) (s : State) : Out :=
  setParam 4 cmd s 20 81000000 fun c v s => ends (s.modDie c.die fun d => { d with swapUs := v }) cmd 0 0
def execSetQuantum (cmd : Nat) (s : State) : Out :=
  setParam 5 cmd s 1 81000000 fun c v s => ends (s.modDie c.die fun d => { d with quantumUs := v }) cmd 0 0

/-- A change that would remove slots now held waits until they are freed. -/
def execSetHandlerSlots (cmd : Nat) (s : State) : Out :=
  setParam 6 cmd s 0 9 fun c v s =>
    if (List.range 16).any fun k => decide (v < handlersOn s (16 * c.die + k)) then s
    else ends (s.modDie c.die fun d => { d with handlers := v }) cmd 0 0

/-- A change of the budget holds from each core's next window (R354). -/
def execSetMatrixBudget (cmd : Nat) (s : State) : Out :=
  setParam 7 cmd s 1 81 fun c v s => ends ((rollDie s c.die).modDie c.die fun d => { d with budget := v }) cmd 0 0

/-! ### CODE_LOAD (R420) -/

/-- Has a context nothing resident, in dispatch or to be resumed? -/
def ctxQuiet (s : State) (ctx : Nat) (c : Context) : Bool :=
  !(s.weaves.any fun x => x.2.ctx == ctx) && !(s.launches.any fun x => x.2.ctx == ctx) &&
    !(s.graphs.any fun x => x.2.ctx == ctx && x.2.running.isSome) && c.images.isEmpty && c.stored.isEmpty

/-- The home keys of a code range, all of it executable and the context's own. -/
def codeKeys (s : State) (ctx : Nat) (p : Int) (n : Nat) : Option (List (Nat × Bool)) :=
  (List.range n).mapM fun (i : Nat) =>
    match translate s ctx .exec (p + (i : Int)) with
    | .ok (.home k comp) => some (k, comp)
    | _ => none

/-- CODE_LOAD: an operand outside its range ends it at its start (R411); then it waits for the context's weaves, writes
the code, and drops the old lines (R420). -/
def execCodeLoad (cmd : Nat) (s : State) : Out :=
  command 0x10C cmd s fun c s =>
    match liveCtx s c with
    | .error code => ends s cmd code 0
    | .ok (ctx, x) =>
      let n := cmdNat c 48 8
      match operandPtr (cmdInt c 40) with
      | none => ends s cmd 1 0
      | some p =>
        if !fits 44 (addrOf p + n - 1) then ends s cmd 1 0
        else if !ctxQuiet s ctx x then s
        else
          let bytes := hostBytes s (cmdNat c 32 8) (streamLength n)
          let s0 := touchPages (capture s ctx ⟨.code, keyQueue c.queue, bytes⟩) ctx p n
          match codeKeys s ctx p n, streamTrytes n bytes with
          | some ks, .ok xs =>
            -- a line that cannot be read to be written (R366)
            if brokenAt s (ks.map Prod.fst) then ends s0 cmd 1 0 else ends (dropCode (writeKeys s0 ks xs) ctx) cmd 0 0
          | _, _ => ends s0 cmd 1 0

end Sys2Proof.Machine
end

