-- ==== Sys2Proof/Machine/Control.lean ====
section
/-!
DEFINITION. Control transfers, nop, yield, sleep, barriers, grow and shrink, and the instructions that
raise and leave traps (R232 to R238, R241, R242, R245).
-/
namespace Sys2Proof.Machine

/-! ### Control transfers (R232, R233) -/

/-- Every active lane takes a target, which its pick's end gives to its PC (R25). -/
def jumpTo (st : Strand) (act : List Nat) (target : Nat → Int) : Strand :=
  st.modThreads act fun l t => { t with jump := some (target l) }

/-- A target that is no multiple of 3, in the lowest lane that has one (R233). -/
def badTarget (act : List Nat) (target : Nat → Int) : Option FaultInfo :=
  (act.find? fun l => target l % 3 != 0).map fun l => { code := 4, lane := l, addr := some (target l) }

/-- A branch to the header plus three times the offset. -/
def branchWord (i : Instr) (off : Int) (s : State) : Out :=
  strandWord i s fun w => .ok (jumpTo w.st w.act fun _ => w.header + 3 * off)
/-- A call: the fall-through address goes to the link register. -/
def callWord (i : Instr) (d : Nat) (off : Int) (s : State) : Out :=
  strandWord i s fun w =>
    let link := (w.st.pick.map fallThrough).getD 0
    .ok (jumpTo (w.st.modThreads w.act fun _ t => t.vput d link) w.act fun _ => w.header + 3 * off)
/-- A transfer to the address in a vector register. -/
def registerJump (i : Instr) (a : Nat) (s : State) : Out :=
  strandWord i s fun w =>
    let target (l : Nat) := (w.st.thread l).vget a
    match badTarget w.act target with
    | some f => .error f
    | none => .ok (jumpTo w.st w.act target)

def execBrI (g : Guard) (off : Int) (s : State) : Out := branchWord (.brI g off) off s
def execBrL (g : Guard) (off : Int) (s : State) : Out := branchWord (.brL g off) off s
def execCallI (g : Guard) (d : Nat) (off : Int) (s : State) : Out := callWord (.callI g d off) d off s
def execCallL (g : Guard) (d : Nat) (off : Int) (s : State) : Out := callWord (.callL g d off) d off s
def execBrx (g : Guard) (a : Nat) (s : State) : Out := registerJump (.brx g a) a s
def execRet (g : Guard) (a : Nat) (s : State) : Out := registerJump (.ret g a) a s

/-- exit (R22, R232): the threads leave the pick, resting before the word, and end once every flag of
the strand is clear. -/
def execExit (g : Guard) (s : State) : Out :=
  issue (.exit g) s fun w =>
    let st := leavePick w.st w.act w.pos fun _ t => { t with status := .exiting, jump := none }
    .ok (finishExits (w.s.setStrand w.k st) w.k)

/-! ### nop, yield, sleep (R234) -/

def execNop (g : Guard) (s : State) : Out := issue (.nop g) s fun w => .ok w.s

def execYield (g : Guard) (s : State) : Out :=
  strandWord (.yield g) s fun w => .ok { w.st with pick := w.st.pick.map fun p => { p with yield := true } }

def execSleep (g : Guard) (b : Nat) (s : State) : Out :=
  issue (.sleep g b) s fun w =>
    let k := w.st.sget b
    if k ≤ 0 then .ok w.s
    else
      let until_ := (counter w.s w.st.core + k).toNat
      .ok (w.s.setStrand w.k (leavePick w.st w.act (w.pos + 1) fun _ t => { t with status := .asleep until_ }))

/-! ### Barriers (R235 to R237) -/

/-- The check of R236, lane by lane in ascending order: none where no lane faults. -/
def barrierFault (w : Word_) (wv : Weave) (n : Nat) (k : Int) : Option FaultInfo :=
  let bad (l : Nat) : Bool :=
    (w.st.thread l).marks.contains n || decide (k < 0) || decide ((wv.nstrands : Int) < k) ||
      (match (wv.barrier n).expected with
       | some e => decide ((e : Int) ≠ k)
       | none => false)
  (w.act.find? bad).map fun l => { code := 11, lane := l }

/-- bar and bara (R236): mark the lanes, block them for bar, count the strand's arrival. -/
def barrierWord (i : Instr) (block : Bool) (n b : Nat) (s : State) : Out :=
  issue i s fun w =>
    let wv := w.s.weaveOf w.st
    let k := w.st.sget b
    match barrierFault w wv n k with
    | some f => .error f
    | none =>
      let before := arrivalTrit w.st n
      let st1 := w.st.modThreads w.act fun _ t => { t with marks := t.marks ++ [n] }
      let st2 := if block then leavePick st1 w.act (w.pos + 1) fun _ t => { t with status := .bar n } else st1
      let s1 := (w.s.setStrand w.k st2).modWeave w.st.weave fun wv =>
        wv.setBarrier n { wv.barrier n with expected := some k.toNat }
      .ok (allocate (arrive s1 w.st.weave w.k n before) w.st.core)

def execBar (g : Guard) (n b : Nat) (s : State) : Out := barrierWord (.bar g n b) true n b s
def execBara (g : Guard) (n b : Nat) (s : State) : Out := barrierWord (.bara g n b) false n b s

/-- barw (R237): the lanes marked on the barrier wait, the others go on. -/
def execBarw (g : Guard) (n : Nat) (s : State) : Out :=
  issue (.barw g n) s fun w =>
    let marked := w.act.filter fun l => (w.st.thread l).marks.contains n
    let st := leavePick w.st marked (w.pos + 1) fun _ t => { t with status := .barw n }
    .ok (allocate (w.s.setStrand w.k st) w.st.core)

/-! ### Allocation (R41 to R45, R241) -/

/-- grow: status -1 at once beyond 27 granules; granted at once where nothing waits before it and it
fits; otherwise queued (R42, R43). -/
def execGrow (g : Guard) (c n : Nat) (s : State) : Out :=
  issueDid (.grow g c n) s fun w =>
    if 27 < w.st.granules + n then .done (w.s.setStrand w.k (condLanes w.st w.act c { sign := -1 }))
    else
      if (w.s.core w.st.core).growQ.isEmpty && fitsGrow w.s w.st n then
        .done (w.s.setStrand w.k (condLanes (w.st.granted (w.st.granules + n)) w.act c { sign := 1 }))
      else
        let st := leavePick w.st w.act (w.pos + 1) fun _ t => { t with status := .inGrow }
        let s1 := w.s.setStrand w.k st
        let s2 := s1.modCore w.st.core fun x => { x with growQ := x.growQ ++ [⟨w.k, n, c, w.act⟩] }
        .done (allocate s2 w.st.core)

/-- Does a waitw of the strand still write a register from number `n` on (R155, R270)? -/
def pendingWrite (st : Strand) (n : Nat) : Bool :=
  st.threads.any fun t => match t.status with
    | .waiting w => decide (n ≤ w.dest)
    | _ => false

/-- shrink (R43, R241): never below one granule, and not before the writes to the removed registers are made;
what these held is lost. -/
def execShrink (g : Guard) (n : Nat) (s : State) : Out :=
  issueDid (.shrink g n) s fun w =>
    let left := max 1 (w.st.granules - n)
    if pendingWrite w.st (9 * left) then .stay w.s
    else
      let st := { w.st.dropBad (9 * left) with
        granules := left, threads := w.st.threads.map fun t => { t with v := t.v.clear (9 * left) 243 } }
      .done (allocate (w.s.setStrand w.k st) w.st.core)

/-! ### Traps (R242, R245) -/

/-- trap: kind 2 with its code as detail. Behind the global trit it is the nested-trap fault. Lanes
whose delivery a grow holds back wait for it (R238). -/
def execTrap (g : Guard) (code : Int) (s : State) : Out :=
  strandWord (.trap g code) s fun w =>
    if w.st.mask.global then .error { code := 14, lane := w.act.headD 0 }
    else
      let st := raiseTrap w.st (causeWord 2 code) w.act
      if st.threads.any (·.status == .inGrow) then
        .ok (st.modThreads w.act fun _ t => { t with awaits := true })
      else .ok st

def execBrk (g : Guard) (s : State) : Out :=
  strandWord (.brk g) s fun w =>
    if w.st.mask.brk && !w.st.mask.global then .ok (raiseTrap w.st (causeWord 5 0) w.act) else .ok w.st

/-- tret (R245): the lanes wait until no thread of the handler is still in it, and then return. -/
def execTret (g : Guard) (set : Option Nat) (s : State) : Out :=
  issue (.tret g set) s fun w =>
    let saved (l : Nat) : Int := match set with
      | some a => (w.st.thread l).vget a
      | none => (w.st.thread l).savedPc
    if causeKind w.st.cause = 0 then .error { code := 3, lane := w.act.headD 0 }
    else
      match badTarget w.act saved with
      | some f => .error f
      | none =>
        let st1 := w.st.modThreads w.act fun l t =>
          { t with savedPc := saved l, savedPos := if set.isSome then 0 else t.savedPos }
        let st2 := leavePick st1 w.act (w.pos + 1) fun _ t => { t with status := .inTret }
        .ok (allocate (w.s.setStrand w.k (leaveHandler st2)) w.st.core)

end Sys2Proof.Machine
end

