-- ==== Sys2Proof/Machine/Manage.lean ====
section
/-!
DEFINITION. Bring-up, power, resets, the management interface, attestation and capture (R413, R428 to R437).
-/
namespace Sys2Proof.Machine

/-! ### The configuration record (R430) -/

/-- A record from its bytes. -/
def readRecord (bs : List Nat) : ConfigRecord :=
  let at_ (i n : Nat) : Nat := leNat ((bs.drop i).take n)
  let each (i n : Nat) : List Nat := (List.range 8).map fun d => at_ (i + n * d) n
  { magic := at_ 0 4, rollback := at_ 4 4, serial := at_ 8 8, cores := each 16 8, slices := each 80 2,
    reserve := each 96 4, routing := at_ 128 1, reserved := at_ 129 7, captureArea := at_ 136 8,
    shares := each 144 8, ownerDigest := at_ 208 48, signatures := bs.drop 256 }

/-- Bytes 0 to 255 of a record, which its signatures cover. -/
def recordBytes (r : ConfigRecord) : List Nat :=
  leBytes 4 r.magic ++ leBytes 4 r.rollback ++ leBytes 8 r.serial ++ r.cores.flatMap (leBytes 8) ++
    r.slices.flatMap (leBytes 2) ++ r.reserve.flatMap (leBytes 4) ++ leBytes 1 r.routing ++ leBytes 7 r.reserved ++
    leBytes 8 r.captureArea ++ r.shares.flatMap (leBytes 8) ++ leBytes 48 r.ownerDigest

/-- Does every field of a record hold one of its values? -/
def recordRanges (r : ConfigRecord) : Bool :=
  r.magic == 0x52474643 && r.reserved == 0 && decide (r.routing ≤ 1) &&
    (r.cores.all fun m => decide (60 ≤ ((List.range 64).filter fun i => m.testBit i).length)) &&
    r.reserve.all fun v => decide (v ≤ 531441)

/-- Do a record's shares and capture area fit the second tier? -/
def recordFits (r : ConfigRecord) : Bool :=
  let area := (r.captureArea + 159) / 160
  decide (r.shares.sum + area ≤ Config.secondTierLines)

/-- Do both signatures of a record verify, and is its rollback value at least a counter? -/
def recordTrusted (counter : Nat) (r : ConfigRecord) : Bool :=
  Config.recordVerifies (recordBytes r) r.signatures && decide (counter ≤ r.rollback)

/-- Does the root of trust accept the record that a bring-up finds (R430)? The record that the module is built with verifies,
for a module at reset has been brought up with it (DESIGN CHOICE, log 89). -/
def recordAccepted (s : State) (r : ConfigRecord) : Bool :=
  recordTrusted s.mgmt.counter r ||
    (s.mgmt.staged.isNone && r == Config.factoryRecord && decide (s.mgmt.counter ≤ r.rollback))

/-! ### Reset (R428, R429) -/

/-- What a bring-up that stopped leaves: nothing runs, and the ready bits are 0. -/
def notReady (s : State) : State :=
  { s with dies := s.dies.map fun d => { d with bar := { d.bar with ready := false } } }

/-- What a reset leaves that stopped before step 6 cleared anything: memories, registers and spans stand as they
were, and nothing runs (log 50). -/
def uncleared (s : State) : State :=
  { State.reset with
    mem := s.mem
    clusters := s.clusters.map fun (x : Nat × Cluster) => (x.1, { scratch := x.2.scratch, bad := x.2.bad })
    dies := s.dies.map fun d =>
      { d with parts := List.replicate 3 {}, exports := [], tracker := {}, ats := [], invals := [] } }

/-- MODULE_RESET: bring-up step by step, stopping at the step that fails, 0 for none. A staged record is in
force from here; its acceptance raises the counter (R430). What the management controller and the host hold
beyond the module stays. -/
def execModuleReset (failsAt : Nat) (s : State) : Out :=
  let r := s.mgmt.staged.getD s.record
  let bad := !recordFits r || !recordAccepted s r
  let stop := if bad then (if failsAt = 1 ∨ failsAt = 2 then failsAt else 3) else failsAt
  let base : State :=
    { (if 1 ≤ stop ∧ stop ≤ 5 then uncleared s else State.reset) with
      host := s.host, msix := s.msix, agenda := s.agenda, cursor := s.cursor, free := s.free }
  let counter := if stop = 0 ∨ 3 < stop then max s.mgmt.counter r.rollback else s.mgmt.counter
  if stop = 0 ∨ 7 < stop then .next { base with record := r, mgmt := { counter } }
  else
    let record := if stop ≤ 3 then s.record else r
    .next (notReady { base with record, mgmt := { counter, step := stop - 1, staged := if stop ≤ 3 then s.mgmt.staged else none } })

/-- The ended commands of a die write their words at once; one without a translation is lost (log 45). -/
def flushEnded (die : Nat) (s : State) : State :=
  (s.cmds.filter fun x => x.2.die == die).foldl (fun s x =>
    match x.2.phase with
    | .ended code result =>
      let c := x.2
      let lost := (completionWords s c).filter fun a => ioDown s die || c.lost.contains a ||
        ((s.queues.get? c.queue).any fun q => !isAdmin c.queue && !atsGrants s die q.pasid true a)
      completeCmd s x.1 { c with lost } code result
    | _ => s) s

/-- FUNCTION_LEVEL_RESET of one die (R429): its contexts are destroyed, its queues cease, BAR0 returns to its
reset values, and accesses through its exports find nothing. -/
def execFunctionLevelReset (die : Nat) (s : State) : Out :=
  let ctxs := s.contexts.keys.filter fun c => c / 256 == die
  let s1 := flushEnded die (ctxs.foldl destroyCtx s)
  let s2 := { s1 with
    contexts := s1.contexts.filter fun x => x.1 / 256 != die
    queues := s1.queues.filter fun x => keyDie x.1 != die
    cmds := s1.cmds.filter fun x => x.2.die != die }
  .next (s2.modDie die fun d =>
    { d with bar := { ready := d.bar.ready }, exports := [], parts := d.parts.map fun p => { p with waiters := [] } })

/-! ### Power and cooling (R431) -/

/-- Power goes from all compute dies: every context is lost, and the ready bits stay 0 until module reset. -/
def powerOff (s : State) : State :=
  let alive := (s.contexts.filter fun x => x.2.status != .destroyed).map Prod.fst
  notReady (alive.foldl (fun s c => loseContext s c .lost true) s)

/-- A die's junction temperature, which sets its cap from its next budget window on; at 115 degrees power goes. -/
def setTemp (die temp : Nat) (s : State) : State :=
  let s1 := (rollDie s die).modDie die fun d => { d with temp }
  if 115 ≤ temp then powerOff s1 else s1

/-- THERMAL_CAP: a die's junction temperature passes a threshold. -/
def execThermalCap (die temp : Nat) (s : State) : Out := .next (setTemp die temp s)

/-- THERMAL_SHUTDOWN: some die reaches 115 degrees. -/
def execThermalShutdown (temp : Nat) (s : State) : Out :=
  .next (if 115 ≤ temp || s.dies.any fun d => decide (115 ≤ d.temp) then powerOff s else s)

/-! ### Attestation and management commands (R434 to R436) -/

def answerWith (s : State) (bytes : List Nat) : State := { s with mgmt := { s.mgmt with response := bytes } }

/-- A free value whose numbers are bytes. -/
def asBytes (xs : List Nat) : List Nat := xs.map (· % 256)

/-- The measurement blocks of R435: digests of the ROM, the management firmware, each die's firmware and the record in
force, then the last bring-up step that succeeded and the one that failed, 0 for none. -/
def measurements (s : State) : List (List Nat) :=
  (List.range 10).map (fun i => Config.sha384 (Config.firmware i)) ++
    [Config.sha384 (recordBytes s.record ++ s.record.signatures),
     [s.mgmt.step, if s.mgmt.step < 7 then s.mgmt.step + 1 else 0]]

/-- SPDM_REQUEST: answered at any time, and changes no context. -/
def execSpdmRequest (request : List Nat) (s : State) : Out :=
  let blocks := (measurements s).map fun b => (b, Config.lmsSignature b)
  let s1 := answerWith s (asBytes (Config.spdmAnswer s.free blocks request))
  .next { s1 with mgmt := { s1.mgmt with session := Config.spdmSession s.free s.mgmt.session request }, free := s.free + 1 }

/-- The cap that sets a die's effective budget: 0 the driver's, 1 the module power limit, 2 the temperature. -/
def capOf (s : State) (die : Nat) : Nat :=
  let b := effectiveBudget s die
  if (s.die die).budget ≤ b then 0 else if Config.powerCap s.mgmt.powerLimit die ≤ b then 1 else 2

/-- A place that is still uncorrectable, as numbers: its die, its array kind, its line or cluster, its word. -/
def badPlace (s : State) (die : Nat) (x : ScrubPlace) : List Nat :=
  match x with
  | .line n => if spanBroken s die n then [die, if Config.secondTier ≤ n then 1 else 0, n, 0] else []
  | .slice n j => if ((held s die n).bind fun y => y.bad.get? j).any (2 ≤ ·) then [die, 2, n, j] else []
  | .scratch k j => if ((s.cluster k).bad.get? j).any (2 ≤ ·) then [die, 3, k, j] else []

/-- The numbers of a telemetry item (R434). -/
def telemetryOf (s : State) (item : Nat) : List Nat :=
  let dies := List.range 8
  match item with
  | 0 => [Config.powerReading s.free]
  | 1 => s.dies.map (·.temp)
  | 2 => dies.flatMap fun d => [effectiveBudget s d, capOf s d]
  | 3 => dies.flatMap fun d => (List.range 4).map fun k => ((s.die d).corrected.get? k).getD 0
  | 4 => dies.flatMap fun d => (s.die d).uncorrected.flatMap (badPlace s d)
  | 5 => dies.map fun d => ((s.cores.filter fun c => dieOf c.1 == d).map fun c => c.2.reruns).sum
  | 6 => (List.range 32).flatMap fun l => [(s.link l).retrains, if (s.link l).down then 1 else 0]
  | _ => []

/-- TELEMETRY: a status byte, then the item. -/
def execTelemetry (item : Nat) (s : State) : Out :=
  .next (if 6 < item then answerWith s [1]
    else { answerWith s (0 :: asBytes (Config.telemetryBytes item (telemetryOf s item))) with free := s.free + 1 })

/-- May a command that changes the module act: is it carried inside a secure session whose requester the module's
owner stands for? -/
def authorised (s : State) (session : Bool) : Bool := session && s.mgmt.session == some s.record.ownerDigest

/-- CONFIG_STAGE: a record for the next module reset; the one in force is unchanged. -/
def execConfigStage (session : Bool) (record : List Nat) (s : State) : Out :=
  let r := readRecord record
  if !authorised s session then .next (answerWith s [2])
  else if record.length < 256 || !recordRanges r || !recordTrusted s.mgmt.counter r then .next (answerWith s [1])
  else .next (answerWith { s with mgmt := { s.mgmt with staged := some r } } [0])

/-- POWER_LIMIT: 1,200 to 2,400 W, from the next budget window. -/
def execPowerLimit (session : Bool) (watts : Nat) (s : State) : Out :=
  if !authorised s session then .next (answerWith s [2])
  else if watts < 1200 ∨ 2400 < watts then .next (answerWith s [1])
  else
    let s1 := (List.range 8).foldl rollDie s
    .next (answerWith { s1 with mgmt := { s1.mgmt with powerLimit := watts } } [0])

/-! ### Capture (R437) -/

/-- The pages below an entry of a level, in the order of their addresses: for each its first address, counted from
the lowest, and whether it is a large one. -/
def pagesOf (s : State) (die : Nat) : Nat → Nat → Nat → Int → List (Nat × Bool)
  | 0, _, _, _ => []
  | fuel + 1, level, at_, e =>
    match readEntry level e with
    | none => []
    | some (.inr leaf) => [(at_, leaf.big)]
    | some (.inl frame) =>
      (List.range 6561).flatMap fun i =>
        match physPair s die (frame * 3 ^ 10 + 6 * i) with
        | .ok x => pagesOf s die fuel (level + 1) (at_ + i * 3 ^ (34 - 8 * level)) x
        | .error _ => []

/-- The contents of every page that a context maps readable, its own or a peer's, in the order of their addresses. -/
def readablePages (s : State) (ctx : Nat) (c : Context) : List Captured :=
  (c.root.zipIdx.flatMap fun x => pagesOf s (ctx / 256) 5 0 (x.2 * 3 ^ 42) x.1).flatMap fun x =>
    match homeKeys s ctx .read ((x.1 : Int) - half 45) (if x.2 then 3 ^ 18 else 3 ^ 10) with
    | .ok ks => [⟨.page, x.1 / 3 ^ 10, streamBytes (readKeys s (ks.map Prod.fst))⟩]
    | .error _ => []

/-- CAPTURE_ARM: one context at a time on the module; the log begins with its readable pages. -/
def execCaptureArm (session : Bool) (die ctx : Nat) (s : State) : Out :=
  if !authorised s session then .next (answerWith s [2])
  else
    match s.contexts.get? (256 * die + ctx) with
    | none => .next (answerWith s [1])
    | some c =>
      if 7 < die ∨ 255 < ctx ∨ c.status = .destroyed ∨ s.mgmt.capture.armed.isSome then .next (answerWith s [1])
      else
        let s1 := { s with mgmt := { s.mgmt with capture := { armed := some (die, ctx) } } }
        .next (answerWith ((readablePages s (256 * die + ctx) c).foldl (fun s x => capture s (256 * die + ctx) x) s1) [0])

/-- CAPTURE_DISARM: capture stops, and the log is complete unless the area was full. -/
def execCaptureDisarm (session : Bool) (s : State) : Out :=
  if !authorised s session then .next (answerWith s [2])
  else
    let c := s.mgmt.capture
    .next (answerWith { s with mgmt := { s.mgmt with capture := { c with armed := none, complete := !c.incomplete } } } [0])

/-- CAPTURE_READ: up to 4,096 bytes of the log. -/
def execCaptureRead (session : Bool) (off count : Nat) (s : State) : Out :=
  if !authorised s session then .next (answerWith s [2])
  else if 4096 < count then .next (answerWith s [1])
  else .next (answerWith s (0 :: ((asBytes (Config.captureBytes s.mgmt.capture.log)).drop off).take count))

/-! ### MSI-X (R413) -/

/-- MASKED_VECTOR_UNMASK: a vector that stayed pending behind its mask is sent. -/
def execMaskedVectorUnmask (die vector : Nat) (s : State) : Out :=
  let d := s.die die
  let d' := { d with vectors := d.vectors.filter (· != vector),
                     unmasked := if d.unmasked.contains vector then d.unmasked else d.unmasked ++ [vector] }
  let s1 := s.setDie die d'
  .next (if d.vectors.contains vector then { s1 with msix := (die, vector) :: s1.msix } else s1)

end Sys2Proof.Machine
end

