-- ==== Sys2Proof/Machine/Uniform.lean ====
section
/-!
DEFINITION. Uniform and address arithmetic, special values, lane masks, match and vote, trap mask and
comparator, code pins (R222 to R231, R239, R240, R243, R244, R246).
-/
namespace Sys2Proof.Machine

/-! ### Uniform arithmetic (R226, R227) -/

/-- One result for the strand: wrapped or saturated, carry and overflow discarded. -/
def uniWord (i : Instr) (p sat : Bool) (d : Nat) (s : State) (f : Strand → Int) : Out :=
  strandWord i s fun w =>
    let n := if p then 54 else 27
    let x := f w.st
    .ok (w.st.suput p d (if sat then (saturate x n).w else wrapVal x n))

def execSadd (g : Guard) (p sat : Bool) (d a b : Nat) (s : State) : Out :=
  uniWord (.sadd g p sat d a b) p sat d s fun st => st.su p a + st.su p b
def execSsub (g : Guard) (p sat : Bool) (d a b : Nat) (s : State) : Out :=
  uniWord (.ssub g p sat d a b) p sat d s fun st => st.su p a - st.su p b
def execSmul (g : Guard) (p sat : Bool) (d a b : Nat) (s : State) : Out :=
  uniWord (.smul g p sat d a b) p sat d s fun st => st.su p a * st.su p b
def execSmad (g : Guard) (p sat : Bool) (d a b : Nat) (s : State) : Out :=
  uniWord (.smad g p sat d a b) p sat d s fun st => st.su p a * st.su p b + st.su p d
def execSmin (g : Guard) (p : Bool) (d a b : Nat) (s : State) : Out :=
  uniWord (.smin g p d a b) p false d s fun st => min (st.su p a) (st.su p b)
def execSmax (g : Guard) (p : Bool) (d a b : Nat) (s : State) : Out :=
  uniWord (.smax g p d a b) p false d s fun st => max (st.su p a) (st.su p b)
def execScmp (g : Guard) (p : Bool) (c a b : Nat) (s : State) : Out :=
  strandWord (.scmp g p c a b) s fun w =>
    .ok (condLanes w.st w.act c { sign := (w.st.su p a - w.st.su p b).sign })
def execSshl (g : Guard) (p sat : Bool) (d a b : Nat) (s : State) : Out :=
  uniWord (.sshl g p sat d a b) p sat d s fun st =>
    shiftBy (if p then 54 else 27) (st.su p a) (st.sget b)
def execSshr (g : Guard) (p : Bool) (d a b : Nat) (s : State) : Out :=
  uniWord (.sshr g p d a b) p false d s fun st =>
    shiftBy (if p then 54 else 27) (st.su p a) (-(st.sget b))
def execSmov (g : Guard) (p : Bool) (d a : Nat) (s : State) : Out :=
  uniWord (.smov g p d a) p false d s fun st => st.su p a
def execSldi (g : Guard) (d : Nat) (imm : Int) (s : State) : Out :=
  strandWord (.sldi g d imm) s fun w => .ok (w.st.sput d imm)

/-! ### Special values (R58, R228) -/

/-- Index of a thread in its weave (R20). -/
def threadIndex (st : Strand) (l : Nat) : Nat := 32 * st.number + l

/-- Values 0 to 5, one for each thread. -/
def threadValue (wv : Weave) (st : Strand) (l i : Nat) : Int :=
  let n := threadIndex st l
  let x := wv.shape.getD 0 1
  let y := wv.shape.getD 1 1
  match i with
  | 0 => l
  | 1 => (n % x : Nat)
  | 2 => (n / x % y : Nat)
  | 3 => (n / (x * y) : Nat)
  | 4 => n
  | _ => (st.thread l).savedPc

/-- Values 6 to 33, one for the strand; none for the attribute of an undeclared tile. -/
def strandValue (s : State) (wv : Weave) (st : Strand) (i : Nat) : Option Int :=
  match i with
  | 6 => some st.number
  | 7 => some wv.nstrands
  | 8 => some wv.wx
  | 9 => some wv.wy
  | 10 => some wv.wz
  | 11 => some wv.pass
  | 12 => some (st.core % 64 : Nat)
  | 13 => some (clusterOf st.core % 16 : Nat)
  | 14 => some (dieOf st.core)
  | 15 => some (counter s st.core)
  | 16 => some (wrapVal st.stall 27)
  | 17 => some (wrapVal (s.core st.core).reruns 27)
  | 18 => some st.granules
  | 19 => some wv.len
  | 20 => some st.presentMask
  | 21 => some st.trapMask
  | 22 => some st.cause
  | 23 => some (maskWord st.mask (st.mask.global && timerDue s st))
  | 24 => some (ofTrits (st.flags.map fun f => if f then 1 else 0))
  | _ => (st.tiles.get? (i - 25)).map (·.attr)

def execSget (g : Guard) (d i : Nat) (s : State) : Out :=
  strandWord (.sget g d i) s fun w =>
    let wv := w.s.weaveOf w.st
    if i ≤ 5 then .ok (w.st.modThreads w.act fun l t => t.vput d (threadValue wv w.st l i))
    else
      match strandValue w.s wv w.st i with
      | none => .error { code := 3, lane := w.act.headD 0 }
      | some x => .ok (w.st.suput (i == 15 || i == 20 || i == 21) d x)

/-! ### Lanes and the strand (R229, R230, R239, R240) -/

def execVrd (g : Guard) (d a lane : Nat) (s : State) : Out :=
  strandWord (.vrd g d a lane) s fun w =>
    let t := w.st.thread lane
    .ok (w.st.sput d (if t.present then t.vget a else 0))
def execSbc (g : Guard) (p : Bool) (d a : Nat) (s : State) : Out :=
  strandWord (.sbc g p d a) s fun w =>
    let x := w.st.su p a
    .ok (w.st.modThreads w.act fun _ t => if p then t.vputPair d x else t.vput d x)
def execSbal (g : Guard) (d c : Nat) (t : Test) (s : State) : Out :=
  strandWord (.sbal g d c t) s fun w =>
    .ok (w.st.sputPair d (laneMask fun l =>
      if w.act.contains l then (if testCond t ((w.st.thread l).cond c) then 1 else 0) else -1))
def execMatchV (g : Guard) (cnt : Bool) (d a : Nat) (s : State) : Out :=
  strandWord (.matchV g cnt d a) s fun w =>
    let key (l : Nat) := (w.st.thread l).vget a
    .ok (w.st.modThreads w.act fun l t =>
      let same := w.act.filter fun j => key j == key l
      t.vput d (if cnt then same.length else (same.filter (· < l)).length : Nat))
def execVote (g : Guard) (op : VoteOp) (d c : Nat) (t : Test) (s : State) : Out :=
  strandWord (.vote g op d c t) s fun w =>
    let answers := w.act.map fun l => testCond t ((w.st.thread l).cond c)
    let yes := match op with
      | .any => answers.any id
      | .all => answers.all id
      | .uni => answers.all id || !answers.any id
    .ok (condLanes w.st w.act d { sign := if yes then 1 else -1 })

/-! ### Address registers (R231) -/

/-- An address sum into ad, or the space-crossing fault with the base register's value (R97, R318). -/
def addrWord (i : Instr) (d a : Nat) (s : State) (f : Strand → Int) : Out :=
  strandWord i s fun w =>
    match addAddr (w.st.areg a) (f w.st) with
    | some x => .ok (w.st.aput d x)
    | none => .error { code := 6, lane := w.act.headD 0, addr := some (w.st.areg a) }

def leaFactor : LeaScale → Int
  | .one => 1 | .w => 3 | .pr => 6 | .ln => 81

def execAadd (g : Guard) (d a b : Nat) (s : State) : Out :=
  addrWord (.aadd g d a b) d a s fun st => st.sget b
def execLea (g : Guard) (sc : LeaScale) (d a b : Nat) (s : State) : Out :=
  addrWord (.lea g sc d a b) d a s fun st => st.sget b * leaFactor sc
def execAmov (g : Guard) (d a : Nat) (s : State) : Out :=
  strandWord (.amov g d a) s fun w => .ok (w.st.aput d (w.st.areg a))
def execAset (g : Guard) (d a : Nat) (s : State) : Out :=
  strandWord (.aset g d a) s fun w => .ok (w.st.aput d (wrapVal (w.st.spair a) 45))
def execAget (g : Guard) (d : Nat) (sel : AgetSel) (s : State) : Out :=
  strandWord (.aget g d sel) s fun w =>
    match sel with
    | .reg a => .ok (w.st.sputPair d (w.st.areg a))
    | .flt => .ok (w.st.sputPair d w.st.faultAddr)
    | .hnd => .ok (w.st.sputPair d w.st.handlerPc)
    | .cmp => .ok (w.st.sputPair d w.st.comparator)
    | .spc => .ok (w.st.modThreads w.act fun _ t => t.vputPair d t.savedPc)

/-! ### Trap mask and comparator (R243, R244) -/

def execTmsk (g : Guard) (d a : Nat) (s : State) : Out :=
  strandWord (.tmsk g d a) s fun w =>
    let old := maskWord w.st.mask (w.st.mask.global && timerDue w.s w.st)
    .ok { w.st.sput d old with mask := maskOf (w.st.sget a) }
def execTcmp (g : Guard) (add : Bool) (a : Nat) (s : State) : Out :=
  strandWord (.tcmp g add a) s fun w =>
    let v := wrapVal (w.st.spair a) 45
    .ok { w.st with comparator := (saturate (if add then counter w.s w.st.core + v else v) 45).w }

/-! ### Code lines (R246) -/

/-- The line numbers that a prefetch or pin names: none for a count of 0 or less, at most 27. -/
def codeLines (off k : Int) : List Int :=
  (List.range (min k 27).toNat).map fun (j : Nat) => off / 81 + (j : Int)

/-- Code lines by number of a weave's segment, up to its end. -/
def codePtrs (wv : Weave) (ls : List Int) : List Int :=
  (ls.takeWhile fun (x : Int) => decide (0 ≤ x) && decide (81 * x < (wv.codeSize : Int))).map fun (x : Int) => wv.codeBase + 81 * x

/-- ipf: lines up to the bound of the segment; never a fault (R246). -/
def execIpf (g : Guard) (a b : Nat) (s : State) : Out :=
  issue (.ipf g a b) s fun w =>
    let wv := w.s.weaveOf w.st
    .ok ((codePtrs wv (codeLines (w.st.sget a) (w.st.sget b))).foldl (fun s p => fetchCodeLine s w.st.core wv.ctx p) w.s)
/-- ipin: all or nothing (R246). Of a range that both leaves the segment and would pass the limit R246 does not say which
status it has: it has −1 (DESIGN CHOICE, log 88). -/
def execIpin (g : Guard) (c a b : Nat) (s : State) : Out :=
  issue (.ipin g c a b) s fun w =>
    let wv := w.s.weaveOf w.st
    let ls := codeLines (w.st.sget a) (w.st.sget b)
    let core := w.s.core w.st.core
    let new := (ls.map fun x => (wv.ctx, wv.codeBase + 81 * x)).filter fun x => !core.pins.contains x
    let out := ls.any fun x => x < 0 || decide ((wv.codeSize : Int) ≤ 81 * x)
    let status : Int := if out then -1
      else if Config.pinLimit < core.pins.length + new.length then 0 else 1
    let s1 := if status = 1 then w.s.modCore w.st.core fun x => { x with pins := x.pins ++ new } else w.s
    .ok (s1.setStrand w.k (condLanes w.st w.act c { sign := status }))
def execIunpin (g : Guard) (a b : Nat) (s : State) : Out :=
  issue (.iunpin g a b) s fun w =>
    let wv := w.s.weaveOf w.st
    let ls := (codeLines (w.st.sget a) (w.st.sget b)).map fun x => (wv.ctx, wv.codeBase + 81 * x)
    .ok (w.s.modCore w.st.core fun x => { x with pins := x.pins.filter fun p => !ls.contains p })

end Sys2Proof.Machine
end

