-- ==== Sys2Proof/Machine/Dispatch.lean ====
section
/-!
DEFINITION. One arm for each constructor of `Instr`: the meaning it calls.
-/
namespace Sys2Proof.Machine

def exec (i : Instr) (s : State) : Host.Outcome State Fault Refusal :=
  match i with
  | .brI g off => Sys2Proof.Machine.execBrI g off s
  | .brL g off => Sys2Proof.Machine.execBrL g off s
  | .callI g d off => Sys2Proof.Machine.execCallI g d off s
  | .callL g d off => Sys2Proof.Machine.execCallL g d off s
  | .brx g a => Sys2Proof.Machine.execBrx g a s
  | .ret g a => Sys2Proof.Machine.execRet g a s
  | .exit g => Sys2Proof.Machine.execExit g s
  | .nop g => Sys2Proof.Machine.execNop g s
  | .yield g => Sys2Proof.Machine.execYield g s
  | .sleep g b => Sys2Proof.Machine.execSleep g b s
  | .addV g t m d a b => Sys2Proof.Machine.execAddV g t m d a b s
  | .addI g t m d a imm => Sys2Proof.Machine.execAddI g t m d a imm s
  | .addc g t d a b => Sys2Proof.Machine.execAddc g t d a b s
  | .sub g t m d a b => Sys2Proof.Machine.execSub g t m d a b s
  | .subc g t d a b => Sys2Proof.Machine.execSubc g t d a b s
  | .neg g t d a => Sys2Proof.Machine.execNeg g t d a s
  | .abs g t d a => Sys2Proof.Machine.execAbs g t d a s
  | .minV g t d a b => Sys2Proof.Machine.execMinV g t d a b s
  | .minI g t d a imm => Sys2Proof.Machine.execMinI g t d a imm s
  | .maxV g t d a b => Sys2Proof.Machine.execMaxV g t d a b s
  | .maxI g t d a imm => Sys2Proof.Machine.execMaxI g t d a imm s
  | .clamp g t d a b => Sys2Proof.Machine.execClamp g t d a b s
  | .mulV g t m d a b => Sys2Proof.Machine.execMulV g t m d a b s
  | .mulI g t m d a imm => Sys2Proof.Machine.execMulI g t m d a imm s
  | .mulh g t d a b => Sys2Proof.Machine.execMulh g t d a b s
  | .mad g t m d a b => Sys2Proof.Machine.execMad g t m d a b s
  | .div g t d a b => Sys2Proof.Machine.execDiv g t d a b s
  | .mod g t d a b => Sys2Proof.Machine.execMod g t d a b s
  | .cmpV g t c a b => Sys2Proof.Machine.execCmpV g t c a b s
  | .cmpI g t c a imm => Sys2Proof.Machine.execCmpI g t c a imm s
  | .sgn g t d a => Sys2Proof.Machine.execSgn g t d a s
  | .sel g t d a b => Sys2Proof.Machine.execSel g t d a b s
  | .sat g t d a k => Sys2Proof.Machine.execSat g t d a k s
  | .mov g t d a => Sys2Proof.Machine.execMov g t d a s
  | .movi g t d imm => Sys2Proof.Machine.execMovi g t d imm s
  | .ldi g d imm => Sys2Proof.Machine.execLdi g d imm s
  | .shlV g t m d a b => Sys2Proof.Machine.execShlV g t m d a b s
  | .shlI g t m d a imm => Sys2Proof.Machine.execShlI g t m d a imm s
  | .shrV g t d a b => Sys2Proof.Machine.execShrV g t d a b s
  | .shrI g t d a imm => Sys2Proof.Machine.execShrI g t d a imm s
  | .rolV g t d a b => Sys2Proof.Machine.execRolV g t d a b s
  | .rolI g t d a imm => Sys2Proof.Machine.execRolI g t d a imm s
  | .rorV g t d a b => Sys2Proof.Machine.execRorV g t d a b s
  | .rorI g t d a imm => Sys2Proof.Machine.execRorI g t d a imm s
  | .tand g t d a b => Sys2Proof.Machine.execTand g t d a b s
  | .tor g t d a b => Sys2Proof.Machine.execTor g t d a b s
  | .tmul g t d a b => Sys2Proof.Machine.execTmul g t d a b s
  | .tcon g t d a b => Sys2Proof.Machine.execTcon g t d a b s
  | .tlut g t d a b table => Sys2Proof.Machine.execTlut g t d a b table s
  | .tcnt g t d a digit => Sys2Proof.Machine.execTcnt g t d a digit s
  | .tlz g t d a => Sys2Proof.Machine.execTlz g t d a s
  | .text g t d a pos len => Sys2Proof.Machine.execText g t d a pos len s
  | .tins g t d a pos len => Sys2Proof.Machine.execTins g t d a pos len s
  | .pack g t m d a => Sys2Proof.Machine.execPack g t m d a s
  | .unpack g t d a => Sys2Proof.Machine.execUnpack g t d a s
  | .perm g d a b => Sys2Proof.Machine.execPerm g d a b s
  | .shfl g dir d a b => Sys2Proof.Machine.execShfl g dir d a b s
  | .lred g t m op d a => Sys2Proof.Machine.execLred g t m op d a s
  | .lscan g t m op d a => Sys2Proof.Machine.execLscan g t m op d a s
  | .fadd g t m d a b => Sys2Proof.Machine.execFadd g t m d a b s
  | .fsub g t m d a b => Sys2Proof.Machine.execFsub g t m d a b s
  | .fmul g t m d a b => Sys2Proof.Machine.execFmul g t m d a b s
  | .fma g t m d a b => Sys2Proof.Machine.execFma g t m d a b s
  | .fnma g t m d a b => Sys2Proof.Machine.execFnma g t m d a b s
  | .fmin g t d a b => Sys2Proof.Machine.execFmin g t d a b s
  | .fmax g t d a b => Sys2Proof.Machine.execFmax g t d a b s
  | .fcmp g t c a b => Sys2Proof.Machine.execFcmp g t c a b s
  | .fabs g t d a => Sys2Proof.Machine.execFabs g t d a s
  | .fdiv g t m d a b => Sys2Proof.Machine.execFdiv g t m d a b s
  | .fsqrt g t d a => Sys2Proof.Machine.execFsqrt g t d a s
  | .frcp g t m d a => Sys2Proof.Machine.execFrcp g t m d a s
  | .frsq g t d a => Sys2Proof.Machine.execFrsq g t d a s
  | .fex3 g t m d a => Sys2Proof.Machine.execFex3 g t m d a s
  | .flg3 g t d a => Sys2Proof.Machine.execFlg3 g t d a s
  | .fsclV g t m d a b => Sys2Proof.Machine.execFsclV g t m d a b s
  | .fsclI g t m d a imm => Sys2Proof.Machine.execFsclI g t m d a imm s
  | .fcls g t d a => Sys2Proof.Machine.execFcls g t d a s
  | .ffix g t trp d a => Sys2Proof.Machine.execFfix g t trp d a s
  | .fflt g t d a => Sys2Proof.Machine.execFflt g t d a s
  | .fcvt g t m d a j => Sys2Proof.Machine.execFcvt g t m d a j s
  | .frnd g t dir d a => Sys2Proof.Machine.execFrnd g t dir d a s
  | .dot g t d a b => Sys2Proof.Machine.execDot g t d a b s
  | .dotf g m d a b => Sys2Proof.Machine.execDotf g m d a b s
  | .cmul g t m d a b => Sys2Proof.Machine.execCmul g t m d a b s
  | .sadd g p sat d a b => Sys2Proof.Machine.execSadd g p sat d a b s
  | .ssub g p sat d a b => Sys2Proof.Machine.execSsub g p sat d a b s
  | .smul g p sat d a b => Sys2Proof.Machine.execSmul g p sat d a b s
  | .smad g p sat d a b => Sys2Proof.Machine.execSmad g p sat d a b s
  | .smin g p d a b => Sys2Proof.Machine.execSmin g p d a b s
  | .smax g p d a b => Sys2Proof.Machine.execSmax g p d a b s
  | .scmp g p c a b => Sys2Proof.Machine.execScmp g p c a b s
  | .sshl g p sat d a b => Sys2Proof.Machine.execSshl g p sat d a b s
  | .sshr g p d a b => Sys2Proof.Machine.execSshr g p d a b s
  | .smov g p d a => Sys2Proof.Machine.execSmov g p d a s
  | .sldi g d imm => Sys2Proof.Machine.execSldi g d imm s
  | .sget g d n => Sys2Proof.Machine.execSget g d n s
  | .vrd g d a lane => Sys2Proof.Machine.execVrd g d a lane s
  | .sbc g p d a => Sys2Proof.Machine.execSbc g p d a s
  | .sbal g d c t => Sys2Proof.Machine.execSbal g d c t s
  | .aadd g d a b => Sys2Proof.Machine.execAadd g d a b s
  | .amov g d a => Sys2Proof.Machine.execAmov g d a s
  | .aset g d a => Sys2Proof.Machine.execAset g d a s
  | .aget g d sel => Sys2Proof.Machine.execAget g d sel s
  | .lea g sc d a b => Sys2Proof.Machine.execLea g sc d a b s
  | .bar g n b => Sys2Proof.Machine.execBar g n b s
  | .bara g n b => Sys2Proof.Machine.execBara g n b s
  | .barw g n => Sys2Proof.Machine.execBarw g n s
  | .matchV g cnt d a => Sys2Proof.Machine.execMatchV g cnt d a s
  | .vote g op d c t => Sys2Proof.Machine.execVote g op d c t s
  | .ldI g t d a imm => Sys2Proof.Machine.execLdI g t d a imm s
  | .ldL g t d a x => Sys2Proof.Machine.execLdL g t d a x s
  | .stI g t d a imm => Sys2Proof.Machine.execStI g t d a imm s
  | .stL g t d a x => Sys2Proof.Machine.execStL g t d a x s
  | .lduI g t d a imm => Sys2Proof.Machine.execLduI g t d a imm s
  | .lduL g t d a disp => Sys2Proof.Machine.execLduL g t d a disp s
  | .stuI g t d a imm => Sys2Proof.Machine.execStuI g t d a imm s
  | .stuL g t d a disp => Sys2Proof.Machine.execStuL g t d a disp s
  | .ldsI g p d a imm => Sys2Proof.Machine.execLdsI g p d a imm s
  | .ldsL g p d a x => Sys2Proof.Machine.execLdsL g p d a x s
  | .stsI g p d a imm => Sys2Proof.Machine.execStsI g p d a imm s
  | .stsL g p d a x => Sys2Proof.Machine.execStsL g p d a x s
  | .ldh g k t sat d a x => Sys2Proof.Machine.execLdh g k t sat d a x s
  | .sth g k t sat d a x => Sys2Proof.Machine.execSth g k t sat d a x s
  | .dpf g a b => Sys2Proof.Machine.execDpf g a b s
  | .cwb g a b => Sys2Proof.Machine.execCwb g a b s
  | .cinv g a b => Sys2Proof.Machine.execCinv g a b s
  | .atom g t sat d a b x => Sys2Proof.Machine.execAtom g t sat d a b x s
  | .atoms g t sat d a b x => Sys2Proof.Machine.execAtoms g t sat d a b x s
  | .red g t sat a b x => Sys2Proof.Machine.execRed g t sat a b x s
  | .acq g sc all d a b => Sys2Proof.Machine.execAcq g sc all d a b s
  | .rel g sc all d a b => Sys2Proof.Machine.execRel g sc all d a b s
  | .bind g c a b sc len => Sys2Proof.Machine.execBind g c a b sc len s
  | .unbind g a b => Sys2Proof.Machine.execUnbind g a b s
  | .fence g sc => Sys2Proof.Machine.execFence g sc s
  | .fencex g p c => Sys2Proof.Machine.execFencex g p c s
  | .waitw g sp d a b => Sys2Proof.Machine.execWaitw g sp d a b s
  | .wake g sc sp a => Sys2Proof.Machine.execWake g sc sp a s
  | .emit g c a q => Sys2Proof.Machine.execEmit g c a q s
  | .spz g slot act => Sys2Proof.Machine.execSpz g slot act s
  | .cpt g t sat d a b x => Sys2Proof.Machine.execCpt g t sat d a b x s
  | .cpm g t d a b x => Sys2Proof.Machine.execCpm g t d a b x s
  | .cpg g t sat d a b x => Sys2Proof.Machine.execCpg g t sat d a b x s
  | .cpf g t d a b x => Sys2Proof.Machine.execCpf g t d a b x s
  | .cpw g sc add d a sp => Sys2Proof.Machine.execCpw g sc add d a sp s
  | .xff g t sat d a x => Sys2Proof.Machine.execXff g t sat d a x s
  | .xfi g t sat d a x => Sys2Proof.Machine.execXfi g t sat d a x s
  | .mma g f d a b asrc bsrc => Sys2Proof.Machine.execMma g f d a b asrc bsrc s
  | .mmc g t d a b x => Sys2Proof.Machine.execMmc g t d a b x s
  | .mzr g d => Sys2Proof.Machine.execMzr g d s
  | .mld g d a sp => Sys2Proof.Machine.execMld g d a sp s
  | .mst g t sat d a x => Sys2Proof.Machine.execMst g t sat d a x s
  | .mrd g d m col => Sys2Proof.Machine.execMrd g d m col s
  | .mwr g m a col => Sys2Proof.Machine.execMwr g m a col s
  | .mtag g d a => Sys2Proof.Machine.execMtag g d a s
  | .thnd g d a disp => Sys2Proof.Machine.execThnd g d a disp s
  | .msg g a b sc n => Sys2Proof.Machine.execMsg g a b sc n s
  | .trap g code => Sys2Proof.Machine.execTrap g code s
  | .tret g set => Sys2Proof.Machine.execTret g set s
  | .tmsk g d a => Sys2Proof.Machine.execTmsk g d a s
  | .tcmp g add a => Sys2Proof.Machine.execTcmp g add a s
  | .brk g => Sys2Proof.Machine.execBrk g s
  | .ipf g a b => Sys2Proof.Machine.execIpf g a b s
  | .ipin g c a b => Sys2Proof.Machine.execIpin g c a b s
  | .iunpin g a b => Sys2Proof.Machine.execIunpin g a b s
  | .grow g c n => Sys2Proof.Machine.execGrow g c n s
  | .shrink g n => Sys2Proof.Machine.execShrink g n s
  | .issuePick core => Sys2Proof.Machine.execIssuePick core s
  | .strandForced k => Sys2Proof.Machine.execStrandForced k s
  | .budgetWindow core => Sys2Proof.Machine.execBudgetWindow core s
  | .sleepExpiry k lane => Sys2Proof.Machine.execSleepExpiry k lane s
  | .timerTrap k => Sys2Proof.Machine.execTimerTrap k s
  | .trapDelivery k => Sys2Proof.Machine.execTrapDelivery k s
  | .waitwEnd k lane => Sys2Proof.Machine.execWaitwEnd k lane s
  | .groupFormTimeout graph node => Sys2Proof.Machine.execGroupFormTimeout graph node s
  | .copyLine op => Sys2Proof.Machine.execCopyLine op s
  | .copyComplete op => Sys2Proof.Machine.execCopyComplete op s
  | .transformStage op => Sys2Proof.Machine.execTransformStage op s
  | .transformComplete op => Sys2Proof.Machine.execTransformComplete op s
  | .matrixStart op => Sys2Proof.Machine.execMatrixStart op s
  | .matrixComplete op errs => Sys2Proof.Machine.execMatrixComplete op errs s
  | .matrixEngineReset core => Sys2Proof.Machine.execMatrixEngineReset core s
  | .messageSend op => Sys2Proof.Machine.execMessageSend op s
  | .messageAccept op => Sys2Proof.Machine.execMessageAccept op s
  | .weaveDispatch ctx => Sys2Proof.Machine.execWeaveDispatch ctx s
  | .prologueBinding weave => Sys2Proof.Machine.execPrologueBinding weave s
  | .prologueComplete weave => Sys2Proof.Machine.execPrologueComplete weave s
  | .partitionAssign die part => Sys2Proof.Machine.execPartitionAssign die part s
  | .quantumExpiry die part => Sys2Proof.Machine.execQuantumExpiry die part s
  | .drainDeadlineExpiry die part => Sys2Proof.Machine.execDrainDeadlineExpiry die part s
  | .skidBoundExpiry die part => Sys2Proof.Machine.execSkidBoundExpiry die part s
  | .swapOutComplete die part => Sys2Proof.Machine.execSwapOutComplete die part s
  | .swapDeadlineExpiry die part => Sys2Proof.Machine.execSwapDeadlineExpiry die part s
  | .resume ctx => Sys2Proof.Machine.execResume ctx s
  | .contextWatchdog ctx => Sys2Proof.Machine.execContextWatchdog ctx s
  | .operationWatchdog op => Sys2Proof.Machine.execOperationWatchdog op s
  | .beatReceive link noise => Sys2Proof.Machine.execBeatReceive link noise s
  | .packetForward pkt => Sys2Proof.Machine.execPacketForward pkt s
  | .peerRead pkt => Sys2Proof.Machine.execPeerRead pkt s
  | .peerWrite pkt => Sys2Proof.Machine.execPeerWrite pkt s
  | .peerAtomic pkt => Sys2Proof.Machine.execPeerAtomic pkt s
  | .dataResponse pkt => Sys2Proof.Machine.execDataResponse pkt s
  | .acknowledgement pkt => Sys2Proof.Machine.execAcknowledgement pkt s
  | .refusal pkt => Sys2Proof.Machine.execRefusal pkt s
  | .slotReady pkt => Sys2Proof.Machine.execSlotReady pkt s
  | .ticketReservationExpiry die requester => Sys2Proof.Machine.execTicketReservationExpiry die requester s
  | .message pkt => Sys2Proof.Machine.execMessage pkt s
  | .messageAccepted pkt => Sys2Proof.Machine.execMessageAccepted pkt s
  | .messageRefused pkt => Sys2Proof.Machine.execMessageRefused pkt s
  | .adminTail die v => Sys2Proof.Machine.execAdminTail die v s
  | .adminCtl die v => Sys2Proof.Machine.execAdminCtl die v s
  | .registerWrite die off v => Sys2Proof.Machine.execRegisterWrite die off v s
  | .apertureRead die off => Sys2Proof.Machine.execApertureRead die off s
  | .kick die q v => Sys2Proof.Machine.execKick die q v s
  | .commandFetch queue => Sys2Proof.Machine.execCommandFetch queue s
  | .commandCompletion cmd => Sys2Proof.Machine.execCommandCompletion cmd s
  | .bqiNop cmd => Sys2Proof.Machine.execBqiNop cmd s
  | .launch cmd => Sys2Proof.Machine.execLaunch cmd s
  | .graphCreate cmd => Sys2Proof.Machine.execGraphCreate cmd s
  | .graphRun cmd => Sys2Proof.Machine.execGraphRun cmd s
  | .graphDestroy cmd => Sys2Proof.Machine.execGraphDestroy cmd s
  | .copy cmd => Sys2Proof.Machine.execCopy cmd s
  | .wait cmd => Sys2Proof.Machine.execWait cmd s
  | .signal cmd => Sys2Proof.Machine.execSignal cmd s
  | .query cmd => Sys2Proof.Machine.execQuery cmd s
  | .contextCreate cmd => Sys2Proof.Machine.execContextCreate cmd s
  | .contextDestroy cmd => Sys2Proof.Machine.execContextDestroy cmd s
  | .contextResume cmd => Sys2Proof.Machine.execContextResume cmd s
  | .queueCreate cmd => Sys2Proof.Machine.execQueueCreate cmd s
  | .queueDestroy cmd => Sys2Proof.Machine.execQueueDestroy cmd s
  | .exportMem cmd => Sys2Proof.Machine.execExportMem cmd s
  | .importHandle cmd => Sys2Proof.Machine.execImportHandle cmd s
  | .revoke cmd => Sys2Proof.Machine.execRevoke cmd s
  | .invalidate cmd => Sys2Proof.Machine.execInvalidate cmd s
  | .preempt cmd => Sys2Proof.Machine.execPreempt cmd s
  | .setPartitionMode cmd => Sys2Proof.Machine.execSetPartitionMode cmd s
  | .setContextWatchdog cmd => Sys2Proof.Machine.execSetContextWatchdog cmd s
  | .setDrainDeadline cmd => Sys2Proof.Machine.execSetDrainDeadline cmd s
  | .setSwapDeadline cmd => Sys2Proof.Machine.execSetSwapDeadline cmd s
  | .setQuantum cmd => Sys2Proof.Machine.execSetQuantum cmd s
  | .setHandlerSlots cmd => Sys2Proof.Machine.execSetHandlerSlots cmd s
  | .setMatrixBudget cmd => Sys2Proof.Machine.execSetMatrixBudget cmd s
  | .codeLoad cmd => Sys2Proof.Machine.execCodeLoad cmd s
  | .contextSpill cmd => Sys2Proof.Machine.execContextSpill cmd s
  | .hostReadCompletion grp lane => Sys2Proof.Machine.execHostReadCompletion grp lane s
  | .linkRetrain link => Sys2Proof.Machine.execLinkRetrain link s
  | .sliceWriteback die line => Sys2Proof.Machine.execSliceWriteback die line s
  | .atsTranslationCompletion grp lane size r w => Sys2Proof.Machine.execAtsTranslationCompletion grp lane size r w s
  | .priResponse grp lane ok => Sys2Proof.Machine.execPriResponse grp lane ok s
  | .atsInvalidation die pasid base size => Sys2Proof.Machine.execAtsInvalidation die pasid base size s
  | .patrolScrub die at_ => Sys2Proof.Machine.execPatrolScrub die at_ s
  | .calibration die bank => Sys2Proof.Machine.execCalibration die bank s
  | .clockStretch core => Sys2Proof.Machine.execClockStretch core s
  | .thermalCap die temp => Sys2Proof.Machine.execThermalCap die temp s
  | .thermalShutdown temp => Sys2Proof.Machine.execThermalShutdown temp s
  | .moduleReset failsAt => Sys2Proof.Machine.execModuleReset failsAt s
  | .functionLevelReset die => Sys2Proof.Machine.execFunctionLevelReset die s
  | .spdmRequest request => Sys2Proof.Machine.execSpdmRequest request s
  | .telemetry item => Sys2Proof.Machine.execTelemetry item s
  | .configStage session record => Sys2Proof.Machine.execConfigStage session record s
  | .powerLimit session watts => Sys2Proof.Machine.execPowerLimit session watts s
  | .captureArm session die ctx => Sys2Proof.Machine.execCaptureArm session die ctx s
  | .captureDisarm session => Sys2Proof.Machine.execCaptureDisarm session s
  | .captureRead session off count => Sys2Proof.Machine.execCaptureRead session off count s
  | .linkRetrainingComplete link ok => Sys2Proof.Machine.execLinkRetrainingComplete link ok s
  | .maskedVectorUnmask die vector => Sys2Proof.Machine.execMaskedVectorUnmask die vector s

end Sys2Proof.Machine
end

