-- ==== Sys2Proof/Machine/Turns.lean ====
section
/-!
DEFINITION. What one turn of the machine does: the next word of an open pick (R25, R168, R321), one
reference cycle of time (R6, R28, R29, R354), and what the world outside does to memory and registers
(R47, R94, R366).
-/
namespace Sys2Proof.Machine

/-! ### Words -/

/-- The words that a pick issues next: the word at its position, and the one after it. -/
def nextWords (p : Pick) : Option (Int × Int) := (p.words[p.pos]?).map fun w => (w, (p.words[p.pos + 1]?).getD 0)

/-- A word that no entry of the opcode map stands for (R168): the illegal-instruction fault, or nothing
where no lane passes its guard. -/
def illegalWord (s : State) (k : Nat) (st : Strand) (p : Pick) (w0 : Int) : State :=
  let g := (Enc.guardOf (Enc.guardField w0)).getD .always
  let act := p.lanes.filter fun l => passes g (st.thread l)
  let op := Enc.opOf w0
  let w : Word_ := ⟨s, k, st, act, p.header, p.pos⟩
  match badGuard st p.lanes g with
  | some b => wordFault w (regFault b)
  | none =>
    if act.isEmpty then
      let s1 := if isMatrixOp op then s.modCore st.core fun c => { c with used := c.used + 1 } else s
      advanceBy s1 k (if Enc.isL op then 2 else 1) (Enc.isLong op)
    else wordFault w { code := 3, lane := act.headD 0 }

/-- May the next word of a strand's open pick issue (R25, R321)? -/
def wordDue (s : State) (st : Strand) (p : Pick) : Bool :=
  let wv := s.weaveOf st
  wv.ready && !wv.failed && mayIssue s wv && st.fault.isNone && p.busy.isNone

/-- THE NEXT WORD of a strand's open pick: what its decoder makes of it runs. -/
def wordTurn (k : Nat) (s : State) : Out :=
  match s.strands.get? k with
  | none => .next s
  | some st =>
    match st.pick with
    | none => .next s
    | some p =>
      if !wordDue s st p then .next s
      else
        match nextWords p with
        | none => .next s
        | some (w0, w1) =>
          let s1 := { rollWindow s st.core with cursor := k }
          match decode w0 w1 with
          | some i => exec i s1
          | none => .next (illegalWord s1 k st p w0)

/-! ### Time -/

/-- What a cycle adds to a strand's counters: starvation where it was ready and did not issue (R29), the
matrix stall counter where the budget alone held it (R354). -/
def countCycle (s : State) (k : Nat) (st : Strand) : Strand :=
  match standing s st with
  | .ready _ => if (s.core st.core).issued.contains k then st else { st with starve := st.starve + 1 }
  | .held => { st with stall := (st.stall + 1) % 3 ^ 27 }
  | .idle => st

/-- A core at the end of a reference cycle: a stretched cycle of its clock goes on for one more, which its counter
does not count (R6, R355); any other is over. -/
def Core.tick (c : Core) : Core :=
  if c.stretch = 1 then { c with lost := c.lost + 1, stretch := 2 } else { c with stretch := 0, issued := [] }

/-- ONE REFERENCE CYCLE: counters, the allocators of cores with queued grows (R43, R44), the receive buffers of message
units (R386), completions of ATS invalidations (R374), and the clock. -/
def tick (s : State) : State :=
  let s1 := { s with strands := s.strands.map fun (x : Nat × Strand) =>
    (x.1, if (s.core x.2.core).stretch = 1 then x.2 else countCycle s x.1 x.2) }
  let s2 := { s1 with cores := s1.cores.map fun (x : Nat × Core) => (x.1, x.2.tick) }
  let s3 := ((s2.cores.filter fun (x : Nat × Core) => !x.2.growQ.isEmpty).map Prod.fst).foldl allocate s2
  let s4 := ((s3.clusters.filter fun (x : Nat × Cluster) => !x.2.inbox.isEmpty).map Prod.fst).foldl openInbox s3
  { completeInvals s4 with cycle := s4.cycle + 1 }

/-! ### Disturbances -/

/-- A register falls into the invalid two-wire state (R47). -/
def breakReg (s : State) (k : Nat) (r : RegName) : State :=
  s.modStrand k fun st => if st.bad.contains r then st else { st with bad := st.bad ++ [r] }

/-- Bytes of a stored span are in error (R366, R432). -/
def breakSpan (s : State) (die line : Nat) (bytes : List Nat) : State :=
  if !backed s die (81 * line) then s
  else s.modDie die fun d =>
    let x := spanOf d line
    let new := bytes.eraseDups.filter fun i => decide (i < Config.spanBytes) && !x.bad.contains i
    { d with spans := d.spans.put line { x with bad := x.bad ++ new } }

/-- A stored line's entry becomes one of the reserved ones (R367). -/
def breakEntry (s : State) (die line entry : Nat) : State :=
  if !backed s die (81 * line) || decide (entry < 4) || decide (8 < entry) then s
  else s.modDie die fun d => { d with spans := d.spans.put line { spanOf d line with entry } }

/-- Trits of a word that a slice holds are in error, as in a bank whose levels have drifted (R432, R433). -/
def breakSlice (s : State) (die line word trits : Nat) : State :=
  s.modDie die fun d =>
    { d with
      slices := d.slices.map fun x =>
        if x.line = line ∧ word < 27 then { x with bad := x.bad.put word trits } else x }

/-- Trits of a scratchpad word are in error (R432, R433). -/
def breakScratch (s : State) (cluster word trits : Nat) : State :=
  if Config.scratchWords ≤ word then s
  else s.setCluster cluster { s.cluster cluster with bad := (s.cluster cluster).bad.put word trits }

/-- What a turn does of itself. An instruction word runs only as a word of a pick; an event runs by itself. -/
def turnEffect (t : Turn) (s : State) : Out :=
  match t with
  | .act i => if (encode i).isEmpty then exec i s else .next s
  | .word k => wordTurn k s
  | .tick => .next (tick s)
  | .hostWrite a bs => .next (writeHost s a bs)
  | .breakReg k r => .next (breakReg s k r)
  | .breakSpan d l bs => .next (breakSpan s d l bs)
  | .breakEntry d l e => .next (breakEntry s d l e)
  | .breakSlice d l w n => .next (breakSlice s d l w n)
  | .breakScratch c w n => .next (breakScratch s c w n)
  | .bar2Read d o => .next { s with reply := leBytes 4 (readBar2 s d o) }
  | .bar2Write d o v => writeBar2 d o v s

/-- Whatever a turn blocks, the denial test of R44 follows at once. -/
def thenDeny (o : Out) : Out :=
  match o with
  | .next s => .next (denials s)
  | o => o

/-- ONE TURN: what it does, and the denial test, before anything else moves. -/
def turn (t : Turn) (s : State) : Out := thenDeny (turnEffect t s)

end Sys2Proof.Machine
end

