-- ==== Sys2Proof/Machine/Policy.lean ====
section
/-!
DEFINITION. Which turn is next while the agenda is empty: words of open picks first, then an event that would
change the state, then time. It is one order among those that the manual leaves open (log 43).
-/
namespace Sys2Proof.Machine

/-- Would a turn change the state? -/
def moves (t : Turn) (s : State) : Bool :=
  match turn t s with
  | .next s' => !withPtrEq s' s (fun _ => s' == s) fun h => by simp [h]
  | _ => false

/-- Words of open picks, and what ends a strand's waits or delivers its traps. -/
def strandTurns (s : State) : List Turn :=
  s.strands.flatMap fun x =>
    [.word x.1, .act (.trapDelivery x.1), .act (.timerTrap x.1), .act (.strandForced x.1)] ++
      x.2.threads.zipIdx.flatMap fun y =>
        match y.1.status with
        | .asleep _ => [.act (.sleepExpiry x.1 y.2)]
        | .waiting _ => [.act (.waitwEnd x.1 y.2)]
        | _ => []

def opTurns (s : State) : List Turn :=
  s.ops.flatMap fun x =>
    match x.2.unit with
    | .copy => [.act (.copyComplete x.1), .act (.copyLine x.1)]
    | .transform => [.act (.transformComplete x.1), .act (.transformStage x.1)]
    | .matrix => [.act (.matrixStart x.1), .act (.matrixComplete x.1 [])]
    | .message => [.act (.messageAccept x.1), .act (.messageSend x.1)]
    | .none => []

def packetTurns (s : State) : List Turn :=
  (s.packets.map fun x =>
    if x.2.at_ ≠ x.2.dst then .act (.packetForward x.1)
    else
      match x.2.type with
      | .read => .act (.peerRead x.1)
      | .write => .act (.peerWrite x.1)
      | .atomic => .act (.peerAtomic x.1)
      | .dataResponse => .act (.dataResponse x.1)
      | .acknowledgement => .act (.acknowledgement x.1)
      | .refusal => .act (.refusal x.1)
      | .slotReady => .act (.slotReady x.1)
      | .message => .act (.message x.1)
      | .messageAccepted => .act (.messageAccepted x.1)
      | .messageRefused => .act (.messageRefused x.1)) ++
    (s.links.filter fun x => !x.2.queue.isEmpty).map fun x => .act (.beatReceive x.1 [])

/-- The event of a command by its opcode. -/
def cmdTurn (n : Nat) (c : Cmd) : Turn :=
  match cmdOp c with
  | 0 => .act (.bqiNop n)
  | 1 => .act (.launch n)
  | 2 => .act (.graphCreate n)
  | 3 => .act (.graphRun n)
  | 4 => .act (.graphDestroy n)
  | 5 => .act (.copy n)
  | 6 => .act (.wait n)
  | 7 => .act (.signal n)
  | 0x100 => .act (.query n)
  | 0x101 => .act (.contextCreate n)
  | 0x102 => .act (.contextDestroy n)
  | 0x103 => .act (.contextResume n)
  | 0x104 => .act (.queueCreate n)
  | 0x105 => .act (.queueDestroy n)
  | 0x106 => .act (.exportMem n)
  | 0x107 => .act (.importHandle n)
  | 0x108 => .act (.revoke n)
  | 0x109 => .act (.invalidate n)
  | 0x10A => .act (.preempt n)
  | 0x10C => .act (.codeLoad n)
  | 0x10D => .act (.contextSpill n)
  | _ =>
    match cmdNat c 24 2 with
    | 2 => .act (.setContextWatchdog n)
    | 3 => .act (.setDrainDeadline n)
    | 4 => .act (.setSwapDeadline n)
    | 5 => .act (.setQuantum n)
    | 6 => .act (.setHandlerSlots n)
    | 7 => .act (.setMatrixBudget n)
    | _ => .act (.setPartitionMode n)

/-- Commands, rings, and data that host memory has for a translated read. -/
def hostTurns (s : State) : List Turn :=
  s.cmds.flatMap (fun x => [.act (.commandCompletion x.1), cmdTurn x.1 x.2]) ++
    (List.range 8).map (fun d => .act (.commandFetch (adminKey d))) ++
    s.queues.map (fun x => .act (.commandFetch x.1)) ++
    (s.accs.filter fun a => a.peer.isNone && a.kind == .load && a.phase == .ready).map fun a =>
      .act (.hostReadCompletion a.group a.lane)

/-- The scheduler's events: halts and deadlines, partitions, dispatch, prologues, groups, watchdogs. -/
def schedTurns (s : State) : List Turn :=
  let parts := (List.range 8).flatMap fun d => (List.range 3).map fun p => (d, p)
  parts.flatMap (fun x => if (s.part x.1 x.2).phase = .free then [.act (.partitionAssign x.1 x.2)] else
    [.act (.skidBoundExpiry x.1 x.2), .act (.swapOutComplete x.1 x.2), .act (.swapDeadlineExpiry x.1 x.2),
     .act (.drainDeadlineExpiry x.1 x.2), .act (.quantumExpiry x.1 x.2)]) ++
    s.contexts.flatMap (fun x => [.act (.resume x.1), .act (.weaveDispatch x.1), .act (.contextWatchdog x.1)]) ++
    s.weaves.flatMap (fun x => if x.2.ready then [] else [.act (.prologueBinding x.1), .act (.prologueComplete x.1)]) ++
    s.graphs.flatMap (fun x => (List.range x.2.nodes.length).map fun n => .act (.groupFormTimeout x.1 n)) ++
    s.ops.map (fun x => .act (.operationWatchdog x.1)) ++
    s.cores.map (fun x => .act (.matrixEngineReset x.1)) ++
    (List.range 8).flatMap fun d => (s.die d).tracker.reserved.map fun r => .act (.ticketReservationExpiry d r.1)

/-- A pick on each core that holds strands. -/
def pickTurns (s : State) : List Turn :=
  ((s.strands.map fun x => x.2.core).eraseDups).map fun c => .act (.issuePick c)

/-- The first turn that would change something, else a cycle of time. -/
def nextTurn (s : State) : Turn :=
  ((strandTurns s ++ opTurns s ++ packetTurns s ++ hostTurns s ++ schedTurns s ++ pickTurns s).find? fun t =>
    moves t s).getD .tick

end Sys2Proof.Machine
end

