-- ==== Sys2Proof/Machine/Step.lean ====
section
/-!
DEFINITION. One step of the machine, and a state whose next step runs a given instruction.
-/
namespace Sys2Proof.Machine

/-- ONE STEP: the head of the agenda, or the policy's turn while the agenda is empty. -/
def step (s : State) : Host.Outcome State Fault Refusal :=
  match s.agenda with
  | [] => turn (nextTurn s) s
  | t :: rest => turn t { s with agenda := rest }

/-- A context whose tables map nothing, with the whole of die 0 running it: what a word finds around it. -/
def hostedContext : Context :=
  { root := List.replicate 9 0, stopBase := -3 ^ 44, stopSize := 27, handlerTab := 0, handleTab := -3 ^ 44 }

def hostedWeave : Weave :=
  { die := 0, ctx := 0, launch := 0, part := 0, cluster := 0, len := 81, codeBase := -3 ^ 44, codeSize := 81 }

/-- A strand of 32 ready threads with every register and tile, in the midst of a clause of these words. -/
def hostedStrand (weave : Nat) (words : List Int) : Strand :=
  { weave, number := 0, core := 0, granules := 27, tiles := (List.range 9).map fun d => (d, {}),
    threads := List.replicate 32 { status := .ready },
    pick := some { header := 0, pos := 0, lanes := List.range 32, words, flagA := some 0, flagB := some 1 } }

/-- The state with one instruction as the next word of an open pick on core 0 of die 0. A program comes to
run by commands of the host (R416, R420), so the context, weave and strand that hold the pick are placed
with it (log 44). -/
def State.withFetchWord (s : State) (_nbits w : Nat) : State :=
  match tableWords w with
  | none => s
  | some (w0, w1) =>
    let k := s.nextId + 1
    let words := if Enc.isL (Enc.opOf w0) then [w0, w1] else [w0]
    let d := s.die 0
    { s.setDie 0 { d with parts := d.parts.set 0 { phase := .run } } with
      nextId := s.nextId + 2
      contexts := s.contexts.put 0 hostedContext
      weaves := s.weaves.put s.nextId hostedWeave
      strands := s.strands.put k (hostedStrand s.nextId words)
      agenda := .word k :: s.agenda }

end Sys2Proof.Machine
end

