-- ==== Sys2Proof/Safety.lean ====
section
/-!
DEFINITION. The terms in which statements speak: a word that may issue, what is left when a word is
over, the form that memory keeps, a number rounded once, where the elements of copies lie and what they
become, what the records of a halt hold, and a command that starts.
-/
namespace Sys2Proof.Machine

/-- A trit literal, most significant trit first (R171). -/
def litWord (ts : List Int) : Int := ofTrits ts.reverse

/-! ### Memory -/

/-- Host memory strictly rises by address from a bound and lists no zero byte. -/
def hostRising : Nat → List Host.Cell → Bool
  | _, [] => true
  | b, (a, v) :: r => decide (b ≤ a) && v != 0 && hostRising (a + 1) r

/-- The canonical form of both memories: addresses strictly rising, and nothing listed that an unlisted
address would read as. -/
def Memory.wf (s : State) : Bool := s.mem.wf && hostRising 0 s.host

/-! ### Words -/

/-- Instruction words have an encoding; events have none. -/
def isWord (i : Instr) : Bool := !(encode i).isEmpty

/-- The lanes of a pick that pass a word's guard (R163). -/
def activeOf (i : Instr) (st : Strand) (p : Pick) : List Nat :=
  p.lanes.filter fun l => passes (guardOfInstr i) (st.thread l)

/-- The cursor's strand has an open pick, no fault of its own, and no word still in progress. -/
structure AtWord (s : State) (st : Strand) (p : Pick) : Prop where
  strand : s.strands.get? s.cursor = some st
  pick : st.pick = some p
  sound : st.fault = none
  idle : p.busy = none

/-- A WORD THAT MAY ISSUE: its guard's register holds valid trits (R47), some lane is active (R163), the tiles it names are
declared (R52), its registers lie within the allocation (R41), no operation in flight still writes them (R155), and those it
reads hold valid trits (R47). -/
structure Issues (i : Instr) (s : State) (st : Strand) (p : Pick) : Prop extends AtWord s st p where
  guard : badGuard st p.lanes (guardOfInstr i) = none
  active : activeOf i st p ≠ []
  tiles : tilesOk st (uses i) = true
  alloc : allocOk st (uses i) = true
  free : waitsFor s s.cursor st (activeOf i st p) i = false
  valid : invalidReg st (activeOf i st p) i = none

/-! ### What is left when a word is over -/

/-- A thread without what the progress of its pick moves: its PC, position and taken target. -/
def Thread.still (t : Thread) : Thread := { t with pc := 0, pos := 0, jump := none }

/-- A strand without what the progress of its pick moves, and without the marks of invalid registers. -/
def Strand.still (st : Strand) : Strand :=
  { st with threads := st.threads.map Thread.still, pick := none, yielded := false, bad := [] }

/-- Where a thread rests when its pick has closed (R25): at its taken target, or after the clause. -/
def restsAt (p : Pick) (t : Thread) : Thread :=
  { t with pc := t.jump.getD (p.header + 3 * (p.words.length + 1)), pos := 0, jump := none }

/-- THE WORD IS OVER (R25): `st'` is `st` but for its pick, which has gone past the word's one or two words, or
has closed after its last word or with its last lane; then its lanes rest. Marks of invalid registers can
only have gone. -/
structure Finished (i : Instr) (st st' : Strand) : Prop where
  still : st'.still = st.still
  marks : ∀ r, r ∈ st'.bad → r ∈ st.bad
  goesOn : ∀ p, st.pick = some p → p.lanes ≠ [] → p.pos + (encode i).length < p.words.length →
    st'.threads = st.threads ∧ st'.yielded = st.yielded ∧
      st'.pick = some { p with pos := p.pos + (encode i).length, busy := none,
                               longs := p.longs + (if isLongInstr i then 1 else 0) }
  closes : ∀ p, st.pick = some p → (p.lanes = [] ∨ p.words.length ≤ p.pos + (encode i).length) →
    st'.pick = none ∧ st'.yielded = p.yield ∧
      ∀ l, l < st.threads.length → st'.thread l = if l ∈ p.lanes then restsAt p (st.thread l) else st.thread l

/-- THE WORD RUNS: exec answers the state `s₁`, in which the cursor's strand is `st₁` with the word over. -/
def WordRuns (i : Instr) (s s₁ : State) (st₁ : Strand) : Prop :=
  ∃ st', exec i s = .next (s₁.setStrand s.cursor st') ∧ Finished i st₁ st'

/-- A word on lanes and strand state alone: whenever it may issue, it runs and leaves the strand `f st act`
and everything else as it was. -/
def StrandBecomes (i : Instr) (s : State) (f : Strand → List Nat → Strand) : Prop :=
  ∀ st p, Issues i s st p → WordRuns i s s (f st (activeOf i st p))

/-- A lane word: every active lane's thread becomes `(f st l t).t`, every lane reading the strand before the
word (R15), and the exceptions that the lanes signal may raise a trap. -/
def LanesBecome (i : Instr) (trp : Bool) (s : State) (f : Strand → Nat → Thread → LaneOut) : Prop :=
  StrandBecomes i s fun st act =>
    raiseArith (st.modThreads act fun l t => (f st l t).t) trp (act.map fun l => (l, (f st l (st.thread l)).exn))

/-- What the meaning of a word sees when it issues. -/
def wordOf (i : Instr) (s : State) (st : Strand) (p : Pick) : Word_ :=
  ⟨s, s.cursor, st, activeOf i st p, p.header, p.pos⟩

/-- A word that acts beyond its strand: whenever it may issue and `ok` holds, it runs in the state that `f` gives. -/
def StateBecomes (i : Instr) (s : State) (ok : Word_ → Prop) (f : Word_ → State) : Prop :=
  ∀ st p, Issues i s st p → ok (wordOf i s st p) →
    ∃ st₁, (f (wordOf i s st p)).strands.get? s.cursor = some st₁ ∧ WordRuns i s (f (wordOf i s st p)) st₁

/-- A word that may issue but not complete: whenever `bad` names a fault, the fault is raised at this word. -/
def WordFaults (i : Instr) (s : State) (bad : Word_ → FaultInfo → Prop) : Prop :=
  ∀ st p f, Issues i s st p → bad (wordOf i s st p) f → exec i s = .next (wordFault (wordOf i s st p) f)

/-- A word that may issue and that reads page tables before it is found not to complete: whenever `bad` names a fault and
the state that these reads leave, the fault is raised at this word in that state. -/
def WordFaultsIn (i : Instr) (s : State) (bad : Word_ → FaultInfo → State → Prop) : Prop :=
  ∀ st p f s₁, Issues i s st p → bad (wordOf i s st p) f s₁ →
    exec i s = .next (wordFault { wordOf i s st p with s := s₁ } f)

/-! ### Results of lanes -/

/-- A lane that receives exact element values fitted by a modifier, with c0 (R182). -/
def fitted (t : IType) (m : Fit) (d : Nat) (th : Thread) (xs : List Int) : LaneOut :=
  let r := fitAll t m xs
  { t := (vIput th t d r.value).setCond 0 r.cond, exn := if r.overflowed then [.overflow] else [] }

/-- A lane that receives elements that fit, and no condition. -/
def placed (t : IType) (d : Nat) (th : Thread) (xs : List Int) : LaneOut := { t := vIput th t d (ofElems t xs) }

/-- A lane that receives elements fitted one by one, with c0 and without a trap. -/
def limited (t : IType) (d : Nat) (th : Thread) (fs : List Fitted) : LaneOut :=
  let r := packFits t fs
  { t := (vIput th t d r.value).setCond 0 r.cond }

/-- A lane that receives float results with c0 (R78, R207). -/
def floated (t : FType) (d : Nat) (th : Thread) (rs : List FRes) : LaneOut :=
  { t := (th.vput d (ofFelems t (rs.map (·.w)))).setCond 0 (fcond rs), exn := rs.filterMap (·.exn) }

/-! ### Rounding (R75, R76) -/

/-- A REAL NUMBER ROUNDED ONCE: `sg` is its sign, which is not 0, and `c a k` the sign of its magnitude less a/2 · 3^k. The
grid is that of trunc's exponent, the point taken on it the nearest, of two the one nearer to zero; beyond the largest value
the result is the infinity or, saturating, that value, and signals; else it is an encoding of the point. -/
def RoundedOnce (f : Fmt) (sat : Bool) (sg : Int) (c : Nat → Int → Int) (r : FRes) : Prop :=
  ∃ (e₀ : Int) (S : Nat),
    let k := max (-f.emax) (min f.emax e₀) - f.p + 1
    (0 ≤ c (3 ^ (f.p - 1)) (e₀ - f.p + 1) ∧ c (3 ^ f.p) (e₀ - f.p + 1) < 0) ∧
    (c (2 * S + 1) k ≤ 0 ∧ (S ≠ 0 → 0 < c (2 * S - 1) k)) ∧
    (half f.p < S → r =
      { w := fencode f f.emax (if sat then sg * half f.p else sg), ovf := sg, exn := some .overflow, sign := sg }) ∧
    (S ≤ half f.p → r.ovf = 0 ∧ r.exn = none ∧ r.sign = (if S = 0 then 0 else sg) ∧ fits f.n r.w = true ∧
      ∃ m e, fdecode f r.w = .fin m e ∧ m * 3 ^ (e - k).toNat = sg * S * 3 ^ (k - e).toNat)

/-- The comparison of the n-th root of |x|. -/
def rootCmp (n : Nat) (x : Exact) (a : Nat) (k : Int) : Int :=
  ((2 ^ n * x.num.natAbs * 3 ^ (x.exp - n * k).toNat : Nat) - (a ^ n * x.den * 3 ^ (n * k - x.exp).toNat : Nat) : Int).sign

/-- The comparison of the magnitude of the logarithm of u / v to base three, u and v positive. -/
def logCmp (u v : Nat) (a : Nat) (k : Int) : Int :=
  let n := 2 * 3 ^ (-k).toNat
  ((max u v ^ n : Nat) - (3 ^ (a * 3 ^ k.toNat) * min u v ^ n : Nat) : Int).sign

/-! ### Engine operations -/

/-- The operation that a word hands to an engine, before its operands are read (R55, R154, R277). -/
def newOp (i : Instr) (unit : Unit_) (w : Word_) : EngOp :=
  let wv := w.s.weaveOf w.st
  { i, w0 := (issuedWords w i).1, w1 := (issuedWords w i).2, unit, strand := some w.k, weave := w.st.weave,
    die := wv.die, ctx := wv.ctx, cluster := clusterOf w.st.core, core := w.st.core,
    flag := (w.st.pick.map flagFor).getD 0, lanes := w.act, slots := wv.slots,
    issuedAt := (counter w.s w.st.core).toNat, movedAt := (counter w.s w.st.core).toNat }

/-- The state in which a word has queued an operation: its flag is set, and the operation stands under the
next number. A matrix word uses one of its core's budget (R354). -/
def queued (i : Instr) (w : Word_) (o : EngOp) : State :=
  let s1 := w.s.setStrand w.k { w.st with flags := w.st.flags.set ((w.st.pick.map flagFor).getD 0) true }
  useBudget { s1 with ops := s1.ops.put s1.nextId o, nextId := s1.nextId + 1 } w.st.core i

/-! ### Copies (R279, R282 to R287, R289 to R292, R305, R306) -/

/-- Component `i` of the index vector of element `e` in copy order (R282): the extents stand in a block of `step` words a
dimension, `ext` words from its start. -/
def copyIx (step ext : Nat) (block : List Int) (i e : Nat) : Nat :=
  let n (j : Nat) : Nat := (block.getD (step * j + ext) 0).toNat
  e / ((List.range i).map n).foldl (· * ·) 1 % n i

/-- Σ x_i · stride_i for element `e`, the strides standing `at_` words from the start. -/
def copyOff (step ext at_ : Nat) (block : List Int) (dims e : Nat) : Int :=
  ((List.range dims).map fun i => (copyIx step ext block i e : Int) * block.getD (step * i + at_) 0).sum

/-- R279: where element `e` of a ternary side lies: trytes from a device pointer, or a word, a tryte of one, or two of the
weave's window; an index outside the window is the protection fault. -/
def SidesLie : Prop :=
  ∀ (s : State) (o : EngOp) (want : Want) (t : EType) (base e : Int),
    let tryte : Bool := t == .t9 || t == .f9
    let q : Int := base + if tryte then e / 3 else if t = .p then 2 * e else e
    let n : Int := if t = .p then 2 else 1
    let z : Nat := if tryte then 1 else if t = .p then 6 else 3
    locate s o want false t base e = opDevice s o want base (z * e) z ∧
    ∀ wv, s.weaves.get? o.weave = some wv → 0 ≤ base → base ≤ 177146 → wv.base + wv.len ≤ 177147 → fits 44 q = true →
      (wv.base ≤ q → q + n ≤ wv.base + wv.len → locate s o want true t base e =
        .ok (if tryte then .tryte q.toNat (e % 3).toNat else if t = .p then .pair q.toNat else .win q.toNat)) ∧
      (q < wv.base ∨ wv.base + wv.len < q + n → locate s o want true t base e = .error (2, some (addrOf q)))

/-- R148, R282, R283, R286, R287: the places that element `e` of a cpt, cpf or cpm reads and writes, and what it leaves
where no side is in host space. -/
def CopiesPlace : Prop :=
  ∀ (s : State) (o : EngOp) (e : Nat) (g : Guard) (t : EType) (sat : Bool) (d a b : Nat) (x : CopyCtl) (common : List Int) (v : Int),
    let word (j : Nat) : Int := o.block.getD (3 * x.dims + j) 0
    let one (l : EngRes Loc) : EngRes (List Loc) := l.map fun l => [l]
    let col (i : Nat) : Nat := if i < x.dims then copyIx 3 0 o.block i e else 0
    let written : Prop :=
      (x.map = none → copyDst s o e = locate s o .write x.dstSp t o.vd (copyOff 3 0 2 o.block x.dims e)) ∧
      (∀ m, x.map.isSome = true → readMap (word 0) (word 1) = some m →
        copyDst s o e = (opWindow s o o.vd
          (m.base + col 2 * m.tilePitch + col 1 * m.rowPitch + (col 0 + m.rot * col 1) % 27 : Nat) 1).map .win)
    (o.i = .cpt g t sat d a b x → x.kind = none →
      written ∧ copySrc s o e = one (locate s o .read x.srcSp t o.va (copyOff 3 0 1 o.block x.dims e)) ∧
      copyVal s o common e [v] = .ok (.val v)) ∧
    (o.i = .cpf g t d a b x →
      written ∧ copySrc s o e = .ok [] ∧
      ∃ y, copyVal s o common e [] = .ok (.val y) ∧
        if t = .t9 ∨ t = .f9 then fits 9 y = true ∧ (o.va - y) % 3 ^ 9 = 0 else y = o.va) ∧
    (o.i = .cpm g t d a b x →
      let n : Nat := ((List.range x.dims).map fun i => (o.block.getD (3 * i) 0).toNat).foldl (· * ·) 1
      let u : Nat := if x.option then 2 * n else n
      let r : Nat := e / u
      let own : Prop := n ≤ e % u
      let f : Nat := e % u % n
      copyTotal s o = (word 0).toNat * u ∧
      (own → copyDst s o e = locate s o .write x.dstSp t o.vd (copyOff 3 0 2 o.block x.dims f + r * word 2 + word 3) ∧
        copySrc s o e = one (locate s o .read x.srcSp t o.va (copyOff 3 0 1 o.block x.dims f + r * word 1)) ∧
        copyVal s o common e [v] = .ok (.val v) ∧ copyCommon o common e v = common) ∧
      (¬ own → copyDst s o e = locate s o .write x.dstSp t o.vd (copyOff 3 0 2 o.block x.dims f + r * word 2) ∧
        (r = 0 → copySrc s o e = one (locate s o .read x.srcSp t o.va (copyOff 3 0 1 o.block x.dims f)) ∧
          copyVal s o common e [v] = .ok (.val v) ∧ copyCommon o common e v = common.take f ++ [v]) ∧
        (r ≠ 0 → copySrc s o e = .ok [] ∧ copyVal s o common e [] = .ok (.val (common.getD f 0)))))

/-- R87, R284, R285: element `e` of a cpt with a host side, which lies at its own bytes, or in a stream at the bytes that
hold its trits, and what it leaves. A range exception leaves the saturated value, or, trapping with the range trit set,
nothing but its source address; a byte that no value has is the data-integrity fault. -/
def HostCopies : Prop :=
  ∀ (s : State) (o : EngOp) (e : Nat) (g : Guard) (t : EType) (sat : Bool) (d a b : Nat) (x : CopyCtl) (k : Kind)
      (common : List Int) (v : Int),
    o.i = .cpt g t sat d a b x → x.kind = some k →
    let from_ : Bool := !x.srcSp && spaceOf o.va == 0
    let to_ : Bool := !x.dstSp && spaceOf o.vd == 0
    from_ ≠ to_ →
    let traps : Prop := sat = false ∧ o.trapOk = true
    let w : Nat := 9 * trytesOf t
    let side (base stride : Int) : EngRes Nat :=
      if x.option then opHost s o base (w * e / 5 : Nat) ((w * e + w - 1) / 5 - w * e / 5 + 1) 1
      else opHost s o base (kindBytes k t * stride) (kindBytes k t) (kindAlign k t)
    let n : Nat := if x.option then (w * e + w - 1) / 5 - w * e / 5 + 1 else kindBytes k t
    let low : Nat := w * e % 5
    let number (bs : List Nat) : Nat := (bs.zipIdx.map fun y => y.1 * 243 ^ y.2).sum
    (from_ = true → copySrc s o e = .ok [] ∧
      ∀ adr, side o.va (copyOff 3 0 1 o.block x.dims e) = .ok adr →
        let bs : List Nat := (List.range n).map fun i => hostByte s (adr + i)
        (x.option = false →
          (∀ y, fromHost k t bs = .ok y → copyVal s o common e [] = .ok (.val y)) ∧
          (∀ y, fromHost k t bs = .range y →
            (traps → copyVal s o common e [] = .ok (.keep adr)) ∧ (¬ traps → copyVal s o common e [] = .ok (.val y))) ∧
          (∀ i, fromHost k t bs = .bad i → copyVal s o common e [] = .error (7, some (adr : Int)))) ∧
        (x.option = true →
          ((∃ y ∈ bs, 242 < y) → copyVal s o common e [] = .error (7, some (adr : Int))) ∧
          ((∀ y ∈ bs, y ≤ 242) →
            let full : Prop := number bs / 3 ^ low / 3 ^ w = (3 ^ (5 * n - low - w) - 1) / 2
            (e + 1 ≠ copyTotal s o ∨ full → copyVal s o common e [] = .ok (.val ((number bs / 3 ^ low % 3 ^ w : Nat) - half w))) ∧
            (e + 1 = copyTotal s o → ¬ full → copyVal s o common e [] = .error (7, some (adr : Int)))))) ∧
    (to_ = true → copySrc s o e = (locate s o .read x.srcSp t o.va (copyOff 3 0 1 o.block x.dims e)).map (fun l => [l]) ∧
      ∀ adr, side o.vd (copyOff 3 0 2 o.block x.dims e) = .ok adr → copyDst s o e = .ok (.host adr n) ∧
        (x.option = false →
          (∀ bs, toHost k t v = .ok bs → copyVal s o common e [v] = .ok (.bytes adr bs)) ∧
          (∀ bs, toHost k t v = .range bs →
            (traps → ∃ hit, copyVal s o common e [v] = .ok (.keep hit) ∧
              (x.srcSp = false → hit = o.va + trytesOf t * copyOff 3 0 1 o.block x.dims e)) ∧
            (¬ traps → copyVal s o common e [v] = .ok (.bytes adr bs)))) ∧
        (x.option = true → fits w v = true → ∃ bs, copyVal s o common e [v] = .ok (.bytes adr bs) ∧ bs.length = n ∧ (∀ y ∈ bs, y < 243) ∧
          number bs % 3 ^ low = hostByte s adr % 3 ^ low ∧ number bs / 3 ^ low % 3 ^ w = offset v w ∧
          number bs / 3 ^ low / 3 ^ w = (3 ^ (5 * n - low - w) - 1) / 2))

/-- R83, R145, R146, R290 to R292: output element `e` of a cpg: where it lies, the table's weights, the input element that
each combination of taps pairs with it, first dimension innermost, and the one rounding of the exact sum. -/
def GridsForm : Prop :=
  (∀ w0 w1 w2 w3 : Int, readTaps w0 w1 w2 w3 =
    if idx w0 19 3 ≤ 8 ∧ idx w0 16 3 ≤ idx w0 19 3 ∧ sgd w0 0 16 = 0 then
      some ⟨sgd w0 22 5, idx w0 16 3, (List.range (idx w0 19 3 + 1)).map fun j => elem 9 ([w1, w2, w3].getD (j / 3) 0) (j % 3)⟩
    else none) ∧
  ∀ (s : State) (o : EngOp) (e : Nat) (g : Guard) (t : EType) (sat : Bool) (d a b : Nat) (x : GridCtl),
    o.i = .cpg g t sat d a b x →
    let restricts : Bool := x.mode == .restrict
    let out : Nat := if restricts then 0 else 1
    let at_ : EngRes Loc := locate s o .write x.dstSp t o.vd (copyOff 4 out (out + 2) o.block x.dims e)
    let size (i : Nat) : Int := o.block.getD (4 * i + (1 - out)) 0
    let sigma (i : Nat) : Int := if x.stride.getD i false then 3 else 1
    copyDst s o e = at_ ∧
    (∀ (j : Nat) (taps : List Taps), opWindow s o (o.block.getD (4 * x.dims) 0) 0 12 = .ok j → taps.length = x.dims →
      (∀ i tp, taps[i]? = some tp → ∃ w0 w1 w2 w3, opWord s o (j + 4 * i) = .ok w0 ∧ opWord s o (j + 4 * i + 1) = .ok w1 ∧
        opWord s o (j + 4 * i + 2) = .ok w2 ∧ opWord s o (j + 4 * i + 3) = .ok w3 ∧ readTaps w0 w1 w2 w3 = some tp) →
      tableOf s o x.dims = .ok taps) ∧
    (∀ taps : List Taps, tableOf s o x.dims = .ok taps →
      let tp (i : Nat) : Taps := taps.getD i ⟨0, 0, []⟩
      let count (i : Nat) : Nat := ((List.range i).map fun k => (tp k).nums.length).foldl (· * ·) 1
      let tap (c i : Nat) : Nat := c / count i % (tp i).nums.length
      let pairs (c i : Nat) : Option Int :=
        let p : Int := copyIx 4 out o.block i e
        let m : Int := p - tap c i + (tp i).centre
        let q : Option Int := if restricts then some (sigma i * p + tap c i - (tp i).centre)
          else if m % sigma i = 0 then some (m / sigma i) else none
        q.bind fun q =>
          if 0 ≤ q ∧ q < size i then some q
          else match x.boundary with
            | .zero => none
            | .clamp => some (max 0 (min (size i - 1) q))
            | .halo => some q
      let term (c : Nat) : EngRes (List (FVal × Loc)) :=
        match (List.range x.dims).mapM (pairs c) with
        | none => .ok []
        | some qs => (locate s o .read x.srcSp x.src o.va
            ((List.range x.dims).map fun i => qs.getD i 0 * o.block.getD (4 * i + (3 - out)) 0).sum).map fun l =>
          [(FVal.fin (((List.range x.dims).map fun i => (tp i).nums.getD (tap c i) 0).foldl (· * ·) 1)
            ((taps.map (·.exp)).sum), l)]
      cpgTerms s o x e = ((List.range (count x.dims)).mapM term).map List.flatten) ∧
    (∀ ts vs common, cpgTerms s o x e = .ok ts →
      let adds : Bool := x.mode == .prolongAdd
      let sum : List (List FVal) := (if adds then [[gridVal t (vs.headD 0)]] else []) ++
        List.zipWith (fun (y : FVal × Loc) (v : Int) => [y.1, gridVal x.src v]) ts (if adds then vs.drop 1 else vs)
      let value (y : Int) : Prop := copyVal s o common e vs = .ok (.val y)
      copySrc s o e = (if adds then (locate s o .read x.dstSp t o.vd (copyOff 4 out (out + 2) o.block x.dims e)).map (· :: ts.map Prod.snd)
        else .ok (ts.map Prod.snd)) ∧
      (t = .f9 → value (fsum fmt9 sat sum).w) ∧ (t = .f27 → value (fsum fmt27 sat sum).w) ∧
      (t = .t9 ∨ t = .t27 →
        let n : Nat := if t = .t9 then 9 else 27
        (∀ m k, sumGroup sum = .val (.fin m k) → ∃ q : Int,
          2 * (m * 3 ^ k.toNat - q * 3 ^ (-k).toNat).natAbs < 3 ^ (-k).toNat + 1 ∧
          value (max (-half n) (min (half n) q))) ∧
        (∀ σ, sumGroup sum = .val (.inf σ) → value (σ * half n)) ∧
        ((∃ p y, sumGroup sum = .nan p y) ∨ sumGroup sum = .invalid → value 0))) ∧
    (∀ w : Int, gridVal .t27 w = .fin w 0 ∧ gridVal .f27 w = fdecode fmt27 w ∧
      ∀ y : Int, fits 9 y = true → (w - y) % 3 ^ 9 = 0 → gridVal .t9 w = .fin y 0 ∧ gridVal .f9 w = fdecode fmt9 y)

/-- R129, R306: the stored tile of an mst: its descriptor by the tile's format and the type, and its words. -/
def TilesStore : Prop :=
  ∀ (s : State) (o : EngOp) (g : Guard) (t : EType) (sat : Bool) (d a : Nat) (x : MoveCtl) (tl : Tile) (common : List Int),
    o.i = .mst g t sat d a x → tileOf s o d = some tl →
    let plain : List (Nat × EType × Nat) := [(0, .t27, 3), (0, .t9, 2), (1, .f27, 5), (1, .f9, 4)]
    let complex : List (Nat × EType × Nat) := [(2, .f27, 7), (2, .f9, 6)]
    let legal (f : Nat) : Prop := idx tl.attr 22 2 ≤ 1 ∧ idx tl.attr 20 2 ≤ 4 ∧ ((idx tl.attr 24 3, t, f) ∈ plain ∨
      ((idx tl.attr 24 3, t, f) ∈ complex ∧ d % 2 = 0 ∧ (tileOf s o (d + 1)).isSome = true))
    let desc (f : Nat) : Desc :=
      { fmt := f, spectral := idx tl.attr 22 2 == 1, scale := sgd tl.attr 15 5, half_ := x.half, rows := x.rows, cols := x.cols
        block := if idx tl.attr 20 2 = 0 then 0 else idx tl.attr 20 2 + 1 }
    ((∀ f, ¬ legal f) → copyCheck s o = .error (8, none)) ∧
    (∀ f c, legal f → checkDesc (descWord (desc f)) = .error c → copyCheck s o = .error (8, none)) ∧
    (∀ f ds, legal f → checkDesc (descWord (desc f)) = .ok ds →
      let m : Nat := 27 / fmtTrits f
      let plane : Nat := (x.rows * x.cols + m - 1) / m
      copyCheck s o = .ok () ∧ copyTotal s o = 1 + (if f = 6 ∨ f = 7 then 2 else 1) * plane ∧
      (∀ e, copyDst s o e = locate s o .write x.sp .t27 o.va e) ∧
      copyVal s o common 0 [] = .ok (.val (descWord (desc f))) ∧
      ∀ e, 0 < e → ∃ el : Nat → Int, copyVal s o common e [] = .ok (.val (packElems (fmtTrits f) ((List.range m).map el))) ∧
        ∀ k, k < m →
          let p : Nat := m * ((e - 1) % plane) + k
          let w : Int := ((tileOf s o (d + (e - 1) / plane)).getD {}).w.get (27 * (p / x.cols) + p % x.cols)
          (x.rows * x.cols ≤ p → el k = 0) ∧
          (p < x.rows * x.cols →
            (f = 3 ∨ f = 5 ∨ f = 7 → el k = w) ∧
            (f = 2 → if sat then el k = max (-half 9) (min (half 9) w) else fits 9 (el k) = true ∧ (w - el k) % 3 ^ 9 = 0) ∧
            (f = 4 ∨ f = 6 →
              (∀ n h, fdecode fmt27 w = .fin n h → el k = (roundTo fmt9 sat ⟨n, 1, h⟩).w) ∧
              (∀ σ, fdecode fmt27 w = .inf σ → el k = fencode fmt9 13 σ) ∧
              (∀ q y, fdecode fmt27 w = .nan q y → el k = encNan fmt9 q y))))

/-- R53, R305: a row of a mld whose words are at hand: the elements' exact values stand in the tile's row, the first row
clears the rest, and the attribute takes the descriptor's fields, written and with its sticky trits clean. -/
def TilesLoad : Prop :=
  (∀ (r : LineOut) (o : EngOp) (sp : Bool) (ds : Desc) (pl i j : Nat) (w : Int),
    let m : Nat := 27 / fmtTrits ds.fmt
    let e : Nat := i * ds.cols + j
    sideWord r o sp o.va (1 + pl * ds.planeWords + e / m) = .ok w →
    let x : Int := if m = 1 then w else elem (fmtTrits ds.fmt) w (e % m)
    (ds.fmt ≠ 4 → ds.fmt ≠ 6 → mldElem r o sp ds pl i j = .ok x) ∧
    (ds.fmt = 4 ∨ ds.fmt = 6 → ∃ y, mldElem r o sp ds pl i j = .ok y ∧
      (∀ n h, fdecode fmt9 x = .fin n h → ∃ n' h', fdecode fmt27 y = .fin n' h' ∧ n * 3 ^ (h - h').toNat = n' * 3 ^ (h' - h).toNat) ∧
      (∀ σ, fdecode fmt9 x = .inf σ → y = fencode fmt27 121 σ) ∧
      (∀ q z, fdecode fmt9 x = .nan q z → y = fencode fmt27 121 (z * 3 ^ 16)))) ∧
  ∀ (s : State) (n k d : Nat) (o : EngOp) (sp : Bool) (w : Int) (ds : Desc) (st : Strand) (v : Nat → Nat → Int),
    s.ops.get? n = some o → o.common = [w] → checkDesc w = .ok ds → ds.cols ≤ 27 → o.strand = some k →
    s.strands.get? k = some st →
    let i : Nat := o.prog / ds.cols
    let planes : Nat := if 6 ≤ ds.fmt then 2 else 1
    (∀ pl, pl < planes → (st.tiles.get? (d + pl)).isSome = true ∧
      ∀ t, st.tiles.get? (d + pl) = some t → t.w.wf = true) →
    (∀ pl j, pl < planes → j < ds.cols → mldElem (LineOut.of s n o) o sp ds pl i j = .ok (v pl j)) →
    wantsPull s n o ((beforeStop ((rowWords ds i).map fun e => sideLoc s o .read sp o.va e)).1) = none →
    ∃ s' st' o', mldRow s n o d sp = .ok s' ∧ s'.mem = s.mem ∧ s'.strands.get? k = some st' ∧
      s'.ops.get? n = some o' ∧ o'.prog = o.prog + ds.cols ∧
      o'.phase = (if o.prog + ds.cols = ds.rows * ds.cols then .written else .active) ∧
      ∀ pl t, pl < planes → st.tiles.get? (d + pl) = some t → ∃ t', st'.tiles.get? (d + pl) = some t' ∧
        t'.attr = attrWord ((if ds.fmt ≤ 3 then 0 else if ds.fmt ≤ 5 then 1 else 2) + pl) (if ds.spectral then 1 else 0)
          (if ds.block = 0 then 0 else ds.block - 1) ds.scale true 0 0 0 ∧
        (∀ j, j < ds.cols → (st.thread i).present = true → t'.w.get (27 * i + j) = v pl j) ∧
        ∀ q, (q < 27 * i ∨ 27 * i + ds.cols ≤ q ∨ (st.thread i).present = false) → t'.w.get q = if i = 0 then 0 else t.w.get q

/-- R283, R377: the elements of a line follow one another, each read after the one before it is written; what an element
writes; and what the line leaves when it is over, or when an element faults. -/
def LinesMove : Prop :=
  (∀ (o : EngOp) (total : Nat) (key : Nat × Nat) (fuel : Nat) (r : Run) (l : Loc),
    r.e < total → copyDst r.out.s o r.e = .ok l → lineKey o r.e l = key → r.e - o.prog < bufferRoom (elemType o.i) →
    hostWants r.out.s o r.e = none → o.buffer = none →
    runLine o total key false (fuel + 1) [] r =
      match (runElem o r l none).stop with
      | .done => runLine o total key false fuel [] (runElem o r l none)
      | _ => runElem o r l none) ∧
  (∀ (o : EngOp) (r : Run) (l : Loc) (ls : List Loc) (vs : List Int),
    copySrc r.out.s o r.e = .ok ls → ls.flatMap r.out.missing = [] → ls.mapM (readLoc r.out o) = .ok vs →
    Memory.wf r.out.s = true → (r.out.s.cluster o.cluster).scratch.wf = true →
    let s1 := captureElem (noteReads r.out.s o (ls ++ copyTable r.out.s o)) o r.e
    let r' := runElem o r l none
    let cells (t : State) : Cells := (t.cluster o.cluster).scratch
    (∀ c a, copyVal s1 o r.common r.e vs = .error (c, a) → r'.stop = .stopped c a ∧ r'.e = r.e ∧ r'.out.s.mem = r.out.s.mem) ∧
    (∀ x, copyVal s1 o r.common r.e vs = .ok (.val x) → lostAt s1 o l = none →
      r'.e = r.e + 1 ∧ r'.stop = r.stop ∧ r'.common = copyCommon o r.common r.e x ∧
      (∀ p ks ps, l = .dev p ks ps → ps.any isPeer = false → r.out.sent = [] → (ks.map Prod.fst).Nodup →
        r'.out.sent = [] ∧ cells r'.out.s = cells r.out.s ∧
        (∀ j, j < ks.length → r'.out.s.mem.get ((ks.map Prod.fst).getD j 0) = (toTrytes ks.length x).getD j 0) ∧
        ∀ q, q ∉ ks.map Prod.fst → r'.out.s.mem.get q = r.out.s.mem.get q) ∧
      (∀ j, l = .win j → viewOf o.slots j = none → fits 27 x = true → fits 27 ((cells r.out.s).get j) = true →
        r'.out.s.mem = r.out.s.mem ∧ ∀ q, (cells r'.out.s).get q = if q = j then x else (cells r.out.s).get q) ∧
      (∀ j i, l = .tryte j i → viewOf o.slots j = none → i < 3 →
        r'.out.s.mem = r.out.s.mem ∧ ∀ q, (cells r'.out.s).get q =
          if q = j then (cells r.out.s).get j + (wrapVal x 9 - elem 9 ((cells r.out.s).get j) i) * 3 ^ (9 * i)
          else (cells r.out.s).get q)) ∧
    (∀ a bs, copyVal s1 o r.common r.e vs = .ok (.bytes a bs) → r'.e = r.e + 1 ∧ r'.out.s.mem = r.out.s.mem ∧
      ∀ q, hostByte r'.out.s q = if a ≤ q ∧ q < a + bs.length then bs.getD (q - a) 0 % 256 else hostByte r.out.s q) ∧
    (∀ a, copyVal s1 o r.common r.e vs = .ok (.keep a) → r'.e = r.e + 1 ∧ r'.hit = r.hit.or (some a) ∧
      r'.out.s.mem = r.out.s.mem ∧ r'.out.s.host = r.out.s.host ∧ cells r'.out.s = cells r.out.s)) ∧
  (∀ (s s0 : State) (n : Nat) (o : EngOp) (l : Loc), s.ops.get? n = some o → copyCheck s o = .ok () →
    copyDst s o o.prog = .ok l → o.buffer = none →
    let total := copyTotal s o
    let r := runLine o total (lineKey o o.prog l) false (total - o.prog) []
      { out := LineOut.of s n o, e := o.prog, hit := o.hit, common := o.common }
    r.needs = [] → r.out.flush o = (s0, none) → r.out.stores n o = [] →
    let t := lineStep s n o
    (r.stop = .done → t.mem = s0.mem ∧ t.host = s0.host ∧ (∀ c, (t.cluster c).scratch = (s0.cluster c).scratch) ∧
      ∃ o', t.ops.get? n = some o' ∧ o'.prog = r.e ∧ o'.hit = r.hit ∧ o'.common = r.common ∧
        o'.phase = if r.e = total then .written else .active) ∧
    (∀ c a, r.stop = .stopped c a → c ≠ 0 → o.prog < r.e → r.out.sent = [] → o.fault = none →
      t.mem = s0.mem ∧ t.host = s0.host ∧ (∀ c, (t.cluster c).scratch = (s0.cluster c).scratch) ∧
      ∃ o', t.ops.get? n = some o' ∧ o'.prog = r.e ∧ o'.fault = some { code := c, addr := a })) ∧
  (∀ (r : LineOut) (o : EngOp), r.win = [] → r.flush o = (r.s, none))

/-! ### Stop records (R324 to R329) -/

/-- The words from `i` on that a pair takes (R222). -/
def pairAt (w : List Int) (i : Nat) (x : Int) : Prop := w.getD i 0 = loWord x ∧ w.getD (i + 1) 0 = hiWord x

/-- R325, R326: the fields of header and cause words, and the block of a thread. -/
def ThreadBlocks : Prop :=
  (∀ kind length : Nat, kind ≤ 26 → length ≤ 3486784401 →
    let w := headerWord kind length
    idx w 24 3 = kind ∧ idx w 21 3 = 0 ∧ sgd w 0 21 = length) ∧
  (∀ reason code pos lane cls reg : Nat, reason ≤ 26 → code ≤ 26 → pos ≤ 26 → lane ≤ 80 → cls ≤ 26 → reg ≤ 242 →
    let w := stopWord reason code pos lane cls reg
    idx w 24 3 = reason ∧ idx w 21 3 = code ∧ idx w 18 3 = pos ∧ idx w 14 4 = lane ∧ idx w 11 3 = cls ∧ idx w 6 5 = reg ∧
      sgd w 0 6 = 0) ∧
  ∀ th : Thread,
    let w := threadWords th
    let stands (state n : Nat) : Prop := ∀ (pc : Int) (pos : Nat),
      (pc, pos) = (match th.status with | .waiting x => (x.header, x.before) | _ => (th.pc, th.pos)) →
      w.getD 0 0 = ((state : Int) - 13) * 3 ^ 24 + ((n : Int) - 13) * 3 ^ 21 + ((pos : Int) - 13) * 3 ^ 18 +
        ((th.savedPos : Int) - 13) * 3 ^ 15 ∧ pairAt w 1 pc
    w.length = 10 ∧ pairAt w 3 th.savedPc ∧
    (match th.status with
      | .ended => stands 1 0
      | .absent => stands 2 0
      | .bar n => stands 3 n
      | .barw n => stands 4 n
      | .inTret => match th.ret with
        | none => stands 5 0
        | some (n, _) => stands 7 n
      | _ => match th.ret with
        | none => stands 0 0
        | some (n, _) => stands 6 n) ∧
    (∀ i, i < 4 → w.getD (5 + i) 0 = 9 * (th.cond i).sign + 3 * (th.cond i).carry + (th.cond i).ovf) ∧
    w.getD 9 0 = ((List.range 27).map fun n => if n ∈ th.marks then (3 : Int) ^ n else 0).sum

/-- R326, R327: a strand record, word by word. -/
def StrandRecords : Prop :=
  ∀ (s : State) (st : Strand) (ord : Nat) (cause : Int),
    let w := strandWords s st ord cause
    let at_ (i : Nat) : Int := w.getD i 0
    let declared : List Nat := (List.range 9).filter fun i => (st.tiles.get? i).isSome
    let tiles : Nat := 446 + 288 * st.granules
    let replays : Nat := tiles + 865 * declared.length
    w.length = replays + 9 * st.replay.length ∧
    at_ 0 = headerWord 2 w.length ∧ at_ 1 = cause ∧ pairAt w 2 st.faultAddr ∧ at_ 4 = ord ∧ at_ 5 = st.number ∧
    at_ 6 = ((st.granules : Int) - 14) * 3 ^ 24 + (declared.map fun i => (3 : Int) ^ (15 + i)).sum +
      ((List.range 12).map fun i => if st.flag i then (3 : Int) ^ i else 0).sum ∧
    at_ 7 = st.cause ∧ at_ 8 = maskWord st.mask (st.mask.global && timerDue s st) ∧ pairAt w 9 st.trapMask ∧
    pairAt w 11 st.handlerPc ∧ pairAt w 13 st.comparator ∧ pairAt w 15 (counter s st.core) ∧ pairAt w 17 st.presentMask ∧
    at_ 19 = st.replay.length ∧ (fits 27 st.stall = true → at_ 20 = st.stall) ∧ (∀ i, 21 ≤ i → i ≤ 26 → at_ i = 0) ∧
    (∀ j, j < 81 → at_ (27 + j) = st.sget j) ∧ (∀ i, i < 9 → pairAt w (108 + 2 * i) (st.areg i)) ∧
    (∀ l i, l < 32 → i < 10 → at_ (126 + 10 * l + i) = (threadWords (st.thread l)).getD i 0) ∧
    (∀ j l, j < 9 * st.granules → l < 32 → at_ (446 + 32 * j + l) = (st.thread l).vget j) ∧
    (∀ n d t, declared[n]? = some d → st.tiles.get? d = some t → at_ (tiles + 865 * n) = t.attr ∧
      ∀ r c, r < 32 → c < 27 → at_ (tiles + 865 * n + 1 + 27 * r + c) = t.w.get (27 * r + c)) ∧
    (∀ k r, st.replay[k]? = some r →
      let q := replays + 9 * k
      at_ q = ((r.lane : Int) - 40) * 3 ^ 23 + (if r.once then 3 ^ 22 else 0) ∧ at_ (q + 1) = r.w0 ∧ at_ (q + 2) = r.w1 ∧
        pairAt w (q + 3) r.addr ∧ pairAt w (q + 5) r.data ∧ pairAt w (q + 7) r.expect)

/-- R328: a weave record, word by word. -/
def WeaveRecords : Prop :=
  ∀ (s : State) (wv : Weave), wv.slots.length = 3 → wv.exts.length = 3 →
    let w := weaveWords s wv
    let at_ (i : Nat) : Int := w.getD i 0
    w.length = 42 + wv.len ∧ at_ 0 = headerWord 1 w.length ∧ pairAt w 1 wv.recPtr ∧ at_ 3 = wv.wx ∧ at_ 4 = wv.wy ∧
    at_ 5 = wv.wz ∧ at_ 6 = wv.nstrands ∧ at_ 7 = wv.pass ∧ at_ 8 = (wv.base : Int) * 3 ^ 12 + wv.len ∧
    (∀ i, i < 3 → at_ (9 + 2 * i) = wv.exts.getD i 0 ∧
      at_ (10 + 2 * i) = match wv.slots.getD i none with
        | some y => (y.view : Int) * 3 ^ 12 + y.table
        | none => 0) ∧
    (∀ n, n < 27 → at_ (15 + n) = (match (wv.barrier n).expected with | some e => (e : Int) | none => -1) * 3 ^ 18 +
      ((wv.barrier n).arrivals : Int) * 3 ^ 9) ∧
    (∀ j, j < wv.len → at_ (42 + j) = (s.cluster (16 * wv.die + wv.cluster)).scratch.get (wv.base + j))

/-- R329: an engine record, word by word. -/
def EngineRecords : Prop :=
  ∀ (s : State) (o : EngOp) (ord : Nat),
    let w := engineWords s o ord
    let at_ (i : Nat) : Int := w.getD i 0
    let saved : Prop := w.length = 73 ∧ at_ 45 = (if o.buffer.isSome then 1 else 0) ∧
      ∀ i, i < 27 → at_ (46 + i) = (o.buffer.getD []).getD i 0
    let block : Prop := ∀ i, i < 31 → at_ (14 + i) = o.block.getD i 0
    at_ 0 = headerWord 3 w.length ∧ at_ 1 = ord ∧
    at_ 2 = ((Enc.opOf o.w0 : Int) - 121) * 3 ^ 22 + ((o.flag : Int) - 13) * 3 ^ 19 ∧ at_ 3 = o.w0 ∧ at_ 4 = o.w1 ∧
    pairAt w 5 o.vd ∧ pairAt w 9 o.vsig ∧ at_ 11 = o.sval ∧ pairAt w 12 o.prog ∧
    (match o.i with
      | .cpt .. | .cpm .. | .cpg .. | .mld .. | .mst .. => saved ∧ block ∧ pairAt w 7 o.va
      | .cpf _ t _ _ _ x => saved ∧ pairAt w 7 0 ∧ (x.dims ≤ 9 → 3 * x.dims ≤ o.block.length → (∀ i, i < 3 * x.dims → at_ (14 + i) = o.block.getD i 0) ∧
          if t = .p then pairAt w (14 + 3 * x.dims) o.va else at_ (14 + 3 * x.dims) = o.va)
      | .xff .. | .xfi .. => pairAt w 7 o.va ∧ w.length = 45 + storeLength s o ∧
          (∀ i, i < 31 → at_ (14 + i) = 0) ∧ ∀ i, i < storeLength s o → at_ (45 + i) = o.z.getD i 0
      | .mma .. | .mmc .. => pairAt w 7 o.va ∧ w.length = 45 + o.regs.flatten.length ∧
          (∀ i, i < 4 → at_ (14 + i) = o.block.getD i 0) ∧
          pairAt w 18 (laneMask fun l => if l ∈ o.lanes then 1 else -1) ∧
          ∀ i, at_ (45 + i) = o.regs.flatten.getD i 0
      | _ => w.length = 45 ∧ block ∧ pairAt w 7 o.va)

/-- R324, R325: the records of a halt, in their order, with the ordinals by which they name one another, their stop causes,
and the summary; and what is written of them: each whole, up to the first that does not fit or cannot be written. -/
def ImagesStand : Prop :=
  (∀ (c : Context) (reason : Nat) (wv : Weave) (st : Strand),
    (wv.failed = true → strandCause c reason wv st = stopWord 3 15 0 0 0 0) ∧
    (wv.failed = false → ∀ f, st.fault = some f → strandCause c reason wv st = stopWord 0 f.code f.pos f.lane f.cls f.reg) ∧
    (wv.failed = false → st.fault = none → (reason ≠ 0 → strandCause c reason wv st = stopWord 2 0 0 0 0 0) ∧
      ∀ f, c.fault = some f → reason = 0 → strandCause c reason wv st = stopWord 1 f.code 0 0 0 0)) ∧
  (∀ (s : State) (c : Context) (reason : Nat) (parts : List Nat) (hs : List Halted),
    (hs.flatMap fun h => h.strands.map Prod.fst).Nodup →
    let rs := imageRecords s c reason parts hs
    let first (n : Nat) : Nat := 1 + ((hs.take n).map fun h => 1 + h.strands.length).sum
    let ops := hs.flatMap (·.ops)
    rs.length = first hs.length + ops.length ∧
    (∀ n h, hs[n]? = some h → rs.getD (first n) [] = weaveWords s h.weave ∧
      ∀ k x, h.strands[k]? = some x →
        rs.getD (first n + 1 + k) [] = strandWords s x.2 (first n) (strandCause c reason h.weave x.2) ∧
        ∀ j o, ops[j]? = some o → o.2.strand = some x.1 →
          rs.getD (first hs.length + j) [] = engineWords s o.2 (first n + 1 + k)) ∧
    (∀ j o, ops[j]? = some o → o.2.strand = none → rs.getD (first hs.length + j) [] = engineWords s o.2 0) ∧
    let w := rs.getD 0 []
    let total : Nat := (rs.map List.length).sum
    w.length = 27 ∧ w.getD 0 0 = headerWord 0 27 ∧ w.getD 3 0 = rs.length ∧ w.getD 4 0 = total ∧
    w.getD 7 0 = (if 0 ∈ parts ∨ 2 ∈ parts then 1 else 0) + (if 1 ∈ parts ∨ 2 ∈ parts then 3 else 0) ∧
    (∀ i, 10 ≤ i → i ≤ 26 → w.getD i 0 = 0) ∧
    (reason ≠ 0 → faultIn c hs = false → w.getD 1 0 = stopWord 2 0 0 0 0 0 ∧ w.getD 2 0 = 0 ∧ pairAt w 5 0) ∧
    (∀ f, reason = 0 → c.fault = some f → w.getD 1 0 = stopWord 0 f.code f.pos f.lane f.cls f.reg ∧ pairAt w 8 c.faultCycle ∧
      (∀ a, f.addr = some a → pairAt w 5 a) ∧
      (c.faultOp = none → c.faultStrand = none → w.getD 2 0 = 0) ∧
      (c.faultOp = none → ∀ n h k x, hs[n]? = some h → h.strands[k]? = some x → c.faultStrand = some x.1 →
        w.getD 2 0 = (first n + 1 + k : Nat)))) ∧
  (∀ (s : State) (ctx : Nat) (ptr : Int) (room : Nat) (r : List Int) (rs : List (List Int)),
    let t := touchPages s ctx ptr (3 * r.length)
    writeRecords s ctx ptr room [] = (s, true) ∧
    (room < r.length → writeRecords s ctx ptr room (r :: rs) = (s, false)) ∧
    (r.length ≤ room → ctxWrite t ctx ptr r = none → writeRecords s ctx ptr room (r :: rs) = (s, false)) ∧
    (∀ s1, r.length ≤ room → ctxWrite t ctx ptr r = some s1 →
      writeRecords s ctx ptr room (r :: rs) = writeRecords s1 ctx (ptr + 3 * (r.length : Int)) (room - r.length) rs))

/-! ### Commands -/

/-- A COMMAND THAT STARTS OR GOES ON (R410, R411): the command under `cmd` has the opcode; if it has not started
it may start, its header is sound, and a user command's context lives. -/
structure Starts (op cmd : Nat) (s : State) (c : Cmd) : Prop where
  held : s.cmds.get? cmd = some c
  opcode : cmdOp c = op
  due : c.phase = .started ∨
    (c.phase = .fetched ∧ mayStart s c = true ∧ headerFault c = none ∧ (userOp op = true → ctxFault s c = none))

/-- The command as its body sees it. -/
def startedCmd (op : Nat) (c : Cmd) : Cmd :=
  if c.phase = .started then c else { c with phase := .started, ctx := if userOp op then some (actsFor c) else none }

/-- The state as its body sees it. -/
def begun (op cmd : Nat) (s : State) (c : Cmd) : State :=
  if c.phase = .started then s else { s with cmds := s.cmds.put cmd (startedCmd op c) }

/-- A command's body runs: where `ok` holds of the started command, exec answers what `f` makes of it. -/
def CommandRuns (op cmd : Nat) (i : Instr) (s : State) (ok : Cmd → State → Prop) (f : Cmd → State → State) : Prop :=
  ∀ c, Starts op cmd s c → ok (startedCmd op c) (begun op cmd s c) →
    exec i s = .next (f (startedCmd op c) (begun op cmd s c))

end Sys2Proof.Machine
end

