-- ==== Sys2Proof/Certificates/Slice0/Obligations.lean ====
section
/-!
DEFINITION. The statements for the provers. The terms they speak in are those of `Safety`.
-/
open Sys2Proof Sys2Proof.Machine

/-! ### Numbers and codes (R8 to R10, R64 to R66, R85 to R87, R138 to R140) -/

/-- R66, R190: wrap keeps the residue in the range and reports the trit above and the direction; saturate stops at the
ends of the range; nearest is a nearest integer, of two the one of smaller magnitude. -/
def Obligations.NumbersFit : Prop :=
  ∀ (x : Int) (n : Nat),
    (∃ c, x = (wrap x n).w + c * 3 ^ n ∧ -half n ≤ (wrap x n).w ∧ (wrap x n).w ≤ half n ∧ (wrap x n).ovf = c.sign ∧
      -1 ≤ (wrap x n).carry ∧ (wrap x n).carry ≤ 1 ∧ (c - (wrap x n).carry) % 3 = 0) ∧
    (half n < x → saturate x n = ⟨half n, 0, 1⟩) ∧
    (x < -half n → saturate x n = ⟨-half n, 0, -1⟩) ∧
    (-half n ≤ x → x ≤ half n → saturate x n = ⟨x, 0, 0⟩ ∧ wrap x n = ⟨x, 0, 0⟩) ∧
    (∀ b : Int, b ≠ 0 → 2 * (x - nearestQuot x b * b).natAbs ≤ b.natAbs ∧
      (2 * (x - nearestQuot x b * b).natAbs = b.natAbs → (nearestQuot x b * b).natAbs ≤ x.natAbs))

/-- R64, R65, R85 to R87, R138 to R140: elements of a word, trytes of a word, halves of a pair, the shell's bytes and
streams, and compressed lines give back what they were made of, in codes that are valid. -/
def Obligations.CodesRoundTrip : Prop :=
  (∀ n xs j, n * xs.length ≤ 27 → (∀ x ∈ xs, fits n x = true) → j < xs.length →
    elem n (packElems n xs) j = xs.getD j 0) ∧
  (∀ n x, fits (9 * n) x = true → ofTrytes (toTrytes n x) = x ∧ (toTrytes n x).length = n ∧
    ∀ t ∈ toTrytes n x, fits 9 t = true) ∧
  (∀ x, fits 54 x = true → pairOf (loWord x) (hiWord x) = x ∧ fits 27 (loWord x) = true ∧ fits 27 (hiWord x) = true) ∧
  (∀ w, fits 9 w = true → bytesTryte (tryteBytes w) = some w ∧ ∀ b ∈ tryteBytes w, b < 243) ∧
  (∀ w, fits 27 w = true → bytesWord (wordBytes w) = some w ∧ ∀ b ∈ wordBytes w, b < 243) ∧
  (∀ ts, (∀ t ∈ ts, fits 9 t = true) → streamTrytes ts.length (streamBytes ts) = .ok ts ∧
    (streamBytes ts).length = streamLength ts.length ∧ ∀ b ∈ streamBytes ts, b < 243) ∧
  (∀ ts, ts.length = 81 → (∀ t ∈ ts, fits 9 t = true) → decodeLine (encodeLine ts) = some ts ∧
    ((encodeLine ts).length = 0 ∨ (4 ≤ (encodeLine ts).length ∧ (encodeLine ts).length ≤ 27)))

/-! ### Decoding, stepping, reset (R46, R159 to R169, R428) -/

/-- R160, R161, R187 and the worked encodings of the spec: words written out trit by trit decode to the instructions
that they stand for. -/
def Obligations.DecodeWords : Prop :=
  decode 0 0 = none ∧
  decode (litWord [0,1,0,1,1, 0,0,0, -1,0,-1,-1, 0,0,0,0,0, 0,0,0,0,0, 0,0,0,0,0]) 0 = none ∧
  decode (litWord [1,1,-1,1,1, 0,0,0, 0,0,0,0, -1,-1,-1,-1,1, 0,0,0,0,0, 0,0,1,-1,-1]) 0 = some (.grow .always 2 5) ∧
  decode (litWord [0,-1,-1,0,-1, -1,0,0, 0,0,0,0, -1,-1,-1,0,0, -1,-1,-1,-1,1, -1,-1,-1,0,-1]) 0 =
    some (.fma .always .f9 .wrap 4 2 3) ∧
  decode (litWord [-1,0,-1,-1,-1, -1,0,-1, 0,0,0,0, -1,-1,-1,-1,-1, -1,-1,-1,-1,-1, -1,-1,-1,-1,0]) 0 =
    some (.addV .always .t27 .wrap 0 0 1) ∧
  decode (litWord [-1,0,-1,-1,0, -1,0,-1, 0,0,0,0, -1,-1,-1,-1,0, -1,-1,-1,-1,0, 0,0,0,0,1]) 0 =
    some (.addI .always .t27 .wrap 1 1 1) ∧
  decode (litWord [-1,0,1,-1,0, -1,0,-1, 0,0,0,0, -1,-1,-1,-1,0, -1,-1,-1,-1,0, 0,0,1,0,0]) 0 =
    some (.cmpI .always .t27 1 1 9) ∧
  decode (litWord [-1,-1,-1,-1,0, 0,0,0, -1,0,-1,-1, 0,0,0,0,0, 0,0,0,0,0, 0,0,0,0,0]) 0 = some (.brI (.on 1 .lt) 0) ∧
  decode (litWord [-1,0,1,0,0, -1,-1,1, 0,0,0,0, -1,-1,-1,0,-1, -1,-1,-1,0,0, -1,-1,-1,0,1]) 0 =
    some (.sat .always .t9 3 4 5) ∧
  decode (litWord [0,1,0,0,-1, -1,-1,1, 0,0,0,0, -1,-1,-1,-1,0, -1,-1,-1,-1,1, 0,0,0,0,0])
      (litWord [-1,-1,-1,-1,1, 1, -1,-1, -1,-1,1, 0,0,0,0,0,0,0,0,0,0,0,0,0,0,0,0]) =
    some (.ldh .always .i16 .t9 false 1 2 ⟨some 2, 0, 0⟩) ∧
  decode (litWord [1,-1,-1,0,0, -1,0,0, -1,0,-1,1, -1,-1,-1,-1,0, -1,-1,-1,-1,1, -1,-1,-1,-1,-1]) 0 =
    some (.rel (.on 1 .gt) .die false 1 2 0) ∧
  decode (litWord [1,-1,-1,-1,0, -1,0,-1, 0,0,0,0, -1,-1,-1,1,0, -1,-1,-1,-1,0, -1,-1,-1,1,-1]) (-3774360412125) =
    some (.atoms .always .t27 false 7 1 6 ⟨.add, .rlx, false, .wv, some 5⟩) ∧
  decode (litWord [1,0,-1,-1,-1, -1,0,-1, 0,0,0,0, -1,-1,-1,0,-1, -1,-1,-1,-1,1, -1,-1,0,-1,0]) (-2541865769280) =
    some (.cpt .always .t27 false 3 2 10 ⟨2, none, none, false, true, none, false⟩) ∧
  decode (litWord [1,0,-1,1,0, -1,-1,1, -1,0,-1,-1, -1,-1,-1,-1,-1, -1,-1,-1,-1,-1, -1,-1,0,-1,0]) (-3577440795426) =
    some (.mma (.on 1 .lt) .w9 0 0 10 .regs .handle) ∧
  decode (litWord [1,0,-1,1,1, -1,-1,-1, -1,0,-1,-1, -1,-1,-1,-1,1, -1,-1,0,0,-1, -1,-1,0,0,1]) (-1882863743841) =
    some (.mmc (.on 1 .lt) .f9 2 12 14 ⟨.handle, .handle, 0, 2, true, 0, 2⟩) ∧
  decode (litWord [1,0,-1,-1,1, -1,0,0, 0,0,0,0, -1,-1,-1,0,-1, -1,-1,-1,-1,1, -1,-1,0,-1,0]) (-3807067017024) =
    some (.cpg .always .f9 false 3 2 10
      ⟨1, .restrict, .zero, [true, false, false], some ⟨false, .cl, 4, 20⟩, false, false, .f27⟩)

/-- R159 to R167, R180, R205, R223, R248, R276, R313: every legal word, with every operand at every value that the
encoding admits, decodes back from the one or two words that it encodes to. And whatever decodes is the encoding of a
legal word, of which it is all: every other word, with a reserved cell, field or value anywhere, decodes to nothing. -/
def Obligations.DecodeEncode : Prop :=
  (∀ i, WellFormed i = true → isWord i = true →
    decode ((encode i).getD 0 0) ((encode i).getD 1 0) = some i ∧
    (encode i).length = (if Enc.isL (Enc.opOf ((encode i).getD 0 0)) then 2 else 1) ∧
    ∀ w ∈ encode i, fits 27 w = true) ∧
  (∀ w0 w1 i, fits 27 w0 = true → fits 27 w1 = true → decode w0 w1 = some i →
    WellFormed i = true ∧ isWord i = true ∧ encode i = if Enc.isL (Enc.opOf w0) then [w0, w1] else [w0])

/-- R25, R44, R168, R169, R325, R354 and the model's agenda (log 43): the head of the agenda is the next step. A strand's
turn runs exec of the instruction that its decoder reads at the pick's position, in the state where the strand is the
cursor and its core has entered the present budget window; a word that stands for no instruction is the
illegal-instruction fault of the lowest active lane. After whatever a turn does the allocators make the denial test. -/
def Obligations.StepRunsWord : Prop :=
  ∀ (s : State) (rest : List Turn),
    let now : State := { s with agenda := rest }
    (∀ k st p w0 w1, s.agenda = .word k :: rest → s.strands.get? k = some st → st.pick = some p →
      wordDue now st p = true → p.words[p.pos]? = some w0 → w1 = (p.words[p.pos + 1]?).getD 0 →
      (∀ i, decode w0 w1 = some i → step s = thenDeny (exec i { rollWindow now st.core with cursor := k })) ∧
      (decode w0 w1 = none → ∀ g, Enc.guardOf (Enc.guardField w0) = some g → badGuard st p.lanes g = none →
        ∀ l ls, (p.lanes.filter fun l => passes g (st.thread l)) = l :: ls →
        step s = .next (denials (wordFault ⟨{ rollWindow now st.core with cursor := k }, k, st, l :: ls, p.header, p.pos⟩
          { code := 3, lane := l })))) ∧
    (∀ i, s.agenda = .act i :: rest → isWord i = false → step s = thenDeny (exec i now)) ∧
    (s.agenda = .tick :: rest → ∃ t, step s = .next t ∧ t.cycle = s.cycle + 1 ∧ t.mem = s.mem ∧ t.host = s.host) ∧
    (s.agenda = [] → step s = turn (nextTurn s) s)

/-- R41, R46, R47, R52, R54, R58, R155, R163, R168, R169, R183, R325: a word whose guard reads a register in the invalid
state, in whichever thread of the pick, faults before anything else is tested (the order is the model's, log 84); one
whose guard no lane passes does nothing but go on; one that names an undeclared tile, a register beyond the allocation,
or a register in the invalid state that it reads, faults in that order, the first two in its lowest active lane; one
whose register or tile an operation in flight still writes, or that reads across lanes what a wait of another lane still
writes, waits. Which of several invalid registers the fault names is the model's choice (log 104). -/
def Obligations.WordsBeforeTheirEffect : Prop :=
  ∀ (i : Instr) (s : State) (st : Strand) (p : Pick), isWord i = true → AtWord s st p →
    let act := activeOf i st p
    let fails (f : FaultInfo) : Prop := exec i s = .next (wordFault (wordOf i s st p) f)
    (∀ r, badGuard st p.lanes (guardOfInstr i) = some r → fails { code := 7, lane := r.lane, cls := r.cls, reg := r.idx }) ∧
    (badGuard st p.lanes (guardOfInstr i) = none →
      (act = [] → exec i s = .next (advance (useBudget s st.core i) s.cursor i)) ∧
      ∀ l ls, act = l :: ls →
        (tilesOk st (uses i) = false → fails { code := 3, lane := l }) ∧
        (tilesOk st (uses i) = true → allocOk st (uses i) = false → fails { code := 10, lane := l }) ∧
        (tilesOk st (uses i) = true → allocOk st (uses i) = true →
          (waitsFor s s.cursor st act i = true → exec i s = .next s) ∧
          (waitsFor s s.cursor st act i = false → ∀ r, invalidReg st act i = some r →
            fails { code := 7, lane := r.lane, cls := r.cls, reg := r.idx })))

/-- R6, R46, R363, R368, R407, R419, R428: after reset memory reads zero everywhere in its canonical form, nothing
runs, the ready bits are set, and the parameters stand at the values that the spec gives them. Host memory's zeros are
the model's choice (log 5). -/
def Obligations.ResetState : Prop :=
  let s := State.reset
  Memory.wf s = true ∧ (∀ key, s.mem.get key = 0) ∧ (∀ a, hostByte s a = 0) ∧ s.cycle = 0 ∧
  s.strands = [] ∧ s.weaves = [] ∧ s.contexts = [] ∧ s.launches = [] ∧ s.graphs = [] ∧ s.queues = [] ∧ s.cmds = [] ∧
  s.ops = [] ∧ s.accs = [] ∧ s.packets = [] ∧ s.cores = [] ∧ s.clusters = [] ∧ s.links = [] ∧ s.pageRequests = [] ∧
  s.dies.length = 8 ∧
  (∀ d ∈ s.dies, d.bar = { ready := true } ∧ (d.parts.length = 3 ∧ ∀ p ∈ d.parts, p.phase = .free) ∧ d.exports = [] ∧
    d.wholeDie = false ∧ d.drainUs = 100 ∧ d.swapUs = 200 ∧ d.quantumUs = 2000 ∧ d.handlers = 2 ∧ d.budget = 81) ∧ s.mgmt.capture.armed = none

/-- R102, R364, R368 and the model's form of memory: every step keeps both memories in their canonical form. -/
def Obligations.MemoryStaysCanonical : Prop :=
  ∀ (s s' : State), Memory.wf s = true → step s = .next s' → Memory.wf s' = true

/-! ### Integer words (R178 to R203) -/

/-- R182, R184, R185, R189, R194: exact element values, fitted by the modifier, written with c0. -/
def Obligations.IntegerSumsFit : Prop :=
  ∀ (s : State) (g : Guard) (t : IType) (m : Fit) (d a b : Nat) (imm : Int),
    LanesBecome (.addV g t m d a b) (m == .trp) s (fun _ _ th => fitted t m d th (zipE th t a b fun x y => x + y)) ∧
    LanesBecome (.addI g t m d a imm) (m == .trp) s (fun _ _ th => fitted t m d th (mapE th t a fun x => x + imm)) ∧
    LanesBecome (.addc g t d a b) false s
      (fun _ _ th => fitted t .wrap d th (zipE th t a b fun x y => x + y + (th.cond 0).carry)) ∧
    LanesBecome (.sub g t m d a b) (m == .trp) s (fun _ _ th => fitted t m d th (zipE th t a b fun x y => x - y)) ∧
    LanesBecome (.subc g t d a b) false s
      (fun _ _ th => fitted t .wrap d th (zipE th t a b fun x y => x - y + (th.cond 0).carry)) ∧
    LanesBecome (.neg g t d a) false s (fun _ _ th => fitted t .wrap d th (mapE th t a fun x => -x)) ∧
    LanesBecome (.abs g t d a) false s (fun _ _ th => fitted t .wrap d th (mapE th t a fun x => x.natAbs)) ∧
    LanesBecome (.mulV g t m d a b) (m == .trp) s (fun _ _ th => fitted t m d th (zipE th t a b fun x y => x * y)) ∧
    LanesBecome (.mulI g t m d a imm) (m == .trp) s (fun _ _ th => fitted t m d th (mapE th t a fun x => x * imm)) ∧
    LanesBecome (.mad g t m d a b) (m == .trp) s
      (fun _ _ th => fitted t m d th ((zipE th t a b fun x y => x * y).zipWith (fun p z => p + z) (eI th t d))) ∧
    LanesBecome (.shlV g t m d a b) (m == .trp) s
      (fun _ _ th => fitted t m d th (zipE th t a b fun x k => shiftBy (width t) x k)) ∧
    LanesBecome (.shlI g t m d a imm) (m == .trp) s
      (fun _ _ th => fitted t m d th (mapE th t a fun x => shiftBy (width t) x imm))

/-- R186, R189, R192 to R195: words that write elements and no condition register. -/
def Obligations.IntegerPlainResults : Prop :=
  ∀ (s : State) (g : Guard) (t : IType) (d a b : Nat) (imm : Int),
    LanesBecome (.minV g t d a b) false s (fun _ _ th => placed t d th (zipE th t a b fun x y => min x y)) ∧
    LanesBecome (.minI g t d a imm) false s (fun _ _ th => placed t d th (mapE th t a fun x => min x imm)) ∧
    LanesBecome (.maxV g t d a b) false s (fun _ _ th => placed t d th (zipE th t a b fun x y => max x y)) ∧
    LanesBecome (.maxI g t d a imm) false s (fun _ _ th => placed t d th (mapE th t a fun x => max x imm)) ∧
    LanesBecome (.mulh g t d a b) false s
      (fun _ _ th => placed t d th (zipE th t a b fun x y => nearestDiv (x * y) (3 ^ width t))) ∧
    LanesBecome (.sel g t d a b) false s (fun _ _ th =>
      placed t d th (((eI th t d).zip ((eI th t a).zip (eI th t b))).map fun x =>
        if x.1 < 0 then x.2.1 else if x.1 = 0 then 0 else x.2.2)) ∧
    LanesBecome (.mov g t d a) false s (fun _ _ th => placed t d th (eI th t a)) ∧
    LanesBecome (.movi g t d imm) false s (fun _ _ th => placed t d th (List.replicate (count t) imm)) ∧
    LanesBecome (.ldi g d imm) false s (fun _ _ th => { t := th.vput d imm }) ∧
    LanesBecome (.shrV g t d a b) false s
      (fun _ _ th => placed t d th (zipE th t a b fun x k => wrapVal (shiftBy (width t) x (-k)) (width t))) ∧
    LanesBecome (.shrI g t d a imm) false s
      (fun _ _ th => placed t d th (mapE th t a fun x => wrapVal (shiftBy (width t) x (-imm)) (width t))) ∧
    LanesBecome (.rolV g t d a b) false s (fun _ _ th => placed t d th (zipE th t a b fun x k => rotl (width t) x k)) ∧
    LanesBecome (.rolI g t d a imm) false s (fun _ _ th => placed t d th (mapE th t a fun x => rotl (width t) x imm)) ∧
    LanesBecome (.rorV g t d a b) false s (fun _ _ th => placed t d th (zipE th t a b fun x k => rotl (width t) x (-k))) ∧
    LanesBecome (.rorI g t d a imm) false s (fun _ _ th => placed t d th (mapE th t a fun x => rotl (width t) x (-imm)))

/-- R188. -/
def Obligations.SgnWritesSigns : Prop :=
  ∀ (s : State) (g : Guard) (t : IType) (d a : Nat),
    LanesBecome (.sgn g t d a) false s (fun _ _ th => placed t d th (mapE th t a fun x => x.sign))

/-- R196 to R199: trit by trit, counts and fields. -/
def Obligations.TritwiseResults : Prop :=
  ∀ (s : State) (g : Guard) (t : IType) (d a b k pos len : Nat),
    LanesBecome (.tand g t d a b) false s
      (fun _ _ th => placed t d th (zipE th t a b (tritwise (fun x y => min x y) (width t)))) ∧
    LanesBecome (.tor g t d a b) false s
      (fun _ _ th => placed t d th (zipE th t a b (tritwise (fun x y => max x y) (width t)))) ∧
    LanesBecome (.tmul g t d a b) false s
      (fun _ _ th => placed t d th (zipE th t a b (tritwise (fun x y => x * y) (width t)))) ∧
    LanesBecome (.tcon g t d a b) false s
      (fun _ _ th => placed t d th (zipE th t a b (tritwise (fun x y => if x = y then x else 0) (width t)))) ∧
    LanesBecome (.tlut g t d a b k) false s
      (fun _ _ th => placed t d th (zipE th t a b (tritwise (tableTrit k) (width t)))) ∧
    LanesBecome (.tcnt g t d a k) false s
      (fun _ _ th => placed t d th (mapE th t a fun x => countTrits (width t) x ((k : Int) - 1))) ∧
    LanesBecome (.tlz g t d a) false s
      (fun _ _ th => placed t d th (mapE th t a fun x => leadingZeros (width t) x)) ∧
    LanesBecome (.text g t d a pos len) false s
      (fun _ _ th => placed t d th (mapE th t a fun x => sfield (width t) x pos len)) ∧
    LanesBecome (.tins g t d a pos len) false s
      (fun _ _ th => placed t d th
        ((eI th t d).zipWith (fun x y => setField (width t) x pos len (lowTrits y len)) (eI th t a)))

/-- R186, R187, R190, R191, R218, R219: limits, division, compare, dot product, with their conditions. -/
def Obligations.LimitsDivisionCompare : Prop :=
  ∀ (s : State) (g : Guard) (t : IType) (d a b c k : Nat) (imm : Int),
    LanesBecome (.clamp g t d a b) false s (fun _ _ th =>
      limited t d th ((eI th t a).zipWith (fun x y =>
        let w := min (y.natAbs : Int) (max (-(y.natAbs : Int)) x)
        ⟨w, 0, (x - w).sign⟩) (eI th t b))) ∧
    LanesBecome (.sat g t d a k) false s
      (fun _ _ th => limited t d th ((eI th t a).map fun x => saturate x k)) ∧
    LanesBecome (.div g t d a b) false s (fun _ _ th =>
      { t := (fitted t .wrap d th (zipE th t a b fun x y =>
          if y = 0 then x.sign * half (width t) else nearestQuot x y)).t,
        exn := if (eI th t b).any (fun y => y == 0) then [.divide] else [] }) ∧
    LanesBecome (.mod g t d a b) false s (fun _ _ th =>
      { t := (fitted t .wrap d th (zipE th t a b fun x y => if y = 0 then x else x - y * nearestQuot x y)).t,
        exn := if (eI th t b).any (fun y => y == 0) then [.divide] else [] }) ∧
    LanesBecome (.cmpV g t c a b) false s (fun _ _ th =>
      { t := th.setCond c { sign := (lastNonzero ((eI th t a).zipWith (fun x y => x - y) (eI th t b))).sign } }) ∧
    LanesBecome (.cmpI g t c a imm) false s (fun _ _ th =>
      { t := th.setCond c
          { sign := (lastNonzero ((eI th t a).zipWith (fun x y => x - y) ((eI th t a).map fun _ => imm))).sign } }) ∧
    LanesBecome (.dot g t d a b) false s (fun _ _ th =>
      let f := wrap ((zipE th t a b fun x y => x * y).foldl (fun x y => x + y) (th.vget d)) 27
      { t := (th.vput d f.w).setCond 0 (packedCond [f.w] [f.carry] [f.ovf]) })

/-- R200 to R203: packing, and values that move across lanes. `lred` and `lscan` fit the exact reduction over the
lanes they take; under their min and max forms no condition is written. -/
def Obligations.PackingAndLaneMoves : Prop :=
  ∀ (s : State) (g : Guard) (t : IType) (m : Fit) (d a b : Nat),
    LanesBecome (.pack g t m d a) (m == .trp) s (fun _ _ th =>
      let r := fitAll t m ((List.range (count t)).map fun j => th.vget (a + j))
      { t := (th.vput d r.value).setCond 0 r.cond, exn := if r.overflowed then [.overflow] else [] }) ∧
    LanesBecome (.unpack g t d a) false s (fun _ _ th =>
      { t := (elemsOf t (th.vget a)).zipIdx.foldl (fun th x => th.vput (d + x.2) x.1) th }) ∧
    LanesBecome (.perm g d a b) false s
      (fun st l th => { t := th.vput d (fromLane st l a (th.vget b % 32)) }) ∧
    LanesBecome (.shfl g .up d a b) false s
      (fun st l th => { t := th.vput d (fromLane st l a ((l : Int) - st.sget b)) }) ∧
    LanesBecome (.shfl g .dn d a b) false s
      (fun st l th => { t := th.vput d (fromLane st l a ((l : Int) + st.sget b)) }) ∧
    LanesBecome (.shfl g .rot d a b) false s
      (fun st l th => { t := th.vput d (fromLane st l a (((l : Int) + st.sget b) % 32)) }) ∧
    (∀ op, StrandBecomes (.lred g t m op d a) s fun st act =>
      let red : Red := match op with | .add => .add | .min => .min | .max => .max
      let value : List Int := (List.range (count t)).map fun j =>
        reduce red (width t) (act.map fun q => (eI (st.thread q) t a).getD j 0)
      let out (l : Nat) : LaneOut :=
        if red = .add then fitted t m d (st.thread l) value else placed t d (st.thread l) value
      raiseArith (st.modThreads act fun l _ => (out l).t) (m == .trp) (act.map fun l => (l, (out l).exn))) ∧
    (∀ op, StrandBecomes (.lscan g t m op d a) s fun st act =>
      let red : Red := match op with
        | .add | .addEx => .add
        | .min | .minEx => .min
        | .max | .maxEx => .max
      let takes (l q : Nat) : Bool := match op with
        | .addEx | .minEx | .maxEx => decide (q < l)
        | _ => decide (q ≤ l)
      let value (l : Nat) : List Int := (List.range (count t)).map fun j =>
        reduce red (width t) ((act.filter (takes l)).map fun q => (eI (st.thread q) t a).getD j 0)
      let out (l : Nat) : LaneOut :=
        if red = .add then fitted t m d (st.thread l) (value l) else placed t d (st.thread l) (value l)
      raiseArith (st.modThreads act fun l _ => (out l).t) (m == .trp) (act.map fun l => (l, (out l).exn)))

/-! ### Float words (R205 to R220) -/

/-- R207, R208, R211 to R213, R219, R220: each result is one exact value rounded once. R75, R76: the rounding is to the
nearest point of trunc's grid, of two the one nearer to zero, with the overflow direction. R72, R77, R211, R212: the results on
NaNs, infinities and zeros; a group's first NaN in operand order decides, then an invalid product or opposite infinities. The
powers of three with a fraction and the logarithms are pinned wherever one of the precisions of the model's bounds decides
the rounding. -/
def Obligations.FloatSumsAndFunctions : Prop :=
  (∀ (s : State) (g : Guard) (t : FType) (m : Fit) (d a b : Nat) (imm : Int),
    LanesBecome (.fadd g t m d a b) (m == .trp) s
      (fun _ _ th => floated t d th (fz th t a b fun x y => fsum (fmtOf t) (satMode m) [[x], [y]])) ∧
    LanesBecome (.fsub g t m d a b) (m == .trp) s
      (fun _ _ th => floated t d th (fz th t a b fun x y => fsum (fmtOf t) (satMode m) [[x], [y.neg]])) ∧
    LanesBecome (.fmul g t m d a b) (m == .trp) s
      (fun _ _ th => floated t d th (fz th t a b fun x y => fsum (fmtOf t) (satMode m) [[x, y]])) ∧
    LanesBecome (.fma g t m d a b) (m == .trp) s
      (fun _ _ th => floated t d th (fz3 th t d a b fun x y z => fsum (fmtOf t) (satMode m) [[x], [y, z]])) ∧
    LanesBecome (.fnma g t m d a b) (m == .trp) s
      (fun _ _ th => floated t d th (fz3 th t d a b fun x y z => fsum (fmtOf t) (satMode m) [[x], [y.neg, z]])) ∧
    LanesBecome (.fdiv g t m d a b) (m == .trp) s
      (fun _ _ th => floated t d th (fz th t a b (fdivVal (fmtOf t) (satMode m)))) ∧
    LanesBecome (.fsqrt g t d a) false s (fun _ _ th => floated t d th (fm th t a (fsqrtVal (fmtOf t)))) ∧
    LanesBecome (.frcp g t m d a) (m == .trp) s
      (fun _ _ th => floated t d th (fm th t a (fdivVal (fmtOf t) (satMode m) (.fin 1 0)))) ∧
    LanesBecome (.frsq g t d a) false s (fun _ _ th => floated t d th (fm th t a (frsqVal (fmtOf t)))) ∧
    LanesBecome (.fex3 g t m d a) (m == .trp) s (fun _ _ th => floated t d th (fm th t a (fex3Val (fmtOf t) (satMode m)))) ∧
    LanesBecome (.flg3 g t d a) false s (fun _ _ th => floated t d th (fm th t a (flg3Val (fmtOf t)))) ∧
    LanesBecome (.fsclV g t m d a b) (m == .trp) s
      (fun _ _ th => floated t d th ((fvals t (th.vget a)).zipWith (fscale (fmtOf t) (satMode m)) (felems t (th.vget b)))) ∧
    LanesBecome (.fsclI g t m d a imm) (m == .trp) s
      (fun _ _ th => floated t d th (fm th t a fun x => fscale (fmtOf t) (satMode m) x imm)) ∧
    LanesBecome (.dotf g m d a b) (m == .trp) s (fun _ _ th =>
      let r := fsum fmt27 (satMode m) ([fdecode fmt27 (th.vget d)] ::
        (fvals .f9 (th.vget a)).zipWith (fun x y => [x, y]) (fvals .f9 (th.vget b)))
      { t := (th.vput d r.w).setCond 0 (fcond [r]), exn := r.exn.toList }) ∧
    LanesBecome (.cmul g t m d a b) (m == .trp) s (fun _ _ th =>
      let v (n j : Nat) : FVal := (fvals t (th.vget n)).getD j .zero
      let re := (List.range (fcount t)).map fun j =>
        fsum (fmtOf t) (satMode m) [[v d j], [v a j, v b j], [(v (a + 1) j).neg, v (b + 1) j]]
      let im := (List.range (fcount t)).map fun j =>
        fsum (fmtOf t) (satMode m) [[v (d + 1) j], [v (a + 1) j, v b j], [v a j, v (b + 1) j]]
      { t := (th.vput d (ofFelems t (re.map (·.w)))).vput (d + 1) (ofFelems t (im.map (·.w))),
        exn := (re ++ im).filterMap (·.exn) })) ∧
  ∀ (f : Fmt) (sat : Bool), f = fmt9 ∨ f = fmt27 →
    let nan (p : Nat) (y : Int) : FRes := { w := encNan f p y }
    let invalid : FRes := { w := fencode f f.emax 0, exn := some .invalid }
    let infinite (σ : Int) : FRes := { w := fencode f f.emax σ, sign := σ }
    let byZero (σ : Int) : FRes := { w := fencode f f.emax σ, exn := some .divide, sign := σ }
    let zero : FRes := { w := 0 }
    let rounded (x : Exact) (r : FRes) : Prop :=
      (x.num = 0 → r = zero) ∧ (x.num ≠ 0 → RoundedOnce f sat x.num.sign (rootCmp 1 x) r)
    let whole (n : Int) (b : Bool) (r : FRes) : Prop :=
      (n = 0 → r = zero) ∧ (n ≠ 0 → RoundedOnce f b n.sign (rootCmp 1 ⟨n, 1, 0⟩) r)
    -- the rounding, and the payload of a NaN
    (∀ x : Exact, 0 < x.den → rounded x (roundTo f sat x)) ∧
    (∀ y, encNan f f.p y = fencode f f.emax y) ∧
    (∀ y, encNan fmt27 6 y = fencode fmt27 121 (y * 3 ^ 16)) ∧
    (∀ y q : Int, 2 * (y - q * 3 ^ 16).natAbs < 3 ^ 16 →
      encNan fmt9 22 y = fencode fmt9 13 (if q = 1 ∨ q = -1 then 0 else q)) ∧
    -- summed groups of products
    (∀ (ts : List (List (Int × Int))) (K : Int), K ≤ 0 → (∀ t ∈ ts, K ≤ (t.map (·.2)).sum) →
      let total := (ts.map fun t => t.foldl (fun a x => a * x.1) 1 * 3 ^ ((t.map (·.2)).sum - K).toNat).sum
      rounded ⟨total, 1, K⟩ (fsum f sat (ts.map fun t => t.map fun x => FVal.fin x.1 x.2))) ∧
    (∀ (ts : List (List FVal)) pre p y post, ts.flatten = pre ++ .nan p y :: post → (∀ x ∈ pre, ∀ q z, x ≠ .nan q z) →
      fsum f sat ts = nan p y) ∧
    (∀ ts : List (List FVal), (∀ x ∈ ts.flatten, (∀ q z, x ≠ .nan q z) ∧ ∀ σ, x = .inf σ → σ = 1 ∨ σ = -1) →
      let sgn (t : List FVal) : Int := t.foldl (fun a x => a * x.sign) 1
      let unbounded (t : List FVal) : Prop := ∃ σ, FVal.inf σ ∈ t
      ((∃ t ∈ ts, unbounded t ∧ sgn t = 0) → fsum f sat ts = invalid) ∧
      ((∃ t ∈ ts, ∃ u ∈ ts, unbounded t ∧ unbounded u ∧ sgn t = 1 ∧ sgn u = -1) → fsum f sat ts = invalid) ∧
      (∀ σ, σ ≠ 0 → (∃ t ∈ ts, unbounded t) → (∀ t ∈ ts, unbounded t → sgn t = σ) → fsum f sat ts = infinite σ)) ∧
    -- division
    (∀ p y x, fdivVal f sat (.nan p y) x = nan p y ∧ ((∀ q z, x ≠ .nan q z) → fdivVal f sat x (.nan p y) = nan p y)) ∧
    (∀ m e n h, (n ≠ 0 → rounded ⟨m * n.sign, n.natAbs, e - h⟩ (fdivVal f sat (.fin m e) (.fin n h))) ∧
      (n = 0 → m ≠ 0 → fdivVal f sat (.fin m e) (.fin n h) = byZero m.sign) ∧
      (n = 0 → m = 0 → fdivVal f sat (.fin m e) (.fin n h) = invalid)) ∧
    (∀ σ τ m e, fdivVal f sat (.inf σ) (.inf τ) = invalid ∧ fdivVal f sat (.fin m e) (.inf σ) = zero ∧
      fdivVal f sat (.inf σ) (.fin m e) = infinite (if m < 0 then -σ else σ)) ∧
    -- roots
    (∀ w m e, fdecode f w = .fin m e →
      (m = 0 → fsqrtVal f (.fin m e) = zero ∧ frsqVal f (.fin m e) = byZero 1) ∧
      (m < 0 → fsqrtVal f (.fin m e) = invalid ∧ frsqVal f (.fin m e) = invalid) ∧
      (0 < m → RoundedOnce f false 1 (rootCmp 2 ⟨m, 1, e⟩) (fsqrtVal f (.fin m e)) ∧
        RoundedOnce f false 1 (rootCmp 2 ⟨1, m.natAbs, -e⟩) (frsqVal f (.fin m e)))) ∧
    (∀ p y, fsqrtVal f (.nan p y) = nan p y ∧ frsqVal f (.nan p y) = nan p y ∧
      fex3Val f sat (.nan p y) = nan p y ∧ flg3Val f (.nan p y) = nan p y) ∧
    (fsqrtVal f (.inf 1) = infinite 1 ∧ frsqVal f (.inf 1) = zero ∧ fex3Val f sat (.inf 1) = infinite 1 ∧ flg3Val f (.inf 1) = infinite 1 ∧
      fsqrtVal f (.inf (-1)) = invalid ∧ frsqVal f (.inf (-1)) = invalid ∧ fex3Val f sat (.inf (-1)) = zero ∧
      flg3Val f (.inf (-1)) = invalid) ∧
    -- powers of three and logarithms
    (∀ w m e, fdecode f w = .fin m e →
      (∀ n : Int, m * 3 ^ e.toNat = n * 3 ^ (-e).toNat → RoundedOnce f sat 1 (rootCmp 1 ⟨1, 1, n⟩) (fex3Val f sat (.fin m e))) ∧
      (e < 0 → m % 3 ^ (-e).toNat ≠ 0 → (∃ M ∈ [60, 120, 240], (exp3At f sat m (-e).toNat M).isSome = true) →
        RoundedOnce f sat 1 (rootCmp (3 ^ (-e).toNat) ⟨1, 1, m⟩) (fex3Val f sat (.fin m e))) ∧
      (m = 0 → flg3Val f (.fin m e) = byZero (-1)) ∧ (m < 0 → flg3Val f (.fin m e) = invalid) ∧
      (∀ q : Nat, m = 3 ^ q → whole (e + q) false (flg3Val f (.fin m e))) ∧
      (0 < m → (∀ q : Nat, m ≠ 3 ^ q) → (∃ M ∈ [80, 160, 320], (log3At f m.toNat e M).isSome = true) →
        let u := m.toNat * 3 ^ e.toNat
        let v := 3 ^ (-e).toNat
        RoundedOnce f false (if u < v then -1 else 1) (logCmp u v) (flg3Val f (.fin m e))) ∧
      -- scaling
      ∀ k, rounded ⟨m, 1, e + k⟩ (fscale f sat (.fin m e) k)) ∧
    (∀ p y k, fscale f sat (.nan p y) k = nan p y) ∧ (∀ σ k, fscale f sat (.inf σ) k = infinite σ)

/-- R209, R210, R214 to R217: order, magnitude, classes and conversions. -/
def Obligations.FloatOrderAndConversion : Prop :=
  ∀ (s : State) (g : Guard) (t : FType) (m : Fit) (trp : Bool) (d a b c j : Nat) (dir : RndDir),
    LanesBecome (.fmin g t d a b) false s (fun _ _ th =>
      let rs := fz th t a b (fpick (fmtOf t) false)
      { t := th.vput d (ofFelems t (rs.map (·.w))), exn := rs.filterMap (·.exn) }) ∧
    LanesBecome (.fmax g t d a b) false s (fun _ _ th =>
      let rs := fz th t a b (fpick (fmtOf t) true)
      { t := th.vput d (ofFelems t (rs.map (·.w))), exn := rs.filterMap (·.exn) }) ∧
    LanesBecome (.fcmp g t c a b) false s (fun _ _ th =>
      let rs : List (Option Int) := (fvals t (th.vget a)).zipWith
        (fun x y => if (firstNan [x, y]).isSome then none else some (fcompare x y)) (fvals t (th.vget b))
      { t := th.setCond c { sign := lastNonzero (rs.filterMap id), carry := if rs.any Option.isNone then 1 else 0 } }) ∧
    LanesBecome (.fabs g t d a) false s (fun _ _ th =>
      floated t d th (fm th t a fun x => resVal (fmtOf t) (if x.sign < 0 then x.neg else x))) ∧
    LanesBecome (.fcls g t d a) false s (fun _ _ th =>
      { t := th.vput d (ofFelems t ((felems t (th.vget a)).map fun w => (fclass (fmtOf t) w).code)) }) ∧
    LanesBecome (.ffix g t trp d a) trp s (fun _ _ th =>
      let rs := (fvals t (th.vget a)).map (fixElem (fmtOf t).n)
      let fs := rs.map Prod.fst
      { t := (th.vput d (ofFelems t (fs.map (·.w)))).setCond 0
          (packedCond (fs.map (·.w)) (fs.map (·.carry)) (fs.map (·.ovf))), exn := rs.filterMap Prod.snd }) ∧
    LanesBecome (.fflt g t d a) false s (fun _ _ th =>
      floated t d th ((felems t (th.vget a)).map fun x => roundTo (fmtOf t) false (exactOf x 0))) ∧
    LanesBecome (.fcvt g .f27 m d a j) (m == .trp) s (fun _ _ th =>
      let r := resVal fmt27 (fdecode fmt9 (elem 9 (th.vget a) j))
      { t := (th.vput d r.w).setCond 0 (fcond [r]), exn := r.exn.toList }) ∧
    LanesBecome (.fcvt g .f9 m d a j) (m == .trp) s (fun _ _ th =>
      let r := match fdecode fmt27 (th.vget a) with
        | .fin n e => roundTo fmt9 (satMode m) (exactOf n e)
        | y => resVal fmt9 y
      { t := (th.vput d (setField 27 (th.vget d) (9 * j) 9 r.w)).setCond 0 (fcond [r]), exn := r.exn.toList }) ∧
    LanesBecome (.frnd g t dir d a) false s (fun _ _ th =>
      floated t d th (fm th t a fun x => match x with
        | .fin n e => roundTo (fmtOf t) false (exactOf (match dir with
            | .near => nearestInt n e
            | .floor => floorInt n e
            | .ceil => -floorInt (-n) e) 0)
        | y => resVal (fmtOf t) y))

/-! ### Uniform, address and lane words (R222 to R231, R239 to R246) -/

/-- R226, R227, R228: one result for the strand, wrapped to 27 or 54 trits, or saturated. -/
def Obligations.UniformArithmetic : Prop :=
  ∀ (s : State) (g : Guard) (p sat : Bool) (d a b : Nat) (imm : Int),
    let n := if p then 54 else 27
    let fit (x : Int) : Int := if sat then (saturate x n).w else wrapVal x n
    StrandBecomes (.sadd g p sat d a b) s (fun st _ => st.suput p d (fit (st.su p a + st.su p b))) ∧
    StrandBecomes (.ssub g p sat d a b) s (fun st _ => st.suput p d (fit (st.su p a - st.su p b))) ∧
    StrandBecomes (.smul g p sat d a b) s (fun st _ => st.suput p d (fit (st.su p a * st.su p b))) ∧
    StrandBecomes (.smad g p sat d a b) s (fun st _ => st.suput p d (fit (st.su p a * st.su p b + st.su p d))) ∧
    StrandBecomes (.smin g p d a b) s (fun st _ => st.suput p d (wrapVal (min (st.su p a) (st.su p b)) n)) ∧
    StrandBecomes (.smax g p d a b) s (fun st _ => st.suput p d (wrapVal (max (st.su p a) (st.su p b)) n)) ∧
    StrandBecomes (.sshl g p sat d a b) s (fun st _ => st.suput p d (fit (shiftBy n (st.su p a) (st.sget b)))) ∧
    StrandBecomes (.sshr g p d a b) s (fun st _ => st.suput p d (wrapVal (shiftBy n (st.su p a) (-(st.sget b))) n)) ∧
    StrandBecomes (.smov g p d a) s (fun st _ => st.suput p d (wrapVal (st.su p a) n)) ∧
    StrandBecomes (.sldi g d imm) s (fun st _ => st.sput d imm)

/-- R58, R224, R227 to R230, R239, R240: special values, lanes to the strand and back, match and vote. `sget` of the
attribute of an undeclared tile is the illegal-instruction fault. -/
def Obligations.StrandValuesAndLanes : Prop :=
  ∀ (s : State) (g : Guard) (p : Bool) (d a b c lane : Nat) (t : Test),
    StrandBecomes (.scmp g p c a b) s
      (fun st act => st.modThreads act fun _ th => th.setCond c { sign := (st.su p a - st.su p b).sign }) ∧
    (∀ i ≤ 5, StrandBecomes (.sget g d i) s
      (fun st act => st.modThreads act fun l th => th.vput d (threadValue (s.weaveOf st) st l i))) ∧
    (∀ i, 5 < i → ∀ st q x, Issues (.sget g d i) s st q → strandValue s (s.weaveOf st) st i = some x →
      WordRuns (.sget g d i) s s (st.suput (i == 15 || i == 20 || i == 21) d x)) ∧
    (∀ i, 25 ≤ i → i ≤ 33 → ∀ st q l ls, AtWord s st q → badGuard st q.lanes g = none →
      activeOf (.sget g d i) st q = l :: ls → st.tiles.get? (i - 25) = none →
      exec (.sget g d i) s = .next (wordFault (wordOf (.sget g d i) s st q) { code := 3, lane := l })) ∧
    StrandBecomes (.vrd g d a lane) s
      (fun st _ => st.sput d (if (st.thread lane).status = .absent then 0 else (st.thread lane).vget a)) ∧
    StrandBecomes (.sbc g p d a) s
      (fun st act => st.modThreads act fun _ th => if p then th.vputPair d (st.su p a) else th.vput d (st.su p a)) ∧
    StrandBecomes (.sbal g d c t) s (fun st act => st.sputPair d (laneMask fun l =>
      if act.contains l then (if testCond t ((st.thread l).cond c) then 1 else 0) else -1)) ∧
    StrandBecomes (.matchV g true d a) s (fun st act => st.modThreads act fun l th =>
      th.vput d (act.filter fun j => (st.thread j).vget a == (st.thread l).vget a).length) ∧
    StrandBecomes (.matchV g false d a) s (fun st act => st.modThreads act fun l th =>
      th.vput d ((act.filter fun j => (st.thread j).vget a == (st.thread l).vget a).filter fun j => j < l).length) ∧
    (∀ op, StrandBecomes (.vote g op d c t) s (fun st act =>
      let answers := act.map fun l => testCond t ((st.thread l).cond c)
      let yes := match op with
        | .any => answers.any id
        | .all => answers.all id
        | .uni => answers.all id || !answers.any id
      st.modThreads act fun _ th => th.setCond d { sign := if yes then 1 else -1 }))

/-- R97, R231, R318: address registers; a sum that leaves the space is the space-crossing fault, with the base
register's value. -/
def Obligations.AddressRegisters : Prop :=
  ∀ (s : State) (g : Guard) (sc : LeaScale) (d a b : Nat),
    let factor : Int := match sc with | .one => 1 | .w => 3 | .pr => 6 | .ln => 81
    (∀ st q x, Issues (.aadd g d a b) s st q → addAddr (st.areg a) (st.sget b) = some x →
      WordRuns (.aadd g d a b) s s (st.aput d x)) ∧
    (∀ st q x, Issues (.lea g sc d a b) s st q → addAddr (st.areg a) (st.sget b * factor) = some x →
      WordRuns (.lea g sc d a b) s s (st.aput d x)) ∧
    WordFaults (.aadd g d a b) s (fun w f => addAddr (w.st.areg a) (w.st.sget b) = none ∧
      f = { code := 6, lane := w.act.headD 0, addr := some (w.st.areg a) }) ∧
    WordFaults (.lea g sc d a b) s (fun w f => addAddr (w.st.areg a) (w.st.sget b * factor) = none ∧
      f = { code := 6, lane := w.act.headD 0, addr := some (w.st.areg a) }) ∧
    StrandBecomes (.amov g d a) s (fun st _ => st.aput d (st.areg a)) ∧
    StrandBecomes (.aset g d a) s (fun st _ => st.aput d (wrapVal (st.spair a) 45)) ∧
    StrandBecomes (.aget g d (.reg a)) s (fun st _ => st.sputPair d (st.areg a)) ∧
    StrandBecomes (.aget g d .flt) s (fun st _ => st.sputPair d st.faultAddr) ∧
    StrandBecomes (.aget g d .hnd) s (fun st _ => st.sputPair d st.handlerPc) ∧
    StrandBecomes (.aget g d .cmp) s (fun st _ => st.sputPair d st.comparator) ∧
    StrandBecomes (.aget g d .spc) s (fun st act => st.modThreads act fun _ th => th.vputPair d th.savedPc)

/-- R56, R57, R243, R244, R246, R359: the trap mask and its old value, the comparator, code prefetch and pins. That a range
which both leaves the segment and passes the limit has status -1 is the model's choice (log 88). -/
def Obligations.MaskComparatorAndCode : Prop :=
  ∀ (s : State) (g : Guard) (c d a b : Nat),
    StrandBecomes (.tmsk g d a) s (fun st _ =>
      { st.sput d (maskWord st.mask (st.mask.global && st.mask.timer && decide (st.comparator ≤ counter s st.core))) with
        mask := maskOf (st.sget a) }) ∧
    StrandBecomes (.tcmp g true a) s (fun st _ =>
      { st with comparator := (saturate (counter s st.core + wrapVal (st.spair a) 45) 45).w }) ∧
    StrandBecomes (.tcmp g false a) s (fun st _ =>
      { st with comparator := (saturate (wrapVal (st.spair a) 45) 45).w }) ∧
    StateBecomes (.ipf g a b) s (fun _ => True) (fun w =>
      let wv := s.weaveOf w.st
      let inside := (codeLines (w.st.sget a) (w.st.sget b)).takeWhile fun x =>
        decide (0 ≤ x) && decide (81 * x < (wv.codeSize : Int))
      inside.foldl (fun s' x =>
        let first := wv.codeBase + 81 * x
        fetchCode (fetchCode s' w.st.core wv.ctx first (.core w.st.core)) w.st.core wv.ctx (first + 80) (.core w.st.core)) s) ∧
    StateBecomes (.ipin g c a b) s (fun _ => True) (fun w =>
      let ls := codeLines (w.st.sget a) (w.st.sget b)
      let wv := s.weaveOf w.st
      let pins := (s.core w.st.core).pins
      let new := (ls.map fun x => (wv.ctx, wv.codeBase + 81 * x)).filter fun x => !pins.contains x
      let status : Int :=
        if ls.any fun x => x < 0 || decide ((wv.codeSize : Int) ≤ 81 * x) then -1
        else if Config.pinLimit < pins.length + new.length then 0 else 1
      let s1 := if status = 1 then s.modCore w.st.core fun x => { x with pins := x.pins ++ new } else s
      s1.setStrand w.k (w.st.modThreads w.act fun _ th => th.setCond c { sign := status })) ∧
    StateBecomes (.iunpin g a b) s (fun _ => True) (fun w =>
      let wv := s.weaveOf w.st
      let ls := (codeLines (w.st.sget a) (w.st.sget b)).map fun x => (wv.ctx, wv.codeBase + 81 * x)
      s.modCore w.st.core fun x => { x with pins := x.pins.filter fun y => !ls.contains y })

/-! ### Control words (R232 to R245) -/

/-- R25, R232, R233: a transfer gives every active lane its target, a call its link as well; a target in a register
that is no multiple of 3 is the alignment fault of the lowest lane that has one. -/
def Obligations.BranchesAndCalls : Prop :=
  ∀ (s : State) (g : Guard) (d a : Nat) (off : Int),
    let jump (st : Strand) (act : List Nat) (x : Nat → Int) : Strand :=
      st.modThreads act fun l th => { th with jump := some (x l) }
    let link (st : Strand) (act : List Nat) (p : Pick) : Strand :=
      st.modThreads act fun _ th => th.vput d (p.header + 3 * (p.words.length + 1))
    (∀ st p, Issues (.brI g off) s st p →
      WordRuns (.brI g off) s s (jump st (activeOf (.brI g off) st p) fun _ => p.header + 3 * off)) ∧
    (∀ st p, Issues (.brL g off) s st p →
      WordRuns (.brL g off) s s (jump st (activeOf (.brL g off) st p) fun _ => p.header + 3 * off)) ∧
    (∀ st p, Issues (.callI g d off) s st p →
      WordRuns (.callI g d off) s s (jump (link st (activeOf (.callI g d off) st p) p)
        (activeOf (.callI g d off) st p) fun _ => p.header + 3 * off)) ∧
    (∀ st p, Issues (.callL g d off) s st p →
      WordRuns (.callL g d off) s s (jump (link st (activeOf (.callL g d off) st p) p)
        (activeOf (.callL g d off) st p) fun _ => p.header + 3 * off)) ∧
    (∀ i, i = .brx g a ∨ i = .ret g a →
      (∀ st p, Issues i s st p → (∀ l ∈ activeOf i st p, (st.thread l).vget a % 3 = 0) →
        WordRuns i s s (jump st (activeOf i st p) fun l => (st.thread l).vget a)) ∧
      WordFaults i s fun w f => ∃ l, w.act.find? (fun l => (w.st.thread l).vget a % 3 != 0) = some l ∧
        f = { code := 4, lane := l, addr := some ((w.st.thread l).vget a) })

/-- R25, R234: nop changes nothing, yield gives the hint, and the lanes of a sleep of a positive count leave the pick
after the word until the cycle counter has gone on by the count. R22, R232: while a flag of the strand is set the
lanes of an exit only wait, before the word; with no flag set, and a thread of the strand neither in exit nor ended,
they have ended in the next state. The exit of the last threads of a strand ends it: its slot and, with no grow waiting on
the core, its granules are back, and its tiles stay with the weave while that has a strand. With the last strand the weave
is gone, and with it its window, barriers and tiles; its launch counts it, and with its last weave the command of the launch
completes (R416), or the node and then the graph (R40); a context with nothing left on the partition leaves it (R348). -/
def Obligations.ThreadsSleepAndEnd : Prop :=
  (∀ (s : State) (g : Guard) (b : Nat),
      StrandBecomes (.nop g) s (fun st _ => st) ∧
      (∀ st p, Issues (.yield g) s st p → WordRuns (.yield g) s s { st with pick := some { p with yield := true } }) ∧
      (∀ st p, Issues (.sleep g b) s st p → st.sget b ≤ 0 → WordRuns (.sleep g b) s s st) ∧
      (∀ st p, Issues (.sleep g b) s st p → 0 < st.sget b →
        WordRuns (.sleep g b) s s (leavePick st (activeOf (.sleep g b) st p) (p.pos + 1) fun _ th =>
          { th with status := .asleep (counter s st.core + st.sget b).toNat }))) ∧
  (∀ (s : State) (g : Guard) (st : Strand) (p : Pick), Issues (.exit g) s st p →
      (st.flags.any id = true →
        WordRuns (.exit g) s s (leavePick st (activeOf (.exit g) st p) p.pos fun _ th =>
          { th with status := .exiting, jump := none })) ∧
      (st.flags.any id = false →
        (∃ l, l < st.threads.length ∧ l ∉ activeOf (.exit g) st p ∧ (st.thread l).active = true) →
        ∃ t st', exec (.exit g) s = .next t ∧ t.strands.get? s.cursor = some st' ∧
          ∀ l ∈ activeOf (.exit g) st p, l < st.threads.length → (st'.thread l).status = .ended) ∧
      (st.flags.any id = false →
        (∀ l, l < st.threads.length → l ∉ activeOf (.exit g) st p → (st.thread l).active = false) →
        (∃ l ∈ activeOf (.exit g) st p, l < st.threads.length) →
        let holds (x : Strand) := (x.core, x.handler, x.weave, x.tiles)
        let others : Prop := ∃ x ∈ s.strands, x.1 ≠ s.cursor ∧ x.2.weave = st.weave
        ∃ t, exec (.exit g) s = .next t ∧ t.strands.get? s.cursor = none ∧
          (∀ k, k ≠ s.cursor → (t.strands.get? k).map holds = (s.strands.get? k).map holds ∧
            ((s.core st.core).growQ = [] → (t.strands.get? k).map (·.granules) = (s.strands.get? k).map (·.granules))) ∧
          ∀ wv, s.weaves.get? st.weave = some wv →
            (others → ∃ bs, t.weaves.get? st.weave = some { wv with
              barriers := bs, spent := if st.tiles = [] then wv.spent else (st.core, st.tiles.length) :: wv.spent }) ∧
            (¬ others → t.weaves.get? st.weave = none ∧
              ∀ l, s.launches.get? wv.launch = some l →
                let failed : Nat := l.failed + if wv.failed then 1 else 0
                let code (f : Bool) : Nat := if f then 4 else 0
                let completes (k : Option Nat) (f : Bool) : Prop := ∀ n c, k = some n → s.cmds.get? n = some c → c.phase = .started →
                  t.cmds.get? n = some { c with phase := .ended (code f) 0, io := .queued }
                (l.ended + 1 ≠ l.total → t.launches.get? wv.launch = some { l with ended := l.ended + 1, failed }) ∧
                (l.ended + 1 = l.total → l.graph = none →
                  t.launches.get? wv.launch = none ∧ completes l.cmd (failed != 0)) ∧
                (l.ended + 1 = l.total → ∀ gk n gr nd, l.graph = some (gk, n) → s.graphs.get? gk = some gr →
                  gr.nodes[n]? = some nd → nd.open_ = 1 → nd.queue = [] → nd.started = true →
                  (∀ m x, gr.nodes[m]? = some x → m ≠ n → x.complete = true) → (∀ m ∈ nd.preds, m ≠ n) →
                  gr.running ≠ none →
                  (∃ gr', t.graphs.get? gk = some gr' ∧ gr'.running = none ∧ gr'.nodes.all (·.complete) = true) ∧
                  completes gr.running (gr.failed || failed != 0)) ∧
                (l.graph = none → (s.part wv.die wv.part).phase = .run → isReady s (s.part wv.die wv.part).ctx = false →
                  (∀ y ∈ s.weaves, y.2.die = wv.die → y.2.part = wv.part → y.1 = st.weave) →
                  (t.part wv.die wv.part).phase = .free))))

/-- R235 to R237: bar and bara mark the active lanes on barrier n, bar and barw block lanes, and the strand's arrival is
counted once its trit becomes +1. A marked lane, a count outside 0 to the weave's strands or one that differs from the round's
is the barrier fault. The round completes when the expected strands have arrived, for a count of 0 every strand of the weave
that has not ended: the barrier is as at the start, every thread of the weave's strands loses its mark, those that it blocked
are eligible, and their cores discard their cached lines (R360); nothing else changes. -/
def Obligations.BarrierWords : Prop :=
  (∀ (s : State) (g : Guard) (n b : Nat),
    let joined (w : Word_) (block : Bool) : State :=
      let st1 := w.st.modThreads w.act fun _ th => { th with marks := th.marks ++ [n] }
      let st2 := if block then leavePick st1 w.act (w.pos + 1) fun _ th => { th with status := .bar n } else st1
      let s1 := (s.setStrand w.k st2).modWeave w.st.weave fun wv =>
        wv.setBarrier n { wv.barrier n with expected := some (w.st.sget b).toNat }
      allocate (arrive s1 w.st.weave w.k n (arrivalTrit w.st n)) w.st.core
    let wrong (w : Word_) (l : Nat) : Prop :=
      n ∈ (w.st.thread l).marks ∨ w.st.sget b < 0 ∨ ((s.weaveOf w.st).nstrands : Int) < w.st.sget b ∨
        ∃ e, ((s.weaveOf w.st).barrier n).expected = some e ∧ (e : Int) ≠ w.st.sget b
    StateBecomes (.bar g n b) s (fun w => ∀ l ∈ w.act, ¬ wrong w l) (fun w => joined w true) ∧
    StateBecomes (.bara g n b) s (fun w => ∀ l ∈ w.act, ¬ wrong w l) (fun w => joined w false) ∧
    (∀ i, i = .bar g n b ∨ i = .bara g n b → WordFaults i s fun w f =>
      ∃ pre l post, w.act = pre ++ l :: post ∧ (∀ q ∈ pre, ¬ wrong w q) ∧ wrong w l ∧ f = { code := 11, lane := l }) ∧
    StateBecomes (.barw g n) s (fun _ => True) (fun w =>
      let marked := w.act.filter fun l => (w.st.thread l).marks.contains n
      allocate (s.setStrand w.k (leavePick w.st marked (w.pos + 1) fun _ th => { th with status := .barw n })) w.st.core)) ∧
  (∀ (st : Strand) (n : Nat),
    let marked : Prop := ∃ th ∈ st.threads, th.status ≠ .absent ∧ n ∈ th.marks
    let all_ : Prop := ∀ th ∈ st.threads, th.status = .absent ∨ th.status = .ended ∨ n ∈ th.marks
    (¬ marked → arrivalTrit st n = 0) ∧ (marked → all_ → arrivalTrit st n = 1) ∧ (marked → ¬ all_ → arrivalTrit st n = -1)) ∧
  (∀ (s : State) (w k n : Nat) (before : Int) (st : Strand), s.strands.get? k = some st →
    (before ≠ 1 → arrivalTrit st n = 1 → arrive s w k n before = roundTest (s.modWeave w fun wv =>
      wv.setBarrier n { wv.barrier n with arrivals := (wv.barrier n).arrivals + 1 }) w n) ∧
    (before = 1 ∨ arrivalTrit st n ≠ 1 → arrive s w k n before = roundTest s w n)) ∧
  (∀ (s : State) (w n : Nat) (wv : Weave), s.weaves.get? w = some wv →
    let done : Prop := ∃ k, (wv.barrier n).expected = some k ∧
      (k = 0 → ∀ x ∈ s.strands, x.2.weave = w → arrivalTrit x.2 n = 1) ∧ (k ≠ 0 → k ≤ (wv.barrier n).arrivals)
    let released (th : Thread) : Thread := { th with
      marks := th.marks.filter fun m => m != n
      ret := th.ret.filter fun r => r.1 != n
      status := if th.status = .bar n ∨ th.status = .barw n then .ready else th.status }
    (¬ done → roundTest s w n = s) ∧
    (done → ∃ cores, roundTest s w n = { s with
        cores, weaves := s.weaves.put w { wv with barriers := wv.barriers.set n { expected := none, arrivals := 0 } }
        strands := s.strands.map fun x =>
          (x.1, if x.2.weave = w then { x.2 with threads := x.2.threads.map released } else x.2) } ∧
      ∀ c, let here : Prop := ∃ x ∈ s.strands, x.2.weave = w ∧ x.2.core = c
        (here → (cores.get? c).getD {} = { s.core c with dcache := [] }) ∧ (¬ here → (cores.get? c).getD {} = s.core c)))

/-- R42, R43, R155, R241, R353: a grow beyond 27 granules ends with status -1; one that fits, with nothing queued
before it, is granted, and every granted register reads 0 in every lane; any other is queued, and its lanes wait, and
the same holds of it when its grant comes. A shrink keeps at least one
granule, and what the removed registers held is lost; it waits for a write that is still to be made to one of them. -/
def Obligations.GrowAndShrink : Prop :=
  ∀ (s : State) (g : Guard) (c n : Nat),
    let fits (w : Word_) : Prop :=
      (s.core w.st.core).growQ = [] ∧ (w.st.handler = true ∨ n ≤ freeGranules s w.st.core)
    let valid (st : Strand) (k : Nat) : List RegName := st.bad.filter fun r => r.cls != 1 || decide (r.idx < k)
    let granted (st : Strand) (m : Nat) : Strand := { st with
      granules := m, bad := valid st (9 * st.granules),
      threads := st.threads.map fun th => { th with v := th.v.clear (9 * st.granules) (9 * m) } }
    let left (st : Strand) : Nat := max 1 (st.granules - n)
    let pending (st : Strand) : Prop := ∃ th ∈ st.threads, ∃ x, th.status = .waiting x ∧ 9 * left st ≤ x.dest
    StateBecomes (.grow g c n) s (fun w => 27 < w.st.granules + n) (fun w =>
      s.setStrand w.k (w.st.modThreads w.act fun _ th => th.setCond c { sign := -1 })) ∧
    StateBecomes (.grow g c n) s (fun w => w.st.granules + n ≤ 27 ∧ fits w) (fun w =>
      let t := granted w.st (w.st.granules + n)
      s.setStrand w.k (t.modThreads w.act fun _ th => th.setCond c { sign := 1 })) ∧
    (∀ (st : Strand) (r : GrowReq) (m : Nat), endGrow st r 1 m =
      (granted st m).modThreads r.lanes fun _ th => { th.setCond r.c { sign := 1 } with status := .ready }) ∧
    (∀ (st : Strand) (m : Nat), ∀ th ∈ (granted st m).threads, ∀ k,
      9 * st.granules ≤ k → k < 9 * m → th.v.get k = 0) ∧
    StateBecomes (.grow g c n) s (fun w => w.st.granules + n ≤ 27 ∧ ¬ fits w) (fun w =>
      let s1 := s.setStrand w.k (leavePick w.st w.act (w.pos + 1) fun _ th => { th with status := .inGrow })
      allocate (s1.modCore w.st.core fun x => { x with growQ := x.growQ ++ [⟨w.k, n, c, w.act⟩] }) w.st.core) ∧
    StateBecomes (.shrink g n) s (fun w => ¬ pending w.st) (fun w =>
      allocate (s.setStrand w.k { w.st with
        granules := left w.st, bad := valid w.st (9 * left w.st),
        threads := w.st.threads.map fun th => { th with v := th.v.clear (9 * left w.st) 243 } })
        w.st.core) ∧
    (∀ st p, Issues (.shrink g n) s st p → pending st → exec (.shrink g n) s = .next s)

/-- R56, R242, R245, R316, R317: trap raises kind 2 with its code and is the nested-trap fault while the global trit
is +1, and while a grow of the strand waits its lanes are held; brk raises kind 5 where its mask trit is +1 and the
global trit 0, and is a nop otherwise; tret sets the active lanes waiting, and once no other thread is in the handler
all of them return; outside a handler it is the illegal-instruction fault, and a target that is no multiple of 3 is the
misalignment fault of the lowest lane that has one. That the return discards a trap still pending is the model's (log 105). -/
def Obligations.TrapsRaisedAndLeft : Prop :=
  ∀ (s : State) (g : Guard) (code : Int) (a : Nat),
    (∀ st p, Issues (.trap g code) s st p → st.mask.global = false → (∀ th ∈ st.threads, th.status ≠ .inGrow) →
      WordRuns (.trap g code) s s (raiseTrap st (causeWord 2 code) (activeOf (.trap g code) st p))) ∧
    (∀ st p, Issues (.trap g code) s st p → st.mask.global = false → (∃ th ∈ st.threads, th.status = .inGrow) →
      WordRuns (.trap g code) s s
        ((raiseTrap st (causeWord 2 code) (activeOf (.trap g code) st p)).modThreads (activeOf (.trap g code) st p)
          fun _ th => { th with awaits := true })) ∧
    WordFaults (.trap g code) s (fun w f => w.st.mask.global = true ∧ f = { code := 14, lane := w.act.headD 0 }) ∧
    (∀ st p, Issues (.brk g) s st p → st.mask.brk = true → st.mask.global = false →
      WordRuns (.brk g) s s (raiseTrap st (causeWord 5 0) (activeOf (.brk g) st p))) ∧
    (∀ st p, Issues (.brk g) s st p → (st.mask.brk = false ∨ st.mask.global = true) → WordRuns (.brk g) s s st) ∧
    (∀ set, WordFaults (.tret g set) s (fun w f => causeKind w.st.cause = 0 ∧ f = { code := 3, lane := w.act.headD 0 })) ∧
    (∀ set, WordFaults (.tret g set) s fun w f =>
      let target (l : Nat) : Int := match set with
        | some a => (w.st.thread l).vget a
        | none => (w.st.thread l).savedPc
      causeKind w.st.cause ≠ 0 ∧ ∃ pre l post, w.act = pre ++ l :: post ∧ (∀ q ∈ pre, target q % 3 = 0) ∧ target l % 3 ≠ 0 ∧
        f = { code := 4, lane := l, addr := some (target l) }) ∧
    StateBecomes (.tret g none) s
      (fun w => causeKind w.st.cause ≠ 0 ∧ ∀ l ∈ w.act, (w.st.thread l).savedPc % 3 = 0) (fun w =>
      let st2 := leavePick w.st w.act (w.pos + 1) fun _ th => { th with status := .inTret }
      allocate (s.setStrand w.k (leaveHandler st2)) w.st.core) ∧
    StateBecomes (.tret g (some a)) s
      (fun w => causeKind w.st.cause ≠ 0 ∧ ∀ l ∈ w.act, (w.st.thread l).vget a % 3 = 0) (fun w =>
      let st1 := w.st.modThreads w.act fun _ th => { th with savedPc := th.vget a, savedPos := 0 }
      let st2 := leavePick st1 w.act (w.pos + 1) fun _ th => { th with status := .inTret }
      allocate (s.setStrand w.k (leaveHandler st2)) w.st.core)

/-! ### Memory words (R248 to R273) -/

/-- R92, R103, R119, R252 to R255, R261 to R263, R265, R360, R372: a device word whose lanes all pass their checks and have
their homes at hand acts lane by lane, in ascending order (an atomic's lanes of one location one after the other, where
its locations first come), then writes its registers and gains. Memory: a store leaves its elements, an atomic the new
value of its operation, where it has one, and a load nothing. Registers: each active lane of an atom or acq holds what
its lane found at the home; each lane of an ld, or the strand for an ldu, does where no resident line of the core differs
from the home, and a lone lane that hits in the cache holds what the resident lines hold; the other words write none. -/
def Obligations.DeviceWordsAct : Prop :=
  ∀ (s : State) (g : Guard) (t : EType) (sat all : Bool) (d a b : Nat) (imm : Int) (x : MemExt) (y : AtomExt)
    (sc : Scope) (i : Instr),
    i ∈ [Instr.ldI g t d a imm, .ldL g t d a x, .stI g t d a imm, .stL g t d a x, .lduI g t d a imm,
      .lduL g t d a imm, .stuI g t d a imm, .stuL g t d a imm, .atom g t sat d a b y, .red g t sat a b y,
      .acq g sc all d a b, .rel g sc all d a b] →
    ∃ m, memOf i = some m ∧ ∀ st p ls, Issues i s st p → checkLanes (wordOf i s st p) m = .ok ls →
      ls.all isHere = true → (∀ q ∈ ls, q.waits = false) →
      let w := wordOf i s st p
      let r := performLanes (fillLanes w m ls) m ls
      let s' := settleMem r.1 s.cursor m r.2 (boundNow w m ls)
      let keys (q : LaneAcc) : List Nat := match q.target with
        | .here ks => ks.map Prod.fst
        | .peer .. => []
      let put (mem : Cells) (q : LaneAcc) (v : Int) : Cells :=
        ((keys q).zip (toTrytes m.size v)).foldl (fun c k => c.put k.1 k.2) mem
      let one (r : Cells × List (Nat × Int)) (q : LaneAcc) : Cells × List (Nat × Int) :=
        let old := ofTrytes ((keys q).map r.1.get)
        (match m.kind with
         | .load => r.1
         | .store => put r.1 q q.data
         | .atomic => ((m.rmw old q.data q.expect).map (put r.1 q)).getD r.1, r.2 ++ [(q.lane, old)])
      let order := if m.kind = .atomic then byLocation ls.length ls else ls
      let home := order.foldl one (s.mem, [])
      let fresh : Prop := m.hint = 3 ∨ ∀ l ∈ (s.core st.core).dcache, ∀ q ∈ ls, ∀ key ∈ keys q,
        lineOf key = l.line → l.trytes.getD (key - lineBase l.line) 0 = s.mem.get key
      let inLines (xs : List DLine) (key : Nat) : Int :=
        ((xs.find? fun l => l.line == lineOf key).map fun l => l.trytes.getD (key - lineBase l.line) 0).getD 0
      let regs (st₁ : Strand) (found : List (Nat × Int)) : Prop := match i with
        | .ldI .. | .ldL .. | .atom .. => ∀ l, l < st.threads.length → (st₁.thread l).v =
            ((found.filter fun o => o.1 == l).foldl (fun th o => vEput th t d o.2) (st.thread l)).v
        | .acq .. => ∀ l, l < st.threads.length → (st₁.thread l).v =
            ((found.filter fun o => o.1 == l).foldl (fun th o => th.vput d o.2) (st.thread l)).v
        | .lduI .. | .lduL .. => st₁.s =
            (found.foldl (fun st o => if t = .p then st.sputPair d o.2 else st.sput d o.2) st).s
        | _ => st₁.s = st.s ∧ ∀ l, (st₁.thread l).v = (st.thread l).v
      ∃ st₁, s'.strands.get? s.cursor = some st₁ ∧ WordRuns i s s' st₁ ∧
        s'.mem = home.1 ∧ s'.host = s.host ∧ (fresh → regs st₁ home.2) ∧
        (∀ q xs, ls = [q] → m.hint ≠ 3 → residentFor s st.core s.cursor m.hint (keys q) = some xs →
          regs st₁ [(q.lane, ofTrytes ((keys q).map (inLines xs)))])

/-- R94, R96 to R98, R250, R252, R253, R275, R366, R371: the pointer of each lane's access, uniform words accessing once,
for their lowest active lane; and the faults of these words. Of each lane's address the first check that it fails gives
its fault: the sum in range, the selector, the space, the alignment, then the translation of every tryte, and then the
permissions. The lowest lane that fails gives the word's fault, with the address of its access (for a space crossing the
base register's value); where none fails, the lowest lane that meets a word which cannot be read gives the
data-integrity fault. Nothing but lines, TLBs and counts of errors has changed before the fault is raised: no lane has
had an effect. -/
def Obligations.DeviceAddresses : Prop :=
  (∀ (s : State) (st : Strand) (g : Guard) (t : EType) (sat all : Bool) (d a b : Nat) (imm : Int) (x : MemExt)
    (y : AtomExt) (sc : Scope) (k : Nat) (act : List Nat) (header : Int) (pos : Nat),
    let index (r : Option Nat) (l : Nat) : Int := match r with | some r => (st.thread l).vget r | none => 0
    let at_ (i : Instr) (lanes : List Nat) (disp : Nat → Int) : Prop :=
      ∃ m, memOf i = some m ∧ ∀ ls, checkLanes ⟨s, k, st, act, header, pos⟩ m = .ok ls →
        ls.map (·.lane) = lanes ∧ ∀ q ∈ ls, q.ptr = st.areg a + disp q.lane
    at_ (.ldI g t d a imm) act (fun l => trytesOf t * (imm + l)) ∧
    at_ (.stI g t d a imm) act (fun l => trytesOf t * (imm + l)) ∧
    at_ (.ldL g t d a x) act (fun l => trytesOf t * (index x.index l + x.disp)) ∧
    at_ (.stL g t d a x) act (fun l => trytesOf t * (index x.index l + x.disp)) ∧
    at_ (.lduI g t d a imm) (act.take 1) (fun _ => trytesOf t * imm) ∧
    at_ (.lduL g t d a imm) (act.take 1) (fun _ => trytesOf t * imm) ∧
    at_ (.stuI g t d a imm) (act.take 1) (fun _ => trytesOf t * imm) ∧
    at_ (.stuL g t d a imm) (act.take 1) (fun _ => trytesOf t * imm) ∧
    at_ (.atom g t sat d a b y) act (fun l => trytesOf t * index y.index l) ∧
    at_ (.red g t sat a b y) act (fun l => trytesOf t * index y.index l) ∧
    at_ (.acq g sc all d a b) act (fun l => 3 * (st.thread l).vget b) ∧
    at_ (.rel g sc all d a b) act (fun l => 3 * (st.thread l).vget b)) ∧
  (∀ (s : State) (i : Instr) (m : Mem), memOf i = some m →
    let lanes (w : Word_) : List Nat := if m.once then w.act.take 1 else w.act
    let ptr (w : Word_) (l : Nat) : Int := w.st.areg m.base + m.disp w.st l
    let inRange (w : Word_) (l : Nat) : Prop := fits 44 (addrOf (w.st.areg m.base) + m.disp w.st l) = true
    let pages (w : Word_) (l : Nat) : List (Except Nat Place) := (List.range m.size).map fun (n : Nat) =>
      translate s (s.weaveOf w.st).ctx m.want (ptr w l + (n : Int)) (.core w.st.core)
    let first (c : Nat) (ok : Nat → Prop) (rs : List (Option Nat)) : Prop :=
      ∃ pre post, rs = pre ++ some c :: post ∧ ok c ∧ ∀ r ∈ pre, ∀ c', r = some c' → ¬ ok c'
    let codeOf {α : Type} (r : Except Nat α) : Option Nat := match r with | .error c => some c | .ok _ => none
    let faulty (w : Word_) (l : Nat) : List (Option Nat) := (pages w l).map codeOf
    let closed (w : Word_) (l : Nat) : List (Option Nat) := (pages w l).map fun r => codeOf (r.bind (placeKey s m.want))
    let fails (w : Word_) (l c : Nat) (x : Int) : Prop :=
      (¬ inRange w l ∧ c = 6 ∧ x = w.st.areg m.base) ∨
      (inRange w l ∧ x = ptr w l ∧
        ((spaceOf (ptr w l) = 1 ∧ c = 5) ∨ (spaceOf (ptr w l) = 0 ∧ c = 2) ∨
         (spaceOf (ptr w l) = -1 ∧ addrOf (ptr w l) % m.size ≠ 0 ∧ c = 4) ∨
         (spaceOf (ptr w l) = -1 ∧ addrOf (ptr w l) % m.size = 0 ∧
           (first c (· ≠ 2) (faulty w l) ∨
             ((∀ c', ¬ first c' (· ≠ 2) (faulty w l)) ∧ first c (fun _ => True) (closed w l))))))
    let broken (w : Word_) (l : Nat) : Prop := ∃ ks,
      homeKeys s (s.weaveOf w.st).ctx m.want (ptr w l) m.size (.core w.st.core) = .ok ks ∧
        ¬ (m.kind = .load ∧ m.hint ≠ 3 ∧ (residentFor s w.st.core w.k m.hint (ks.map Prod.fst)).isSome = true) ∧
        brokenAt s (ks.map Prod.fst) = true
    let lowest (w : Word_) (bad : Nat → Prop) (l : Nat) : Prop :=
      ∃ pre post, lanes w = pre ++ l :: post ∧ bad l ∧ ∀ q ∈ pre, ¬ bad q
    WordFaultsIn i s (fun w f s₁ => s₁ = triedLanes w m ∧ ∃ l,
      (lowest w (fun q => ∃ c x, fails w q c x) l ∧ ∃ c x, fails w l c x ∧ f = { code := c, lane := l, addr := some x }) ∨
      ((∀ q ∈ lanes w, ∀ c x, ¬ fails w q c x) ∧ lowest w (broken w) l ∧
        f = { code := 7, lane := l, addr := some (ptr w l) })) ∧
    (∀ w, let t := triedLanes w m
      t.mem = w.s.mem ∧ t.host = w.s.host ∧ t.strands = w.s.strands ∧ t.accs = w.s.accs ∧ t.packets = w.s.packets ∧
        t.contexts = w.s.contexts))

/-- R102, R103, R254: plain stores change just the trytes their lanes name: a tryte that several lanes name holds what
the highest of them stored, every other tryte of memory is unchanged, and so is host memory. -/
def Obligations.StoresChangeTheirTrytes : Prop :=
  ∀ (w : Word_) (m : Mem) (ls : List LaneAcc), m.kind = .store → Memory.wf w.s = true → ls.all isHere = true →
    let pairs : List (Nat × Int) := ls.flatMap fun x => match x.target with
      | .here ks => (ks.map Prod.fst).zip (toTrytes m.size x.data)
      | .peer .. => []
    let s' := (performLanes w m ls).1
    (∀ key, s'.mem.get key = ((pairs.reverse.find? fun x => x.1 == key).map Prod.snd).getD (w.s.mem.get key)) ∧
    s'.host = w.s.host ∧ Memory.wf s' = true ∧
    ∀ k outs bs, (settleMem s' k m outs bs).mem = s'.mem ∧ (settleMem s' k m outs bs).host = s'.host

/-- R102, R254, R359, R360: a load at its homes, or a plain load that no resident line of its core serves, reads memory
as it stands (that a resident line serves a strand no more for what the strand has read newer, or a pair over two lines
that would not be the whole of one write, is the model's reading, logs 31 and 107); one that resident lines serve reads
those; none changes memory. R103, R262, R263: an atomic at its home returns the old value and leaves the new one, for an
operation that writes; one that does not write leaves memory as it was. R262: the new value is that of the table, for
every operation. -/
def Obligations.LoadsAndAtomicsRead : Prop :=
  (∀ (w : Word_) (m : Mem) (x : LaneAcc) (ks : List (Nat × Bool)), m.kind = .load → x.target = .here ks →
      let r := performLanes w m [x]
      let resident := if m.hint = 3 then none else residentFor w.s w.st.core w.k m.hint (ks.map Prod.fst)
      (resident = none → r.2 = [(x.lane, ofTrytes (ks.map fun k => w.s.mem.get k.1))]) ∧
      (∀ ls, resident = some ls →
        r.2 = [(x.lane, ofTrytes (ks.map fun k =>
          ((ls.find? fun l => l.line == lineOf k.1).map fun l => l.trytes.getD (k.1 - lineBase l.line) 0).getD 0))] ∧
        ∀ k ∈ ks, ∃ l ∈ ls, l ∈ (w.s.core w.st.core).dcache ∧ l.line = lineOf k.1) ∧
      r.1.mem = w.s.mem ∧ r.1.host = w.s.host) ∧
  (∀ (s : State) (core k : Nat) (m : Mem) (ks : List (Nat × Bool)) (data expect : Int),
      m.kind = .atomic → Memory.wf s = true → (ks.map Prod.fst).Nodup → ks.length = m.size →
      let old := ofTrytes (ks.map fun k => s.mem.get k.1)
      (perform s core k m ks data expect).2 = old ∧
      (m.rmw old data expect = none → (perform s core k m ks data expect).1.mem = s.mem) ∧
      (∀ new, m.rmw old data expect = some new →
        ks.map (fun x => (perform s core k m ks data expect).1.mem.get x.1) = toTrytes m.size new ∧
        ∀ key, key ∉ ks.map Prod.fst → (perform s core k m ks data expect).1.mem.get key = s.mem.get key)) ∧
  (∀ (g : Guard) (t : EType) (sat : Bool) (d a b : Nat) (y : AtomExt), ∀ i,
      i = .atom g t sat d a b y ∨ i = .red g t sat a b y →
      ∃ m, memOf i = some m ∧ m.kind = .atomic ∧ m.size = trytesOf t ∧ m.rmw = atomNew t sat y.op) ∧
  (∀ (t : EType) (sat : Bool) (o b e : Int) (pos len : Nat),
      let n := 9 * trytesOf t
      let floats (op : Fmt → Int) (ints : Int) : Option Int := some (match t with
        | .f9 => op fmt9
        | .f27 => op fmt27
        | _ => ints)
      atomNew t sat .add o b e = floats (fun f => (fsum f sat [[fdecode f o], [fdecode f b]]).w)
        (if sat then (saturate (o + b) n).w else wrapVal (o + b) n) ∧
      atomNew t sat .min o b e = floats (fun f => (fpick f false (fdecode f o) (fdecode f b)).w) (min o b) ∧
      atomNew t sat .max o b e = floats (fun f => (fpick f true (fdecode f o) (fdecode f b)).w) (max o b) ∧
      atomNew t sat .xchg o b e = some b ∧
      (o = e → atomNew t sat .cas o b e = some b) ∧ (o ≠ e → atomNew t sat .cas o b e = none) ∧
      atomNew t sat .tand o b e = some (tritwise (fun x y => min x y) n o b) ∧
      atomNew t sat .tor o b e = some (tritwise (fun x y => max x y) n o b) ∧
      atomNew t sat (.tins pos len) o b e = some (setField n o pos len (lowTrits b len)))

/-- R49, R97, R99, R252, R253, R258, R275, R432, R434: lds reads, and sts writes, the window words that its lanes name; what
lds reads with one trit in error is corrected and counted. Where a lane's address fails, the lowest such lane gives the fault:
the space crossing of a sum out of range, then the protection fault of a register, or of a word of the access, outside the
window, and then for sts that of a word of a configured region. Where none fails, the lowest lane with a word that cannot be
read gives the data-integrity fault. That a region's data span follows its table as it stands is the model's choice (log 112).
-/
def Obligations.ScratchpadWords : Prop :=
  ∀ (s : State) (g : Guard) (p : Bool) (d a : Nat) (imm : Int) (x : MemExt),
    let z : Nat := if p then 2 else 1
    let disp (i : Instr) (st : Strand) (l : Nat) : Int := match i with
      | .ldsL .. | .stsL .. => (z : Int) * (indexOf x.index st l + x.disp)
      | _ => (z : Int) * (imm + l)
    let at_ (i : Instr) (w : Word_) (l : Nat) : Except FaultInfo Nat :=
      windowAt (s.weaveOf w.st) (w.st.areg a) (disp i w.st l) z l
    let cluster (w : Word_) : Cluster := s.cluster (clusterOf w.st.core)
    let region (w : Word_) (k : Nat) : Bool := inRegion (s.weaveOf w.st).slots (cluster w).scratch k
    let reads (w : Word_) (k : Nat) (v : Int) : Prop :=
      readWindow (cluster w).scratch (s.weaveOf w.st).slots k = some v ∧
        windowBroken (cluster w) (s.weaveOf w.st).slots k = false
    let faults (i : Instr) (guarded : Word_ → Nat → Bool) (spoilt : Word_ → Nat → Prop) : Prop :=
      WordFaults i s fun w f =>
        let passes (l : Nat) : Prop := ∃ j, at_ i w l = .ok j ∧ ∀ n : Nat, n < z → guarded w (j + n) = false
        let sound (l : Nat) : Prop := ∀ j, at_ i w l = .ok j → ∀ n : Nat, n < z → ¬ spoilt w (j + n)
        ∃ pre l post, w.act = pre ++ l :: post ∧
          (((∀ q ∈ pre, passes q) ∧ at_ i w l = .error f) ∨
           ((∀ q ∈ pre, passes q) ∧ ∃ j n : Nat, at_ i w l = .ok j ∧ n < z ∧ (∀ k : Nat, k < n → guarded w (j + k) = false) ∧
             guarded w (j + n) = true ∧ f = { code := 2, lane := l, addr := some ((j + n : Nat) : Int) }) ∨
           ((∀ q ∈ w.act, passes q) ∧ (∀ q ∈ pre, sound q) ∧ ∃ j n : Nat, at_ i w l = .ok j ∧ n < z ∧
             (∀ k : Nat, k < n → ¬ spoilt w (j + k)) ∧ spoilt w (j + n) ∧
             f = { code := 7, lane := l, addr := some ((j + n : Nat) : Int) }))
    (∀ i, i = .ldsI g p d a imm ∨ i = .ldsL g p d a x →
      (∀ st q (j : Nat → Nat) (v : Nat → Int), Issues i s st q →
        (∀ l ∈ activeOf i st q, ∃ lo, at_ i (wordOf i s st q) l = .ok (j l) ∧ reads (wordOf i s st q) (j l) lo ∧
          if p then ∃ hi, reads (wordOf i s st q) (j l + 1) hi ∧ v l = pairOf lo hi else v l = lo) →
        let taken := (activeOf i st q).flatMap fun l => (List.range z).flatMap fun n =>
          windowWords (cluster (wordOf i s st q)).scratch (s.weaveOf st).slots (j l + n)
        WordRuns i s (countScratch s (clusterOf st.core) taken)
          (st.modThreads (activeOf i st q) fun l th => if p then th.vputPair d (v l) else th.vput d (v l))) ∧
      faults i (fun _ _ => false) (fun w k => ∀ v, ¬ reads w k v)) ∧
    (∀ i, i = .stsI g p d a imm ∨ i = .stsL g p d a x →
      (∀ st q (j : Nat → Nat), Issues i s st q →
        (∀ l ∈ activeOf i st q, at_ i (wordOf i s st q) l = .ok (j l) ∧
          ∀ n : Nat, n < z → region (wordOf i s st q) (j l + n) = false ∧
            (cluster (wordOf i s st q)).lostWord (j l + n) = false) →
        ∃ st₁ s₁, s₁ = writeScratch s (clusterOf st.core) ((activeOf i st q).flatMap fun l =>
            if p then [(j l, (st.thread l).vget d), (j l + 1, (st.thread l).vget (d + 1))] else [(j l, (st.thread l).vget d)]) ∧
          s₁.strands.get? s.cursor = some st₁ ∧ WordRuns i s s₁ st₁) ∧
      faults i region (fun w k => (cluster w).lostWord k = true)) ∧
    (∀ (wv : Weave) (reg e : Int) (n l : Nat),
      let inside (v : Int) (n : Nat) : Prop :=
        fits 44 v = true ∧ trit 45 v 44 = 0 ∧ (wv.base : Int) ≤ v ∧ v + n ≤ ((wv.base + wv.len : Nat) : Int)
      let stop (c : Nat) (v : Int) : Except FaultInfo Nat := .error { code := c, lane := l, addr := some v }
      (fits 44 (addrOf reg + e) = false → windowAt wv reg e n l = stop 6 reg) ∧
      (fits 44 (addrOf reg + e) = true → ¬ inside reg 1 → windowAt wv reg e n l = stop 2 (addrOf reg)) ∧
      (fits 44 (addrOf reg + e) = true → inside reg 1 → ¬ inside (reg + e) n →
        windowAt wv reg e n l = stop 2 (addrOf (reg + e))) ∧
      (fits 44 (addrOf reg + e) = true → inside reg 1 → inside (reg + e) n →
        windowAt wv reg e n l = .ok (reg + e).toNat))

/-- R85, R86, R89 to R92, R98, R253, R254, R256, R257, R373, R437: a host word whose lanes pass their checks enters one
access for each lane. An sth whose lanes are all translated is then over: its bytes stand in host memory, in ascending
lane order, a lane that the trapping form traps leaving none. An ldh waits for its lanes' bytes, its pick holding it
(the model's way, log 69); once all are here each good value is in its register, lanes that trap have their registers
unchanged, and the pick goes on; an invalid code is the data-integrity fault of the lowest lane that has one. With the
I/O link down each access is entered as failed with code 7 (log 68). -/
def Obligations.HostWords : Prop :=
  ∀ (s : State) (g : Guard) (k : Kind) (t : EType) (sat : Bool) (d a : Nat) (x : MemExt),
    let ldh : Instr := .ldh g k t sat d a x
    let sth : Instr := .sth g k t sat d a x
    let n := kindBytes k t
    let mem (write : Bool) : HostMem := ⟨write, k, t, sat, d, a, x⟩
    let access (write : Bool) (st : Strand) (p : Pick) (l : Nat × Int) : Acc :=
      { group := s.nextId, strand := s.cursor, lane := l.1, i := if write then sth else ldh,
        w0 := (p.words[p.pos]?).getD 0, w1 := (p.words[p.pos + 1]?).getD 0, addr := l.2,
        kind := if write then .store else .load, size := n, data := if write then vE (st.thread l.1) t d else 0,
        phase := if ioDown s (dieOf st.core) then .failed 7
          else if hostGranted s (s.weaveOf st).ctx write l.2.toNat n then .ready else .xlate false }
    let entered (write : Bool) (st : Strand) (p : Pick) (ls : List (Nat × Int)) : State :=
      { s with nextId := s.nextId + 1, accs := s.accs ++ ls.map (access write st p) }.setStrand s.cursor
        { st with pick := some { p with busy := some s.nextId } }
    let checked (write : Bool) (st : Strand) (p : Pick) (ls : List (Nat × Int)) : Prop :=
      Issues (if write then sth else ldh) s st p ∧
        (activeOf (if write then sth else ldh) st p).mapM
          (checkHost (wordOf (if write then sth else ldh) s st p) (mem write)) = .ok ls
    let unused : Prop := ∀ c ∈ s.accs, c.group ≠ s.nextId
    let traps (st : Strand) : Bool := !sat && st.mask.range && !st.mask.global
    let trapped (st : Strand) (ls : List Nat) : Strand :=
      if traps st = true ∧ ls ≠ [] then raiseTrap st (causeWord 3 (kindIndex k)) ls else st
    (∀ write st p ls, checked write st p ls →
      exec (if write then sth else ldh) s = .next (finishHost (entered write st p ls) s.nextId)) ∧
    (∀ st p ls, checked false st p ls → unused → ioDown s (dieOf st.core) = false →
      exec ldh s = .next (entered false st p ls)) ∧
    (∀ st p ls, checked true st p ls → unused → ioDown s (dieOf st.core) = false →
      (∀ l ∈ ls, hostGranted s (s.weaveOf st).ctx true l.2.toNat n = true) →
      let conv (l : Nat × Int) := toHost k t (vE (st.thread l.1) t d)
      let bytes (l : Nat × Int) : List Nat := match conv l with
        | .ok bs => bs
        | .range bs => if traps st then [] else bs
        | .bad _ => []
      let ranged := ls.filterMap fun l => match conv l with | .range _ => some l.1 | _ => none
      WordRuns sth s
        { s with nextId := s.nextId + 1, host := (ls.foldl (fun s' l => writeHost s' l.2.toNat (bytes l)) s).host }
        (trapped st ranged)) ∧
    (∀ (st : Strand) (p : Pick) (grp key : Nat) (as : List Acc), groupOf s grp = as → as ≠ [] →
      (∀ c ∈ as, c.i = ldh ∧ c.phase = .done ∧ c.replay = false ∧ c.strand = key) →
      s.strands.get? key = some st → st.pick = some p →
      let conv (c : Acc) := fromHost k t (c.result.map Int.toNat)
      let put (y : Strand) (l : Nat) (v : Int) : Strand := y.setThread l (vEput (y.thread l) t d v)
      let loaded := as.foldl (fun y c => match conv c with
        | .ok v => put y c.lane v
        | .range v => if traps st then y else put y c.lane v
        | .bad _ => y) st
      let ranged := as.filterMap fun c => match conv c with | .range _ => some c.lane | _ => none
      ((∀ c ∈ as, ∀ j, conv c ≠ .bad j) → ∃ st', finishHost s grp =
        { captureLanes s (s.weaveOf st).ctx as with accs := s.accs.filter fun c => c.group != grp }.setStrand key st' ∧
        Finished ldh (trapped loaded ranged) st') ∧
      (∀ pre c post j, as = pre ++ c :: post → (∀ q ∈ pre, ∀ j, conv q ≠ .bad j) → conv c = .bad j →
        finishHost s grp = groupFault (captureLanes s (s.weaveOf st).ctx as) key grp c 7))

/-- R272, R360, R361, R401: dpf never faults and brings lines into the core's cache: a line at hand at once, one of another
die by a request, with a number and a permit, that its thread does not wait for; a line that does not translate is
dropped. cwb writes lines back, and cinv discards the core's lines, when every line it names translates; a line that does
not is a fault, and none is acted on. A host pointer or a count of 0 or less does nothing. None of them changes what
memory holds. -/
def Obligations.CacheMaintenance : Prop :=
  ∀ (s : State) (g : Guard) (a b : Nat),
    let ctx (w : Word_) : Nat := (s.weaveOf w.st).ctx
    let ptrs (w : Word_) : List Int := linePtrs (w.st.areg a) (w.st.sget b)
    let same (t : State) : Prop := t.mem = s.mem ∧ t.host = s.host
    let walked (w : Word_) : State := lineWalks s w.st.core (ctx w) (ptrs w)
    let fetched (w : Word_) : State := (ptrs w).foldl (prefetchAt w (.dpf g a b)) s
    let homes (w : Word_) (q : Int) : Except Nat Nat :=
      if fits 44 (q + 3 ^ 44) then (homeKeys s (ctx w) .read q 1 (.core w.st.core)).map fun ks => lineOf ((ks.map Prod.fst).headD 0)
      else .error 6
    StateBecomes (.dpf g a b) s (fun w => spaceOf (w.st.areg a) = -1) fetched ∧ (∀ w, w.s = s → same (fetched w)) ∧
    StateBecomes (.dpf g a b) s (fun w => spaceOf (w.st.areg a) ≠ -1) (fun _ => s) ∧
    (∀ (w : Word_) (i : Instr) (t : State) (q : Int), w.s = s →
      let filled := fillTlb t (.core w.st.core) (ctx w) q
      let word (n : Nat) : Int := ((w.st.pick.bind fun p => p.words[w.pos + n]?)).getD 0
      (fits 44 (q + 3 ^ 44) = false → prefetchAt w i t q = t) ∧
      (∀ c, fits 44 (q + 3 ^ 44) = true → translate s (ctx w) .read q (.core w.st.core) = .error c → prefetchAt w i t q = filled) ∧
      (∀ k z, fits 44 (q + 3 ^ 44) = true → translate s (ctx w) .read q (.core w.st.core) = .ok (.home k z) →
        let ks := (List.range 81).map (lineBase (lineOf k) + ·)
        prefetchAt w i t q =
          if ((filled.core w.st.core).dcache.any fun l => l.line == lineOf k) = true ∨ brokenAt filled ks = true ∨
            tierWaits filled ks = true then filled else fetchLine filled w.st.core (lineOf k) false) ∧
      (∀ o e f, fits 44 (q + 3 ^ 44) = true → translate s (ctx w) .read q (.core w.st.core) = .ok (.peer o e f) →
        prefetchAt w i t q =
          if ((placeKey s .read (.peer o e f)).toOption.any fun k => resident s w.st.core [k.1]) = true then filled
          else sendRequests { filled with
            nextId := filled.nextId + 1
            accs := filled.accs ++ [{
              group := filled.nextId, strand := w.k, lane := w.act.headD 0, once := true, i, w0 := word 0, w1 := 0,
              addr := q - (field 45 q 0 4 : Int), kind := .load, size := 81, peer := some (o, e, f - field 45 q 0 4),
              prefetch := some (128 * (w.st.core / 64) + w.st.core % 64), phase := .ready }] }
            (128 * (w.st.core / 64) + w.st.core % 64) o)) ∧
    (∀ i, i = .cwb g a b ∨ i = .cinv g a b →
      StateBecomes i s (fun w => spaceOf (w.st.areg a) = 0 ∨ w.st.sget b ≤ 0) (fun _ => s) ∧
      WordFaults i s (fun w f => spaceOf (w.st.areg a) = 1 ∧ 0 < w.st.sget b ∧
        f = { code := 5, lane := w.act.headD 0, addr := some (w.st.areg a) }) ∧
      WordFaultsIn i s (fun w f s₁ => spaceOf (w.st.areg a) = -1 ∧ s₁ = walked w ∧
        ∃ pre q post c, ptrs w = pre ++ q :: post ∧ (∀ r ∈ pre, ∃ n, homes w r = .ok n) ∧ homes w q = .error c ∧
          f = { code := c, lane := w.act.headD 0, addr := some (if c = 6 then w.st.areg a else q) })) ∧
    (∀ st p lines, Issues (.cwb g a b) s st p → spaceOf (st.areg a) = -1 → 0 < st.sget b →
      let w := wordOf (.cwb g a b) s st p
      (ptrs w).mapM (homes w) = .ok lines →
      ∃ st₁ s₁, s₁ = lines.foldl (fun s' n => writeBack s' (n / 3 ^ 27) (n % 3 ^ 27)) (walked w) ∧ same s₁ ∧
        s₁.strands.get? s.cursor = some st₁ ∧ WordRuns (.cwb g a b) s s₁ st₁) ∧
    (∀ st p lines, Issues (.cinv g a b) s st p → spaceOf (st.areg a) = -1 → 0 < st.sget b →
      let w := wordOf (.cinv g a b) s st p
      (ptrs w).mapM (homes w) = .ok lines →
      ∃ st₁, (dropAll (walked w) st.core).strands.get? s.cursor = some st₁ ∧
        WordRuns (.cinv g a b) s (dropAll (walked w) st.core) st₁) ∧
    (∀ core, ((dropAll s core).core core).dcache = [] ∧ same (dropAll s core))

/-- R252, R253, R261 to R264, R275, R434: the lanes of an atoms act one after the other, in ascending order, on their window
words, each new value by the table of R262 (LoadsAndAtomicsRead states it); an acquire gains as .all, and a word read with
one trit in error is corrected and counted. Its lanes' addresses fail as those of sts (ScratchpadWords states which),
the lowest lane that fails giving the fault, and a word of a configured region is protected; where none fails, the
lowest lane with a word that cannot be read gives the data-integrity fault. That a region's data span follows its table is the
model's choice (log 112). -/
def Obligations.WindowAtomics : Prop :=
  ∀ (s : State) (g : Guard) (t : EType) (sat : Bool) (d a b : Nat) (x : AtomExt),
    let i : Instr := .atoms g t sat d a b x
    let n : Nat := if t = .p then 2 else 1
    let at_ (st : Strand) (l : Nat) : Except FaultInfo Nat :=
      windowAt (s.weaveOf st) (st.areg a) (n * indexOf x.index st l) n l
    let region (st : Strand) (k : Nat) : Bool := inRegion (s.weaveOf st).slots (s.cluster (clusterOf st.core)).scratch k
    let lost (st : Strand) (k : Nat) : Bool := windowBroken (s.cluster (clusterOf st.core)) (s.weaveOf st).slots k
    (∀ (st : Strand) (p : Pick) (j : Nat → Nat),
      let act := activeOf i st p
      let cl := clusterOf st.core
      Issues i s st p →
      (∀ l ∈ act, at_ st l = .ok (j l) ∧ ∀ k : Nat, k < n → region st (j l + k) = false ∧ lost st (j l + k) = false) →
      let old (s' : State) (l : Nat) : Int :=
        let sc := (s'.cluster cl).scratch
        if n = 2 then pairOf (sc.get (j l)) (sc.get (j l + 1)) else sc.get (j l)
      let one (r : State × List (Nat × Int)) (l : Nat) : State × List (Nat × Int) :=
        (match atomNew t sat x.op (old r.1 l) (dataV t b st l) (dataV t d st l) with
         | some v => writeScratch r.1 cl (if n = 2 then [(j l, loWord v), (j l + 1, hiWord v)] else [(j l, v)])
         | none => r.1, r.2 ++ [(l, old r.1 l)])
      let words := (act.flatMap fun l => (List.range n).map fun k => j l + k).eraseDups
      let r := act.foldl one (countScratch s cl words, [])
      ∃ st' st₁, r.1.strands.get? s.cursor = some st' ∧
        st₁ = r.2.foldl (fun y o => putV t d y o.1 o.2) st' ∧
        WordRuns i s (if x.order = .acq ∨ x.order = .ar then dropAll r.1 st.core else r.1) st₁) ∧
    WordFaults i s fun w f =>
      let passes (l : Nat) : Prop := ∃ j, at_ w.st l = .ok j ∧ ∀ k : Nat, k < n → region w.st (j + k) = false
      let sound (l : Nat) : Prop := ∀ j, at_ w.st l = .ok j → ∀ k : Nat, k < n → lost w.st (j + k) = false
      ∃ pre l post, w.act = pre ++ l :: post ∧
        (((∀ q ∈ pre, passes q) ∧ at_ w.st l = .error f) ∨
         ((∀ q ∈ pre, passes q) ∧ ∃ j m : Nat, at_ w.st l = .ok j ∧ m < n ∧ (∀ k : Nat, k < m → region w.st (j + k) = false) ∧
           region w.st (j + m) = true ∧ f = { code := 2, lane := l, addr := some ((j + m : Nat) : Int) }) ∨
         ((∀ q ∈ w.act, passes q) ∧ (∀ q ∈ pre, sound q) ∧ ∃ j m : Nat, at_ w.st l = .ok j ∧ m < n ∧
           (∀ k : Nat, k < m → lost w.st (j + k) = false) ∧ lost w.st (j + m) = true ∧
           f = { code := 7, lane := l, addr := some ((j + m : Nat) : Int) }))

/-- R107, R114, R123, R266 to R269, R298, R360: bindings enter and leave the context's table with a status, and fences drop
what a core holds of other paths; a matrix operation whose reads of other dies a fencex finds begun fills no latch. -/
def Obligations.BindingsAndFences : Prop :=
  ∀ (s : State) (g : Guard) (c a b n : Nat) (sc : Scope) (q r : Path),
    let ctx (w : Word_) : Nat := (s.weaveOf w.st).ctx
    let held (w : Word_) : List Binding := ((s.contexts.get? (ctx w)).map (·.bindings)).getD []
    (∀ st p obj, Issues (.bind g c a b sc n) s st p → checkPtr (st.areg a) 0 false 3 = .ok obj →
      let w := wordOf (.bind g c a b sc n) s st p
      let status : Int :=
        if spaceOf (st.areg b) ≠ -1 ∨ st.sget n < 1 ∨ 3 ^ 26 < st.sget n then -1
        else if 729 ≤ (held w).length ∨ 8 ≤ ((held w).filter fun x => x.obj == obj).length then 0 else 1
      WordRuns (.bind g c a b sc n) s
        (if status = 1 then s.modCtx (ctx w) fun x =>
          { x with bindings := x.bindings ++ [⟨obj, st.areg b, (st.sget n).toNat, sc⟩] } else s)
        (st.modThreads w.act fun _ th => th.setCond c { sign := status })) ∧
    (∀ o st p obj, Issues (.unbind g a o) s st p → checkPtr (st.areg a) 0 false 3 = .ok obj →
      WordRuns (.unbind g a o) s
        (s.modCtx (s.weaveOf st).ctx fun x => { x with bindings := x.bindings.filter fun y =>
          !(y.obj == obj && (match o with | some k => y.base == st.areg k | none => true)) }) st) ∧
    StateBecomes (.fence g sc) s (fun _ => True) (fun w => dropAll s w.st.core) ∧
    StateBecomes (.fencex g q r) s (fun _ => q ≠ r ∧ r = .core) (fun w => dropAll s w.st.core) ∧
    StateBecomes (.fencex g q r) s (fun _ => q ≠ r ∧ r = .matrix) (fun w =>
      let reads (y : Nat × EngOp) : Bool := y.2.unit == .matrix && y.2.core == w.st.core &&
        (!y.2.got.isEmpty || s.accs.any fun a => a.eng.isSome && a.group == y.1)
      { s.modCore w.st.core (fun x => { x with latch := none }) with
        ops := s.ops.map fun y => (y.1, if reads y then { y.2 with fenced := true } else y.2) }) ∧
    StateBecomes (.fencex g q r) s (fun _ => q = r ∨ (r ≠ .core ∧ r ≠ .matrix)) (fun _ => s)

/-- R101, R102, R121, R155, R252, R253, R270, R271, R401, R432: the lanes whose value differs from the word go on with the word,
the others wait on it, after the word; a word of another die is first asked for at its owner, and its answer starts the
wait. A wake ends the waits that it names, with the word as it stands; one of a word that cannot be read is the
data-integrity fault of its strand. The .sp form takes the window word as it stands (log 79). Of a word of another die, that
values written between the read and its answer count as seen is the model's reading (log 67), as is that a wake names a
word by its pointer within its context (log 106). -/
def Obligations.WaitAndWake : Prop :=
  ∀ (s : State) (g : Guard) (sc : Scope) (d a b : Nat),
    let waits (act : List Nat) (st : Strand) (p : Pick) (x : Wait) (v : Int) (since : List Int) : Strand :=
      let st1 := st.modThreads (act.filter fun l => !(v == (st.thread l).vget b)) fun _ th => th.vput d v
      leavePick st1 (act.filter fun l => v == (st.thread l).vget b) (p.pos + 1) fun l th =>
        let seen := since.find? fun y => y != (st.thread l).vget b
        { th with status := .waiting { x with val := (st.thread l).vget b, dest := d, header := p.header, before := p.pos,
                                              seen, asks := seen.isSome } }
    let place (sp : Bool) (ptr : Int) (locs : List Nat) : Wait :=
      { sp, locs, ptr, val := 0, dest := 0, header := 0, before := 0 }
    let plain : Instr := .waitw g false d a b
    (∀ st p j, Issues (.waitw g true d a b) s st p → windowIndex (s.weaveOf st) (st.areg a) 1 = .ok j →
      (s.cluster (clusterOf st.core)).lostWord j = false →
      WordRuns (.waitw g true d a b) s (countScratch s (clusterOf st.core) [j])
        (waits (activeOf (.waitw g true d a b) st p) st p (place true (st.areg a) [j])
          ((s.cluster (clusterOf st.core)).scratch.get j) [])) ∧
    (∀ st p ptr ks goal, Issues plain s st p → checkPtr (st.areg a) 0 false 3 = .ok ptr →
      route s (s.weaveOf st).ctx .read ptr 3 (.core st.core) = .ok (ks, goal) → brokenAt s (ks.map Prod.fst) = false →
      tierWaits s (ks.map Prod.fst) = false →
      let filled := fillRun s (.core st.core) (s.weaveOf st).ctx ptr 3
      match goal with
      | .here _ => WordRuns plain s (homeRead filled st.core s.cursor (ks.map Prod.fst)).1
          (waits (activeOf plain st p) st p (place false (st.areg a) (ks.map Prod.fst))
            (ofTrytes (ks.map fun k => s.mem.get k.1)) [])
      | .peer o e f split => exec plain s = .next (beginGroup { filled with nextId := filled.nextId + 1 } s.cursor st.core
          filled.nextId [{ group := filled.nextId, strand := s.cursor, lane := (activeOf plain st p).headD 0, once := true,
                           i := plain, w0 := (p.words[p.pos]?).getD 0, w1 := 0, addr := ptr, kind := .load, size := 3,
                           peer := some (o, e, f), split, keys := ks.map Prod.fst, phase := .ready }])) ∧
    (∀ grp st p y v since, groupOf s grp = [y] → y.i = plain → y.phase = .done → y.result = v :: since →
      s.strands.get? y.strand = some st → st.pick = some p → p.busy = some grp →
      ∃ st', landWait s grp = { s with accs := s.accs.filter fun c => c.group != grp }.setStrand y.strand st' ∧
        Finished plain (waits (p.lanes.filter fun l => passes g (st.thread l)) st p
          { place false y.addr y.keys with places := y.places, word := y.w0 } v since) st') ∧
    (∀ sp,
      let named (w : Word_) (k : Nat) (st : Strand) (x : Wait) : Bool :=
        x.sp == sp && x.ptr == w.st.areg a && (s.weaveOf st).ctx == (s.weaveOf w.st).ctx &&
          covers s sc w.k w.st k st && (!sp || st.weave == w.st.weave)
      let lost (w : Word_) (q : Nat × Strand) (th : Thread) : Prop := ∃ x, th.status = .waiting x ∧
        named w q.1 q.2 x = true ∧ waitLost s (clusterOf q.2.core) x = true
      (∀ st p q l, Issues (.wake g sc sp a) s st p → q ∈ s.strands → s.strands.get? q.1 = some q.2 → l < 32 →
        lost (wordOf (.wake g sc sp a) s st p) q (q.2.thread l) →
        ∃ t st', exec (.wake g sc sp a) s = .next t ∧ t.strands.get? q.1 = some st' ∧ st'.fault.isSome = true) ∧
      StateBecomes (.wake g sc sp a) s (fun w => ∀ q ∈ s.strands, ∀ th ∈ q.2.threads, ¬ lost w q th) (fun w =>
      { s with strands := s.strands.map fun q => (q.1, { q.2 with threads := q.2.threads.map fun th =>
          match th.status with
          | .waiting x => if named w q.1 q.2 x then
              { th with status := .waiting { x with seen := some (waitValue s q.2 x) } } else th
          | _ => th }) }))

/-- R37, R38, R41, R47, R168, R259, R260, R273: an emit to no successor writes -1; to one with room it queues a record of
each active lane and forms the groups that are full. A range past v242 is the illegal-instruction fault, before the
allocation's. spz removes a slot, or configures one whose table can be read and that passes its checks. Which registers
an emit to no successor checks is the model's choice (log 95), as is that a region's data span follows its table (log 112). -/
def Obligations.EmitAndRegions : Prop :=
  ∀ (s : State) (g : Guard) (c a q slot : Nat),
    StateBecomes (.emit g c a q) s (fun w => successor s (s.weaveOf w.st) q = none ∧ a < 9 * w.st.granules)
      (fun w => s.setStrand w.k (w.st.modThreads w.act fun _ th => th.setCond c { sign := -1 })) ∧
    (∀ st p gr node nd, Issues (.emit g c a q) s st p → successor s (s.weaveOf st) q = some (gr, node, nd) →
      let w := wordOf (.emit g c a q) s st p
      let z := recSize nd.record
      let free := recCapacity nd.record - nd.queue.length
      a + z ≤ 243 → a + z ≤ 9 * st.granules → badRead st w.act [rdV a z] = none →
      let recs := (w.act.take free).map fun l => (s.cycle, (List.range z).map fun j => (st.thread l).vget (a + j))
      let st1 := (st.modThreads (w.act.drop free) fun _ th => th.setCond c { sign := 0 }).modThreads (w.act.take free)
        fun _ th => th.setCond c { sign := 1 }
      let s1 := { s with graphs := s.graphs.upd gr fun x =>
        { x with nodes := x.nodes.set node { nd with queue := nd.queue ++ recs } } }.setStrand s.cursor st1
      let s2 := formFull s1 gr node (nd.queue ++ recs).length
      ∃ st₁, s2.strands.get? s.cursor = some st₁ ∧ WordRuns (.emit g c a q) s s2 st₁) ∧
    WordFaults (.emit g c a q) s (fun w f => ∃ gr node nd, successor s (s.weaveOf w.st) q = some (gr, node, nd) ∧
      ((243 < a + recSize nd.record ∧ f = { code := 3, lane := w.act.headD 0 }) ∨
        (a + recSize nd.record ≤ 243 ∧ 9 * w.st.granules < a + recSize nd.record ∧
          f = { code := 10, lane := w.act.headD 0 }))) ∧
    StateBecomes (.spz g slot .remove) s (fun _ => True) (fun w => s.modWeave w.st.weave fun y =>
      { y with slots := y.slots.set slot none, exts := y.exts.set slot ((encode (.spz g slot .remove)).getD 1 0) }) ∧
    (∀ ra rb base tiles st p view table, Issues (.spz g slot (.configure ra rb base tiles)) s st p →
      windowIndex (s.weaveOf st) (st.areg ra) 1 = .ok view → windowIndex (s.weaveOf st) (st.areg rb) 1 = .ok table →
      let ext := (encode (.spz g slot (.configure ra rb base tiles))).getD 1 0
      let x : Slot := { ext, view, table, base, tiles }
      let entries := (List.range tiles).map fun t => table + t
      (∀ j ∈ entries, (s.cluster (clusterOf st.core)).lostWord j = false) →
      slotOk (s.weaveOf st) (s.cluster (clusterOf st.core)).scratch slot x = true →
      WordRuns (.spz g slot (.configure ra rb base tiles)) s
        ((countScratch s (clusterOf st.core) entries).modWeave st.weave fun y =>
          { y with slots := y.slots.set slot (some x), exts := y.exts.set slot ext }) st)

/-! ### Words that engines carry out, and tiles (R276 to R310) -/

/-- R55, R154, R277, R281 to R310: a long-latency word sets its flag and enters its unit's queue with what its
operands held when it issued. -/
def Obligations.EngineWordsQueue : Prop :=
  ∀ (s : State) (g : Guard) (t : EType) (ft : FType) (sat add sp : Bool) (d a b n : Nat) (disp : Int) (sc : Scope)
    (f : MmaForm) (sa sb : MatSrc) (x : CopyCtl) (y : GridCtl) (z : XfCtl) (m : MmcCtl) (v : MoveCtl),
    let enters (i : Instr) (u : Unit_) (fill : Word_ → EngOp → EngOp) : Prop :=
      StateBecomes i s (fun _ => True) fun w => queued i w (fill w (newOp i u w))
    let block (w : Word_) (first n : Nat) : List Int := (List.range n).map fun j => w.st.sget (first + j)
    let mapPair (w : Word_) : List Int := match x.map with | some r => block w r 2 | none => []
    let ends_ (w : Word_) (c : Option SigCtl) (o : EngOp) : EngOp :=
      { o with vsig := ((c.map fun r => w.st.areg r.areg).getD 0), sval := ((c.map fun r => w.st.sget r.sreg).getD 0) }
    let rows (w : Word_) (n : Nat) : List (List Int) := (List.range 32).map fun l =>
      if w.act.contains l then (List.range n).map fun j => (w.st.thread l).vget (a + j) else List.replicate n 0
    let pairs (w : Word_) (src : MatSrc) : List Int := (if src = .regs then [0, 0] else block w a 2) ++ block w b 2
    enters (.cpt g t sat d a b x) .copy (fun w o => ends_ w x.sig
      { o with vd := w.st.areg d, va := w.st.areg a, block := block w b (3 * x.dims) ++ mapPair w,
               trapOk := !sat && w.st.mask.range && !w.st.mask.global }) ∧
    enters (.cpm g t d a b x) .copy (fun w o => ends_ w x.sig
      { o with vd := w.st.areg d, va := w.st.areg a, block := block w b (3 * x.dims + 4) }) ∧
    enters (.cpf g t d a b x) .copy (fun w o => ends_ w x.sig
      { o with vd := w.st.areg d, va := w.st.su (isPair t) a, block := block w b (3 * x.dims) ++ mapPair w }) ∧
    enters (.cpg g t sat d a b y) .copy (fun w o => ends_ w y.sig
      { o with vd := w.st.areg d, va := w.st.areg a, block := block w b (4 * y.dims + 1) }) ∧
    enters (.cpw g sc add d a sp) .copy (fun w o =>
      { o with vd := w.st.areg d, sval := w.st.sget a,
               waits := (s.ops.filter fun q => q.2.unit == .copy && q.2.strand == some w.k && !isCpw q.2.i).map Prod.fst }) ∧
    enters (.mld g d a sp) .copy (fun w o => { o with va := w.st.areg a }) ∧
    enters (.mst g t sat d a v) .copy (fun w o => ends_ w v.sig { o with va := w.st.areg a }) ∧
    enters (.thnd g d a disp) .copy (fun w o => { o with va := w.st.areg a }) ∧
    enters (.xff g ft sat d a z) .transform (fun w o => ends_ w z.sig { o with vd := w.st.areg d, va := w.st.areg a }) ∧
    enters (.xfi g ft sat d a z) .transform (fun w o => ends_ w z.sig { o with vd := w.st.areg d, va := w.st.areg a }) ∧
    enters (.mma g f d a b sa sb) .matrix (fun w o =>
      { o with block := pairs w sa, regs := if sa = .regs then rows w (WF.aWords f) else [] }) ∧
    enters (.mmc g ft d a b m) .matrix (fun w o =>
      { o with block := pairs w m.wsrc, regs := if m.wsrc = .regs then rows w (WF.wRegs ft m.blocks) else [] }) ∧
    enters (.msg g a b sc n) .message (fun w o => { o with block := block w a n, sval := w.st.sget b })

/-- R54, R303: mzr clears the whole tile, whatever its active lanes, in the step in which it issues; while an operation
in flight names the tile it waits. -/
def Obligations.ClearTile : Prop :=
  ∀ (s : State) (g : Guard) (d : Nat),
    (StrandBecomes (.mzr g d) s fun st _ => { st with tiles := st.tiles.put d { attr := attrClean, w := [] } }) ∧
    (∀ st p, AtWord s st p → badGuard st p.lanes g = none → activeOf (.mzr g d) st p ≠ [] → tilesOk st (uses (.mzr g d)) = true →
      allocOk st (uses (.mzr g d)) = true → (∃ o, o ∈ s.ops ∧ opBlocks s.cursor (uses (.mzr g d)) o.2 = true) →
      exec (.mzr g d) s = .next s)

/-- R53, R307, R308: a tile's row or column is read into registers and written from them; mtag sets the attribute
fields and the written trit, or is the engine-error fault. -/
def Obligations.TileMoves : Prop :=
  ∀ (s : State) (g : Guard) (d m a c : Nat),
    StrandBecomes (.mrd g d m (some c)) s (fun st act =>
      st.modThreads act fun l th => th.vput d (((st.tiles.get? m).getD {}).w.get (27 * l + c))) ∧
    StrandBecomes (.mrd g d m none) s (fun st act =>
      st.modThreads act fun l th => { th with v := th.v.putRun d (((st.tiles.get? m).getD {}).w.getRun (27 * l) 27) }) ∧
    (∀ st p t, Issues (.mwr g m a (some c)) s st p → st.tiles.get? m = some t →
      let x : Tile := ⟨setField 27 t.attr 3 1 1,
        (activeOf (.mwr g m a (some c)) st p).foldl (fun x l => x.put (27 * l + c) ((st.thread l).vget a)) t.w⟩
      WordRuns (.mwr g m a (some c)) s s { st with tiles := st.tiles.put m x }) ∧
    (∀ st p t, Issues (.mwr g m a none) s st p → st.tiles.get? m = some t →
      let x : Tile := ⟨setField 27 t.attr 3 1 1,
        (activeOf (.mwr g m a none) st p).foldl (fun x l => x.putRun (27 * l) ((st.thread l).v.getRun a 27)) t.w⟩
      WordRuns (.mwr g m a none) s s { st with tiles := st.tiles.put m x }) ∧
    (let wrong (x : Int) : Prop := 3 < idx x 24 3 ∨ 1 < idx x 22 2 ∨ 4 < idx x 20 2 ∨ (2 ≤ idx x 24 3 ∧ d % 2 ≠ idx x 24 3 - 2)
     (∀ st p t, Issues (.mtag g d a) s st p → st.tiles.get? d = some t → ¬ wrong (st.sget a) →
      let attr := setField 27 (setField 27 (setField 27 t.attr 15 12 (sgd (st.sget a) 15 12)) 2 1 0) 3 1 1
      WordRuns (.mtag g d a) s s { st with tiles := st.tiles.put d { t with attr } }) ∧
     WordFaults (.mtag g d a) s (fun w f =>
      (w.st.tiles.get? d).isSome ∧ wrong (w.st.sget a) ∧ f = { code := 12, lane := w.act.headD 0 }))

/-! ### Events of strands and of the scheduler (R23 to R29, R38, R57, R234, R270, R316, R346 to R354) -/

/-- R23 to R25, R28, R29, R169, R354, R392, R431: ISSUE_PICK opens the pick of the first ready strand and sets its threads'
ages; a structural fault is raised instead, at the first word, and while a link retrains that the clause's words
come over nothing is issued. A starvation count of 1,536 forces a strand; a core enters its next budget window, with the
smallest of the driver's budget, the thermal cap and the power cap, which is a free value (log 40). That an
assigned flag makes a thread ineligible (log 16), when a yield hint is spent (log 17) and that a pick's matrix words
are the window's in which it opens (log 75) are the model's reading. -/
def Obligations.PicksOpen : Prop :=
  ∀ (s : State) (core k : Nat) (st : Strand),
    let cap (temp : Nat) : Nat := if temp < 100 then 81 else if temp < 108 then 9 else 1
    (∀ c cl, leastBy (issuesBefore (rollWindow s core)) (readyStrands (rollWindow s core) core) = some (k, st) →
      ((rollWindow s core).core core).issued.length < 2 → standing (rollWindow s core) st = .ready c → c.clause = .ok cl →
      ∃ t st', exec (.issuePick core) s = .next t ∧
        t = { s with strands := t.strands, cores := t.cores, contexts := t.contexts, dies := t.dies,
                     clusters := t.clusters } ∧
        t.strands.get? k = some st' ∧
        st'.pick = some { header := c.pc, pos := c.pos, lanes := c.lanes, words := cl.words,
                          longs := longsBefore c.pos cl.words, flagA := cl.header.flagA, flagB := cl.header.flagB,
                          yield := cl.header.yield, window := windowOf s st.core } ∧
        st'.starve = 0 ∧ st'.forced = false ∧ st'.yielded = false ∧ k ∈ (t.core st.core).issued ∧
        ∀ l, l < st.threads.length → st'.thread l =
          if l ∈ c.elig then { st.thread l with age := if l ∈ c.lanes then 0 else (st.thread l).age + 1 } else st.thread l) ∧
    (∀ c f, leastBy (issuesBefore (rollWindow s core)) (readyStrands (rollWindow s core) core) = some (k, st) →
      ((rollWindow s core).core core).issued.length < 2 → standing (rollWindow s core) st = .ready c → c.clause = .error f →
      ∃ t st', exec (.issuePick core) s = .next t ∧ t.mem = s.mem ∧ t.host = s.host ∧
        t.strands.get? k = some st' ∧ st'.fault = some (st.fault.getD f) ∧ st'.pick = st.pick) ∧
    (∀ c f, nextChoice s (s.weaveOf st) st = some c → c.clause = .error f → f.code = 0 → standing s st = .idle) ∧
    (s.strands.get? k = some st → 1536 ≤ st.starve →
      exec (.strandForced k) s = .next (s.setStrand k { st with forced := true })) ∧
    ((s.core core).window ≠ windowOf s core →
      exec (.budgetWindow core) s = .next (s.setCore core { s.core core with
        window := windowOf s core, used := 0,
        budget := max 1 (min (s.die (dieOf core)).budget (min (cap (s.die (dieOf core)).temp)
          (Config.powerCap s.mgmt.powerLimit (dieOf core)))) }))

/-- R56, R57, R102, R234, R238, R245, R270, R285, R316, R366, R432: sleeps and waits end; a wait on a word of another die
first reads it again. A register that a wait writes is valid again (R47). A trap is taken in one step by every thread that is
neither ended nor in exit, unless a word that a thread waits on cannot be read; once no other thread of the handler runs, the
threads in tret return, those to a barrier whose round is still open. That no older copy of a word waited for serves the
strand's loads after its wait is the model's reading of R102 and R360 (log 31), as are the barrier of a thread that enters a
handler from within one (log 94), that a trap pending as the last tret completes is discarded (log 105), and the order of a
clause's trap and a held one (log 113). -/
def Obligations.WaitsEndAndTrapsAreTaken : Prop :=
  ∀ (s : State) (k lane : Nat) (st : Strand), s.strands.get? k = some st →
    let served : List RegName := st.bad.filter fun b => !(b.cls == 1 && match (st.thread b.lane).status with
      | .waiting w => w.dest == b.idx
      | _ => false)
    let entry (cause : Int) (lanes : List Nat) : Strand :=
      { st with
        bad := served
        threads := st.threads.map fun th => if th.active then
            { th with status := .ready, savedPc := th.pc, savedPos := th.pos, pc := st.handlerPc, pos := 0, age := 0,
                      inHandler := true, awaits := false,
                      ret := match th.status with | .bar n => some (n, false) | .barw n => some (n, true) | _ => th.ret,
                      v := match th.status with | .waiting w => th.v.put w.dest (waitValue s st w) | _ => th.v }
          else th
        cause, trapLanes := lanes, pending := false, mask := { st.mask with global := true } }
    let joined (a b : List Nat) : List Nat := a ++ b.filter fun l => !a.contains l
    (∀ t : Nat, (st.thread lane).status = .asleep t → (t : Int) ≤ counter s st.core →
      exec (.sleepExpiry k lane) s = .next (s.setStrand k (st.setThread lane { st.thread lane with status := .ready }))) ∧
    (∀ w, (st.thread lane).status = .waiting w → w.asks = false →
      (w.seen.isSome = true ∨ (w.places = [] ∧ waitLost s (clusterOf st.core) w = false ∧ waitValue s st w ≠ w.val)) →
      let ended := st.setThread lane { (st.thread lane).vput w.dest (waitValue s st w) with status := .ready }
      exec (.waitwEnd k lane) s = .next ((endWait s k st w).setStrand k { ended with
        bad := st.bad.filter fun b => !(b.cls == 1 && b.idx == w.dest && b.lane == lane) })) ∧
    (∀ w i, (st.thread lane).status = .waiting w → w.asks = true → decode w.word 0 = some i →
      exec (.waitwEnd k lane) s = .next (rereadWait s k lane st w i)) ∧
    (lostWait s st = none → strandLive s st = true → atBoundary st = true → st.mask.global = false →
      (∃ th ∈ st.threads, th.active = true) →
      (st.pending = true → st.heldTrap = none →
        exec (.trapDelivery k) s = .next ((endWaits s k st).setStrand k (entry st.cause st.trapLanes))) ∧
      (∀ c ls, st.pending = true → st.heldTrap = some (c, ls) →
        exec (.trapDelivery k) s = .next ((endWaits s k st).setStrand k
          { entry st.cause (joined st.trapLanes ls) with heldTrap := none })) ∧
      (∀ c ls, st.pending = false → st.heldTrap = some (c, ls) →
        exec (.trapDelivery k) s = .next ((endWaits s k st).setStrand k { entry c ls with heldTrap := none })) ∧
      (st.pending = false → st.heldTrap = none → st.mask.timer = true → st.comparator ≤ counter s st.core →
        exec (.timerTrap k) s = .next ((endWaits s k st).setStrand k
          (entry (causeWord 1 0) (st.lanes Thread.active))))) ∧
    (∀ w, (endWait s k st w).mem = s.mem ∧ (endWait s k st w).strands = s.strands ∧
      (w.sp = false → ∀ hint ls, residentFor (endWait s k st w) st.core k hint w.locs = some ls →
        ∀ x ∈ w.locs.zip (toTrytes 3 (waitValue s st w)), ∀ l ∈ ls, l.line = lineOf x.1 →
          l.trytes.getD (x.1 % 3 ^ 27 % 81) 0 = x.2)) ∧
    ((∃ th ∈ st.threads, th.status = .inTret) →
      (∀ th ∈ st.threads, th.inHandler = true → th.live = true → th.status = .inTret) →
      leaveHandler st = { st with
        threads := st.threads.map fun th => if th.status = .inTret then
            { th with pc := th.savedPc, pos := th.savedPos, inHandler := false, ret := none,
                      status := match th.ret with
                        | some (n, true) => .barw n
                        | some (n, false) => .bar n
                        | none => .ready }
          else th,
        cause := causeNone, trapLanes := [], pending := false, mask := { st.mask with global := false } }) ∧
    (∀ n th, (releaseFrom n th).ret = th.ret.filter fun r => r.1 != n)

/-- R38, R39, R127, R313, R346 to R352: a free partition goes to a context, a quantum begins a pre-emption, a group forms by
its timeout, a weave starts on the cluster chosen for it, and its prologue goes on, entry by entry, until its strands are
ready; an entry that is refused is a faulted operation of the prologue. That new weaves wait while images of the context stand
is the model's reading (log 33), as are the place of the map pair and of a window index of a binding (logs 13 and 110) and
which partitions count as running where one that is freed at once lets the triggers be tested again (log 96). R33, R39, R48,
R49, R56, R342, R345: what a weave starts with, its coordinates, window and strands, their threads, arguments, pointers and
trap state, and a node's records in the window. A grid coordinate beyond the node's grid, and the PC of an absent lane, are
the model's (log 80). -/
def Obligations.WeavesStart : Prop :=
  (∀ (s : State) (die part ctx n w node graph : Nat) (c : Context) (l : Launch) (wv : Weave) (g : Graph) (nd : Node),
    (partFree s die part = true → nextContext s die part = some ctx →
      exec (.partitionAssign die part) s = .next (triggers
        ((s.modPart die part fun x => { x with ctx, phase := .run, since := s.cycle, forCtx := none }).modCtx ctx
          fun x => { x with waitSince := s.cycle }) die)) ∧
    ((s.part die part).phase = .run → (s.part die part).since + us (s.die die).quantumUs ≤ s.cycle →
      (∃ y, y ∈ s.contexts.keys ∧ y / 256 = die ∧ y ≠ (s.part die part).ctx ∧ isReady s y = true ∧
        levelOf s y part = levelOf s (s.part die part).ctx part) →
      exec (.quantumExpiry die part) s = .next (preempt s die part)) ∧
    (s.graphs.get? graph = some g → g.nodes[node]? = some nd →
      (∃ t r q, nd.queue = (t, r) :: q ∧ t + 2 * (recWord nd.record 22).toNat ≤ s.cycle) →
      exec (.groupFormTimeout graph node) s = .next (formGroup s graph node nd.queue.length)) ∧
    (headLaunch s ctx = some (n, l) → s.contexts.get? ctx = some c → c.status = .alive → c.images = [] → c.stored = [] →
      (∃ p ∈ partsOf s ctx, (s.part (ctx / 256) p).phase = .run) → staggerOver s l = true →
      ∀ p cl cores base, chooseCluster s ctx (List.replicate (recStrands l.record) (recGranules l.record))
          (recTiles l.record).length (recWindow l.record) = some (p, cl, cores, base) →
        (l.next = 0 → reservedClear l.record = false →
          exec (.weaveDispatch ctx) s = .next (raiseFault s ctx none none { code := 12 })) ∧
        ((l.next = 0 → reservedClear l.record = true) →
          exec (.weaveDispatch ctx) s = .next (leaveChecks (startWeave s n l p cl cores base) ctx))) ∧
    (s.weaves.get? w = some wv → prologueRuns s wv = true → prologueOp s w = none →
      (∀ p rest ws, wv.bindings = p :: rest → ctxWords (touchRun s wv.ctx p 81) wv.ctx p 27 = .ok ws →
        let t := touchRun s wv.ctx p 81
        let o := (bindingOp t w wv ws).1
        let entered : State := { t with ops := s.ops.put s.nextId o, nextId := s.nextId + 1 }
        ((bindingOp t w wv ws).2 = none →
          exec (.prologueBinding w) s = .next (entered.setWeave w { wv with bindings := rest })) ∧
        (∀ code, (bindingOp t w wv ws).2 = some code →
          exec (.prologueBinding w) s = .next (opFault entered s.nextId o code))) ∧
      (∀ p rest code, wv.bindings = p :: rest → ctxWords (touchRun s wv.ctx p 81) wv.ctx p 27 = .error code →
        exec (.prologueBinding w) s =
          .next (raiseFault (touchRun s wv.ctx p 81) wv.ctx none none { code, addr := some p })) ∧
      (wv.bindings = [] →
        exec (.prologueComplete w) s = .next
          ((((s.setWeave w { wv with ready := true }).strandsOf w).map (·.2.core)).foldl dropAll
            (s.setWeave w { wv with ready := true }))))) ∧
  (∀ (s : State) (n part cluster base : Nat) (cores : List Nat) (l : Launch),
    let t := startWeave s n l part cluster cores base
    let r := l.record
    let id := s.nextId
    let recs := l.batches.getD l.next []
    let extent (i : Nat) : Nat := (recWord r (7 + i)).toNat
    let side (i : Nat) : Nat := (recWord r (10 + i)).toNat
    let scratch := (t.cluster (16 * l.die + cluster)).scratch
    t.mem = s.mem ∧ t.host = s.host ∧ t.cycle = s.cycle ∧
    t.launches.get? n = some { l with next := l.next + 1, lastStart := some s.cycle } ∧
    (∃ x y z succ, x + extent 0 * (y + extent 1 * z) = l.next ∧ (0 < extent 0 → x < extent 0) ∧ (0 < extent 1 → y < extent 1) ∧
      t.weaves.get? id = some
        { die := l.die, ctx := l.ctx, launch := n, num := l.next, wx := x, wy := y, wz := z, shape := [side 0, side 1, side 2]
          nstrands := (side 0 * side 1 * side 2 + 31) / 32, pass := idx (recWord r 13) 12 3, part, cluster, base
          len := (recWord r 14).toNat, age := id, codeBase := pairOf (recWord r 1) (recWord r 2)
          codeSize := (recWord r 3).toNat, recPtr := l.recPtr, succ, ready := false
          bindings := (List.range (idx (recWord r 0) 11 3)).map fun (i : Nat) =>
            pairOf (recWord r 17) (recWord r 18) + 81 * (i : Int) }) ∧
    (∀ j core, cores[j]? = some core → ∃ st, t.strands.get? (id + 1 + j) = some st ∧
      st = { weave := id, number := j, core, granules := idx (recWord r 13) 24 3 + 1
             tiles := ((List.range 9).filter fun i => trit 27 (recWord r 13) (15 + i) == 1).map fun i => (i, {})
             threads := (List.range 32).map fun q =>
               { status := if 32 * j + q < side 0 * side 1 * side 2 then .ready else .absent, pc := recWord r 4 }
             s := st.s, a := st.a, mask := { maskOf (recWord r 6) with global := false }, handlerPc := recWord r 5 } ∧
      (∀ k, l.graph = none ∨ k ≠ 53 → st.sget k = if k < idx (recWord r 0) 17 4 then recWord r (27 + k) else 0) ∧
      (l.graph ≠ none → st.sget 53 = recs.length) ∧
      (∀ k, st.areg k = if k = 0 then l.recPtr + 81 else if k = 1 then base else 0)) ∧
    ((s.cluster (16 * l.die + cluster)).scratch.wf = true → ∀ q, scratch.get q =
      if base ≤ q ∧ q < base + recs.flatten.length then recs.flatten.getD (q - base) 0
      else (s.cluster (16 * l.die + cluster)).scratch.get q))

/-! ### Events of the engines (R137, R283 to R294, R297 to R299, R305 to R312, R337, R376 to R386) -/

/-- R55, R122, R277, R278, R283, R285, R288, R305, R309, R318, R377 to R379, R392: a copy-engine operation whose turn it
is moves one line, or one tile row; once its last writes are done it writes its signal, clears its flag and is gone. A
cpw waits for the operations it covers. What lies on another die is asked for first, or awaited (log 83). With the I/O
link down a host element is the data-integrity fault: that R392 holds for host traffic is the model's reading (log 68). R55,
R277, R320: what the end of an operation comes to: it is
gone, its flag is clear, its context has made progress, and where no thread of its strand is in exit nothing else of
the strand changes but that the flag is valid. R145, R148, R279, R282 to R287, R290 to R292, R305, R306: where each element of
a copy, a fill, a multicast, a grid transfer and a tile store lies, what it becomes, the rows of a tile load, and that
elements follow one another, each read after the one before it is written, up to one that faults, are the statements of
Safety that stand at the end. That a map's pair follows the shape block (log 13), that the taps' table is read afresh
for every element (log 103), and the faults of an undeclared partner tile (log 77) are the model's. -/
def Obligations.CopiesProceed : Prop :=
  (∀ (s : State) (n : Nat) (o : EngOp), s.ops.get? n = some o → o.unit = .copy →
      (hasLine s n o = true → copyTurn s n o = true →
        ((∀ g d a sp, o.i ≠ .mld g d a sp) → (∀ g d a x, o.i ≠ .thnd g d a x) →
          (usesHost o = true → ioWaits s o.die = false ∧ ioDown s o.die = false) →
          exec (.copyLine n) s = .next (tookTurn (lineStep s n o) n o)) ∧
        (usesHost o = true → ioWaits s o.die = false → ioDown s o.die = true →
          exec (.copyLine n) s = .next (opFault s n o 7 (hostAddr s o))) ∧
        (∀ g d a sp s', o.i = .mld g d a sp → mldRow s n o d sp = .ok s' →
          exec (.copyLine n) s = .next (tookTurn (noteMove s' n o) n o))) ∧
      (opRuns s n o = true →
        ((∀ g d a x, o.i ≠ .thnd g d a x) → (∀ g sc add d a sp, o.i ≠ .cpw g sc add d a sp) → o.phase = .written →
          ∀ r, signalStep s n o = .ok r → exec (.copyComplete n) s = .next (afterSignal n o r)) ∧
        (∀ g sc add d a sp r, o.i = .cpw g sc add d a sp → o.phase ≠ .signalling → (∀ m ∈ o.waits, s.ops.get? m = none) →
          writeSignal s n o add sp o.vd o.sval = .ok r → exec (.copyComplete n) s = .next (afterSignal n o r)) ∧
        (∀ g d a disp p ks ps ds k, o.i = .thnd g d a disp → o.phase ≠ .signalling → copyTurn s n o = true →
          o.strand = some k → opDevice s o .read o.va (3 * disp) 3 = .ok (.dev p ks ps) →
          (∀ q ∈ ps, isPeer q = false) → lostReads s n = [] → o.got = [] →
          checkDesc (ofTrytes (readKeys s (ks.map Prod.fst))) = .ok ds →
          exec (.copyComplete n) s = .next (opEnd ((fillPages (noteReads s o [.dev p ks ps]) o 3 [o.va + 3 * disp]).modStrand k fun st =>
            (st.sputPair d (makeHandle (ofTrytes (readKeys s (ks.map Prod.fst))) (o.va + 3 * disp))).validPair d) n o)))) ∧
  (∀ (n : Nat) (o : EngOp) (r : State × Bool),
      (r.2 = true → afterSignal n o r = opDone (cptTrap r.1 o) n o) ∧ (r.2 = false → afterSignal n o r = r.1)) ∧
  (∀ (s : State) (n k : Nat) (o : EngOp) (st : Strand), o.strand = some k → s.strands.get? k = some st →
      (∀ th ∈ st.threads, th.status ≠ .exiting) →
      (opDone s n o).strands.get? k = some { st with
        flags := st.flags.set o.flag false, bad := st.bad.filter fun b => b.cls != clsF || b.idx != o.flag } ∧
      (opDone s n o).ops = s.ops.del n ∧
      (opDone s n o).contexts = (s.modCtx o.ctx fun c => { c with progress := s.cycle }).contexts ∧
      (opDone s n o).mem = s.mem ∧ (opDone s n o).host = s.host ∧ (opDone s n o).clusters = s.clusters) ∧
  SidesLie ∧ CopiesPlace ∧ HostCopies ∧ GridsForm ∧ TilesStore ∧ TilesLoad ∧ LinesMove

/-- R135 to R137, R293, R294, R380: a transform loads its blocks in digit-reversed order, takes one stage at a time,
its last with the output format and scale, and ends with its output tile and signal. What lies on another die is asked
for before the load, and awaited before the signal (log 83). Output words before one that faults are written (R314), and
a region's tile that cannot take its words is that fault (R142). -/
def Obligations.TransformsProceed : Prop :=
  ∀ (s : State) (n : Nat) (o : EngOp) (dir : Int) (t : FType) (sat : Bool) (x : XfCtl) (ds od : Desc),
    s.ops.get? n = some o → transformOf o.i = some (dir, t, sat, x) → opRuns s n o = true → o.phase ≠ .signalling →
    transformTurn s o.cluster n = true → transformDesc (LineOut.of s n o) o = .ok (ds, od) →
    (∀ s', o.prog = 0 → transformLoad s n o dir x = .ok s' →
      exec (.transformStage n) s = .next (noteMove s' n o)) ∧
    (∀ l ls z, o.prog = 0 → sideLoc s o .read x.srcSp o.va 0 = .ok l → wantsPull s n o [l] = none →
      ((List.range ds.words).mapM fun e => sideLoc s o .read x.srcSp o.va e) = .ok ls → wantsPull s n o ls = none →
      loadStore (LineOut.of s n o) o dir x.srcSp ds = .ok z →
      transformLoad s n o dir x = .ok ((clearGot (fillPages (noteReads s o ls) o 3 (ls.filterMap Loc.ptr?)) n).modOp n fun y =>
        { y with z, common := [descWord ds], prog := 1, phase := .active })) ∧
    (0 < o.prog → o.prog < ds.block →
      exec (.transformStage n) s = .next (noteMove (s.modOp n fun y =>
        { y with z := stageStore ds.block (blocksOf dir ds) ds.cols o.prog dir none o.z, prog := y.prog + 1 }) n o)) ∧
    (0 < o.prog → o.prog = ds.block →
      let h : Int := (ds.block / 2 : Nat)
      exec (.transformStage n) s = .next (noteMove (s.modOp n fun y =>
        { y with z := stageStore ds.block (blocksOf dir ds) ds.cols o.prog dir
                        (some (fmtOf t, sat, if dir = 1 then h else ds.block - h)) o.z,
                 prog := y.prog + 1 }) n o)) ∧
    (∀ r s1 bad, ds.block < o.prog → o.phase ≠ .written →
      writeWords o x.dstSp o.vd o.upTo (((List.range od.words).map (outWord dir ds od o.z)).drop o.upTo) { s } = (r, bad) →
      r.flush o = (s1, none) → r.stores n o = [] → ∀ e code at_, bad = some (e, code, at_) → code ≠ 0 →
      exec (.transformComplete n) s = .next (opFault (faultWalk ((fillPages s1 o 3 r.ptrs.eraseDups).modOp n fun y =>
        { y with upTo := e }) o code at_) n o code at_)) ∧
    (∀ r s1 f, ds.block < o.prog → o.phase ≠ .written →
      writeWords o x.dstSp o.vd o.upTo (((List.range od.words).map (outWord dir ds od o.z)).drop o.upTo) { s } = (r, none) →
      r.flush o = (s1, some f) → f.1 ≠ 0 →
      exec (.transformComplete n) s = .next (opFault (faultWalk s1 o f.1 f.2) n o f.1 f.2)) ∧
    (∀ r s1, ds.block < o.prog → o.phase ≠ .written →
      writeWords o x.dstSp o.vd o.upTo (((List.range od.words).map (outWord dir ds od o.z)).drop o.upTo) { s } = (r, none) →
      r.flush o = (s1, none) →
      let s2 := (fillPages s1 o 3 r.ptrs.eraseDups).modOp n fun y => { y with upTo := 0 }
      (∀ q, r.stores n o = [] → signalStep s2 n o = .ok q →
        exec (.transformComplete n) s = .next (afterSignal n o q)) ∧
      (∀ a as, r.stores n o = a :: as → exec (.transformComplete n) s =
        .next (request (s2.modOp n fun y => { y with phase := .writing y.prog }) n o (a :: as)))) ∧
    (∀ q, ds.block < o.prog → o.phase = .written → signalStep s n o = .ok q →
      exec (.transformComplete n) s = .next (afterSignal n o q))

/-- R296 to R299, R302, R312, R329, R337, R382, R383, R385: the array takes the next operation of its core's queue with its
operands: one whose A comes from registers and whose B the latch holds starts at once with them, any other with what
its fetch gives. When it is over the rows that it computes stand in its tile, or its two tiles, its flag is clear and
it is gone; one residue mismatch reruns it, counted and noted in the tile; two are the array data-error fault, with
the rerun noted, and active rows that hold free values (log 20). The errors are an input of the event, and what the check
does not see of them is taken as it is (log 87). When an array has held an operation for 59,049 cycles of its
core its tiles are lost, keeping their attributes (log 81), its operations are gone, and every weave with a strand on
the core fails, its context halting with code 15. -/
def Obligations.ArrayProceeds : Prop :=
  (∀ (s : State) (n : Nat) (o : EngOp), s.ops.get? n = some o → matrixRuns s o = true →
    (inFlight s n = false → matrixNext s o.core n = true →
      (∀ g f d a b sb rows t, o.i = .mma g f d a b .regs sb → latchRows s o f sb = some rows → tileOf s o d = some t →
        (mmaAttr t.attr f).isSome = true →
        exec (.matrixStart n) s = .next ((setLatch (clearGot s n) o sb false rows).modOp n fun x =>
          { x with z := o.regs.flatten ++ rows.flatten, phase := .active })) ∧
      (∀ g f d a b sa sb s', o.i = .mma g f d a b sa sb → startMma s n o f d sa sb = .ok s' →
        exec (.matrixStart n) s = .next s') ∧
      (∀ g t d a b x s', o.i = .mmc g t d a b x → startMmc s n o t d x = .ok s' →
        exec (.matrixStart n) s = .next s')) ∧
    (o.unit = .matrix → o.phase = .active → ∀ k, o.strand = some k →
      let rerun : State := s.modCore o.core fun c => { c with reruns := c.reruns + 1 }
      let second (errs : List (List SumError)) : List SumError := (errs.drop 1).headD []
      let once (errs : List (List SumError)) : Prop := runPasses s o (errs.headD []) = true
      let twice (errs : List (List SumError)) : Prop := runPasses s o (errs.headD []) = false ∧ runPasses s o (second errs) = true
      let fails (errs : List (List SumError)) : Prop := runPasses s o (errs.headD []) = false ∧ runPasses s o (second errs) = false
      (∀ g f d a b sa sb t attr, o.i = .mma g f d a b sa sb → tileOf s o d = some t → mmaAttr t.attr f = some attr →
        (∀ errs, once errs → exec (.matrixComplete n errs) s =
          .next (opDone (putTile s k d (mmaTile t attr f o false (errs.headD []))) n o)) ∧
        (∀ errs, twice errs → exec (.matrixComplete n errs) s =
          .next (opDone (putTile rerun k d (mmaTile t attr f o true (second errs))) n o))) ∧
      (∀ g t d a b x re im attrRe attrIm, o.i = .mmc g t d a b x → tileOf s o d = some re → tileOf s o (d + 1) = some im →
        let m := unflatMmc x.blocks o.z
        mmcAttr re.attr 0 x m.scale = some attrRe → mmcAttr im.attr 1 x m.scale = some attrIm →
        let both (s' : State) (again : Bool) (es : List SumError) : State :=
          putTile (putTile s' k d (mmcTile re attrRe t false m again es)) k (d + 1) (mmcTile im attrIm t true m again es)
        (∀ errs, once errs → exec (.matrixComplete n errs) s = .next (opDone (both s false (errs.headD [])) n o)) ∧
        (∀ errs, twice errs → exec (.matrixComplete n errs) s = .next (opDone (both rerun true (second errs)) n o))) ∧
      (once [] ∧ ∀ es, runPasses s o es = false ↔ (∃ e ∈ es, e.off ≠ 0) ∧
        ∃ q ∈ planesOf s o es, residueCheck q.m q.a q.b q.x ≠ (true, true)) ∧
      (∀ g f d a b sa sb t errs, o.i = .mma g f d a b sa sb → tileOf s o d = some t → fails errs →
        ∃ s' t', exec (.matrixComplete n errs) s = .next (opFault s' n o 9) ∧ tileOf s' o d = some t' ∧
          t'.attr = setField 27 t.attr 0 1 1 ∧
          (∀ l c, l ∉ o.lanes → c < 27 → t'.w.get (27 * l + c) = t.w.get (27 * l + c)) ∧
          (s'.core o.core).reruns = (s.core o.core).reruns + 1 ∧
          s'.ops = s.ops ∧ s'.mem = s.mem ∧ s'.host = s.host) ∧
      (∀ errs, fails errs → exec (.matrixComplete n errs) s = .next (opFault (dirtyRows rerun o) n o 9)))) ∧
  (∀ (s : State) (core q : Nat) (o : EngOp), (q, o) ∈ s.ops → o.unit = .matrix → o.core = core → o.fault = none →
    o.issuedAt + 59049 ≤ (counter s core).toNat →
    ∃ t, exec (.matrixEngineReset core) s = .next t ∧ t.mem = s.mem ∧ (t.core core).latch = none ∧
      (∀ x ∈ t.ops, x ∈ s.ops ∧ ¬ (x.2.unit = .matrix ∧ x.2.core = core ∧ x.2.fault = none)) ∧
      (∀ k st, t.strands.get? k = some st → ∃ old, s.strands.get? k = some old ∧
        st.tiles.map (fun y => (y.1, y.2.attr)) = old.tiles.map fun y => (y.1, y.2.attr)) ∧
      (∀ w wv, s.weaves.get? w = some wv →
        ((∃ x ∈ s.strands, x.2.core = core ∧ x.2.weave = w) → t.weaves.get? w = some { wv with failed := true }) ∧
        ((∀ x ∈ s.strands, x.2.core = core → x.2.weave ≠ w) → t.weaves.get? w = some wv)) ∧
      ∀ x w wv c, x ∈ s.strands → x.2.core = core → x.2.weave = w → s.weaves.get? w = some wv →
        s.contexts.get? wv.ctx = some c → c.status = .alive →
        ∃ d, t.contexts.get? wv.ctx = some d ∧ d.status = .faulted ∧ d.fault = some { code := 15 } ∧
          d.faultStrand = none ∧ d.faultOp = none)

/-- R53, R82, R297, R302: what an mma adds: every column of every active row gets the old word and the exact sum of
products, rounded once or wrapped. What an mmc adds: every column of every row it works on gets, in each plane, the old
word and the exact sum over its blocks of that plane of the complex products, rounded once. Rows of other lanes keep
what they hold. -/
def Obligations.MmaAddsProducts : Prop :=
  (∀ (t : Tile) (attr : Int) (f : MmaForm) (o : EngOp) (rerun : Bool),
    let n := WF.aWords f
    let a (l : Nat) : List Int :=
      (unpackRow (fmtTrits (aFmt f)) ((chunks n 32 (o.z.take (32 * n))).getD l [])).take (formK f)
    let b (c : Nat) : List Int :=
      (chunks (bWords f) (formK f) (o.z.drop (32 * n))).map fun r => (unpackRow (fmtTrits (bFmt f)) r).getD c 0
    o.z.length = 32 * n + formK f * bWords f → t.w.wf = true →
    (∀ l c, l ∈ o.lanes → l < 32 → c < 27 → f ≠ .f9 → f ≠ .f27 → o.lanes.Nodup →
      (mmaTile t attr f o rerun).w.get (27 * l + c) =
        wrapVal (t.w.get (27 * l + c) + ((a l).zipWith (fun x y => x * y) (b c)).sum) 27) ∧
    (∀ l c, l ∈ o.lanes → l < 32 → c < 27 → (f = .f9 ∨ f = .f27) → o.lanes.Nodup →
      let fm := if f = .f9 then fmt9 else fmt27
      (mmaTile t attr f o rerun).w.get (27 * l + c) =
        (fsum fmt27 false ([fdecode fmt27 (t.w.get (27 * l + c))] ::
          (a l).zipWith (fun x y => [fdecode fm x, fdecode fm y]) (b c))).w) ∧
    (∀ l c, l ∉ o.lanes → c < 27 → (mmaTile t attr f o rerun).w.get (27 * l + c) = t.w.get (27 * l + c))) ∧
  (∀ (t : Tile) (attr : Int) (ft : FType) (m : MmcIn) (rerun : Bool),
    t.w.wf = true → m.cols ≤ 27 → (m.lanes.map Prod.fst).Nodup →
    let v (p : List Int) (c : Nat) : FVal := fdecode (fmtOf ft) (p.getD c 0)
    (∀ l bs c, (l, bs) ∈ m.lanes → c < m.cols →
      (mmcTile t attr ft false m rerun).w.get (27 * l + c) =
        (fsum fmt27 false ([fdecode fmt27 (t.w.get (27 * l + c))] :: bs.flatMap fun b =>
          [[v b.1.1 0, v b.2.1 c], [(v b.1.2 0).neg, v b.2.2 c]])).w ∧
      (mmcTile t attr ft true m rerun).w.get (27 * l + c) =
        (fsum fmt27 false ([fdecode fmt27 (t.w.get (27 * l + c))] :: bs.flatMap fun b =>
          [[v b.1.2 0, v b.2.1 c], [v b.1.1 0, v b.2.2 c]])).w) ∧
    (∀ imag l c, (l ∉ m.lanes.map Prod.fst ∨ m.cols ≤ c) → c < 27 →
      (mmcTile t attr ft imag m rerun).w.get (27 * l + c) = t.w.get (27 * l + c)))

/-- R126, R310, R311, R353, R361, R386, R393, R398: a message is checked, goes to its unit or over the rim in its turn, and is
accepted where the unit has a free buffer entry and a free handler slot; over the rim its packet names the sender's core and
the message handle's export, which give the target the sender and the context. It is sent again no sooner than 81 fabric
cycles later where it is refused, and neither it nor those that wait behind it count as stalled. An accepted message ends
the sender's msg, and its handler starts as a one-strand weave of the context: with the payload from s0 on, the sender in
s80, zeros in the others, its threads at the record's entry, and its core's cached lines gone, as an acquire asks. A
record with a nonzero reserved field is the engine-error fault. Which partition a handler takes (log 32), what a reserved
trit of a handle does (log 38) and that a message whose export has gone is refused (log 111) are the model's reading. -/
def Obligations.MessagesProceed : Prop :=
  ∀ (s : State) (n : Nat),
    let open_ (s' : State) (t : Target) : Prop :=
      (s'.cluster (16 * t.die + t.cluster)).inbox.length < 27 ∧
      handlersOn s' (16 * t.die + t.cluster) < (s'.die t.die).handlers
    let alive (s' : State) (ctx : Nat) : Prop := ∃ c, s'.contexts.get? ctx = some c ∧ c.status = .alive
    let taken (s' : State) (t : Target) (x : Letter) : State :=
      let cl := 16 * t.die + t.cluster
      openInbox (s'.setCluster cl { s'.cluster cl with inbox := (s'.cluster cl).inbox ++ [x] }) cl
    let behind (s' : State) (m : Nat) : List Nat := match s'.ops.get? m with
      | some o => (s'.ops.filter fun x => x.2.unit == .message && x.2.cluster == o.cluster && x.2.fault.isNone &&
          sameTarget x.2.sval o.sval).map Prod.fst
      | none => []
    let again (s' : State) (m : Nat) : State := (behind s' m).foldl
      (fun q k => q.modOp k fun x => { x with movedAt := (counter q x.core).toNat })
      (s'.modOp m fun x => { x with phase := .retry (fabricCycle s' + 81) })
    let looked (o : EngOp) : State := ((readTarget o.sval).map (touchTarget s o.ctx)).getD s
    (∀ o g a b sc m, s.ops.get? n = some o → o.i = .msg g a b sc m → opRuns s n o = true → messageTurn s n o = true →
      mayRetry s o = true →
      (∀ t ctx, checkTarget s o sc = some (t, ctx) →
        (t.die = o.die → exec (.messageSend n) s = .next ((looked o).modOp n fun x => { x with phase := .sent 0 })) ∧
        (t.die ≠ o.die → exec (.messageSend n) s = .next ((addPacket (looked o)
          { type := .message, src := o.die, dst := t.die, requester := 128 * (o.core / 64) + o.core % 64,
            export_ := (messageExport s o.ctx t).getD 0, w0 := o.w0, w1 := o.w1, payload := o.block,
            offset := leNat (wordBytes o.sval), serves := n, at_ := o.die,
            beats := beatsFor (6 * o.block.length) }).modOp n fun x => { x with phase := .sent (looked o).nextId }))) ∧
      (checkTarget s o sc = none → exec (.messageSend n) s = .next (opFault (looked o) n o 12))) ∧
    (∀ o sc t ctx, checkTarget s o sc = some (t, ctx) ↔ readTarget o.sval = some t ∧ targetCtx s o.ctx t = some ctx ∧
      (handlerEntry s ctx t.handler).isSome = true ∧ enabledCores s (16 * t.die + t.cluster) ≠ [] ∧
      scopeReaches sc o.die (o.cluster % 16) t = true) ∧
    (∀ ctx t, targetCtx s ctx t = if t.die = ctx / 256 then some ctx
      else (messageExport s ctx t).bind fun e => ((s.die t.die).exports.get? e).map fun x => x.1) ∧
    (∀ ctx t c, s.contexts.get? ctx = some c →
      let e := ctxPair s (ctx / 256) c.root (c.handleTab + 6 * t.handle)
      (∀ x, e = .ok x → field 54 x 51 3 = 2 → field 54 x 48 3 = t.die → sfield 54 x 0 8 = 0 →
        messageExport s ctx t = some (field 54 x 38 8)) ∧
      (∀ x, e = .ok x → (field 54 x 51 3 ≠ 2 ∨ field 54 x 48 3 ≠ t.die ∨ sfield 54 x 0 8 ≠ 0) →
        messageExport s ctx t = none) ∧
      (∀ code, e = .error code → messageExport s ctx t = none)) ∧
    (∀ o t, s.ops.get? n = some o → o.phase = .sent 0 → readTarget o.sval = some t → opRuns s n o = true → t.die = o.die →
      (open_ s t → alive s o.ctx → exec (.messageAccept n) s =
        .next (opDone (taken s t ⟨o.ctx, t.handler, o.block, o.cluster⟩) n o)) ∧
      (¬ (open_ s t ∧ alive s o.ctx) → exec (.messageAccept n) s = .next (again s n))) ∧
    (∀ p t, arrived s n .message = some p → (bytesWord (leBytes 6 p.offset)).bind readTarget = some t →
      let s' := dropPacket s n
      let refused : State := addPacket s' (answer p .messageRefused 0 [] none)
      (((s'.die p.dst).exports.get? p.export_ = none) → exec (.message n) s = .next refused) ∧
      (∀ ctx base pages, (s'.die p.dst).exports.get? p.export_ = some (ctx, base, pages) →
        (open_ s' t → alive s' ctx → exec (.message n) s = .next (addPacket
          (taken s' t ⟨ctx, t.handler, p.payload, 16 * p.src + p.requester % 64 / 4⟩)
          (answer p .messageAccepted 0 [] none))) ∧
        (¬ (open_ s' t ∧ alive s' ctx) → exec (.message n) s = .next refused))) ∧
    (∀ p o, arrived s n .messageAccepted = some p → (dropPacket s n).ops.get? p.serves = some o →
      exec (.messageAccepted n) s = .next (opDone (dropPacket s n) p.serves o)) ∧
    (∀ p, arrived s n .messageRefused = some p →
      exec (.messageRefused n) s = .next (again (dropPacket s n) p.serves)) ∧
    (∀ cl x, (s.cluster cl).inbox = [x] → alive s x.ctx →
      (∀ p core ptr r, handlerPart s (cl / 16) (cl % 16) x.ctx = some p → handlerCore s cl = some core →
        handlerEntry s x.ctx x.handler = some (ptr, r) →
        (reservedClear r = false → openInbox s cl =
          let s1 := touchHandler (s.setCluster cl { s.cluster cl with inbox := [] }) x.ctx x.handler
          let s2 := raiseFault (if partsOf s1 x.ctx = [] then holdPart s1 (cl / 16) p x.ctx else s1) x.ctx none none
            { code := 12 } (some core)
          if (s1.part (cl / 16) p).phase = .free then triggers s2 (cl / 16) else s2) ∧
        (reservedClear r = true → x.payload.length ≤ 80 → ∃ k w st wv, (openInbox s cl).strands.get? k = some st ∧
          (openInbox s cl).weaves.get? w = some wv ∧ st.weave = w ∧ st.core = core ∧ st.handler = true ∧
          (∀ j, st.sget j = if j = 80 then (x.sender : Int) else x.payload.getD j 0) ∧
          (∀ l, l < 32 → st.thread l = newThread (decide (l < recThreads r)) (recWord r 4)) ∧
          wv.ctx = x.ctx ∧ wv.die = cl / 16 ∧ wv.cluster = cl % 16 ∧ wv.part = p ∧ wv.len = 0 ∧ wv.nstrands = recStrands r ∧
          ((openInbox s cl).cluster cl).inbox = [] ∧ ((openInbox s cl).core core).dcache = [] ∧
          (openInbox s cl).mem = s.mem)) ∧
      (handlerPart s (cl / 16) (cl % 16) x.ctx = none → openInbox s cl = s))

/-! ### Halts (R312, R319 to R324, R330 to R336) -/

/-- R318, R319, R321, R325, R45: the first fault of a living context halts it: the fault is the context's, with the
time of its core, the strand or operation keeps it, and every partition of the context that is not halting already
begins its skid, its cores' queued grows ended. Memory stays. That a fault of no core has State.cycle for its time (logs 55
and 60), and that a halt already under way goes on as it is (log 74), are the model's reading. -/
def Obligations.FaultHaltsContext : Prop :=
  ∀ (s : State) (ctx : Nat) (strand op core : Option Nat) (f : FaultInfo) (c : Context),
    s.contexts.get? ctx = some c → c.status = .alive →
    ctx / 256 < s.dies.length → (s.die (ctx / 256)).parts.length = 3 →
    let clock := (core.or ((strand.bind s.strands.get?).map (·.core))).or ((op.bind s.ops.get?).map (·.core))
    let time : Nat := match clock with
      | some k => (counter s k).toNat
      | none => s.cycle
    let t := raiseFault s ctx strand op f core
    (∃ d, t.contexts.get? ctx = some d ∧ d.status = .faulted ∧ d.fault = some f ∧ d.faultStrand = strand ∧
      d.faultOp = op ∧ d.faultCycle = time ∧ d.root = c.root ∧ d.images = c.images) ∧
    (∀ k st, strand = some k → s.strands.get? k = some st → ∃ st', t.strands.get? k = some st' ∧
      st'.fault = some (st.fault.getD f) ∧ st'.faultAddr = f.addr.getD st.faultAddr ∧ st'.pick = st.pick) ∧
    (∀ n o, op = some n → s.ops.get? n = some o → t.ops.get? n = some { o with fault := some (o.fault.getD f) }) ∧
    (∀ p ∈ partsOf s ctx, if halting (s.part (ctx / 256) p) then t.part (ctx / 256) p = s.part (ctx / 256) p
      else (t.part (ctx / 256) p).phase = .halt time (s.cycle + us (s.die (ctx / 256)).swapUs) 0 ∧
        (t.part (ctx / 256) p).clock = clock ∧
        ∀ k ∈ coresOf (ctx / 256) p, ∀ r ∈ (t.core k).growQ, onPart t (ctx / 256) p r.strand = false) ∧
    t.mem = s.mem ∧ t.host = s.host

/-- R13, R320, R321, R324, R330, R332, R334: halts end after the skid, in cycles of the core that raised them, drains and
swaps by their deadlines; a context that holds a running partition resumes its weaves, or faults on an image with a nonzero
reserved field; the watchdogs are faults with code 13. That a halt ends no earlier than its full skid (log 26), what the
operation watchdog leaves out (log 37), and the end of an image that cannot be read (log 38) are the model's. R324 to R329,
R332: what the records of a halt hold, word by word, their order and ordinals, and that they go to the stop area, each whole,
or to shadow storage, are the statements of Safety that stand at the end, with what follows them. The faulting record of an
engine fault (log 80) and the place of later images in the stop area (log 36) are the model's. -/
def Obligations.HaltsProceed : Prop :=
  (∀ (s : State) (die part ctx n : Nat) (c : Context) (o : EngOp),
    let x := s.part die part
    let ended (p reason : Nat) : Prop := ∃ t b, (s.part die p).phase = .halt t b reason ∧
      t + 12000 ≤ clockTime s (s.part die p).clock ∧ matrixPending s ((residents s die p).map Prod.fst) = false
    (∀ reason clock, die < s.dies.length → part < (s.die die).parts.length →
      (beginHalt s die part reason clock).part die part =
        { x with phase := .halt (clockTime s clock) (s.cycle + us (s.die die).swapUs) reason, clock := clock }) ∧
    (∀ d, x.phase = .drain d → d ≤ s.cycle →
      exec (.drainDeadlineExpiry die part) s = .next (beginHalt s die part 2 none)) ∧
    (∀ t b parts, x.phase = .halt t b 0 →
      parts = ((partsOf s x.ctx).filter fun p => match (s.part die p).phase with | .halt _ _ 0 => true | _ => false) →
      (∀ p ∈ parts, ended p 0) →
      exec (.skidBoundExpiry die part) s = .next (endFaultHalt s x.ctx parts)) ∧
    (∀ t b, x.phase = .halt t b 2 → ended part 2 →
      exec (.skidBoundExpiry die part) s = .next (endSwapHalt s die part b)) ∧
    (ended part 4 → exec (.skidBoundExpiry die part) s = .next (endSpillHalt s die part)) ∧
    (∀ t b, x.phase = .imaging t b → t ≤ s.cycle → t ≤ b →
      exec (.swapOutComplete die part) s = .next (freePart
        (s.modCtx x.ctx fun y => { y with images := y.images ++ [.shadow part] }) die part)) ∧
    (∀ t b r, x.phase = .halt t b r → r ≠ 0 → b ≤ s.cycle →
      exec (.swapDeadlineExpiry die part) s = .next (loseContext s x.ctx .lost true)) ∧
    (∀ t b, x.phase = .imaging t b → b < t → b ≤ s.cycle →
      exec (.swapDeadlineExpiry die part) s = .next (loseContext s x.ctx .lost true)) ∧
    (s.contexts.get? ctx = some c → c.status = .alive → (∃ p ∈ partsOf s ctx, (s.part (ctx / 256) p).phase = .run) →
      (c.images ≠ [] ∨ c.stored ≠ []) →
      let t := touchImages s ctx c
      (reservedSet s ctx c = true → exec (.resume ctx) s = .next (raiseFault t ctx none none { code := 12 })) ∧
      (reservedSet s ctx c = false → readImages t ctx c = none →
        exec (.resume ctx) s = .next (loseContext t ctx .lost true)) ∧
      ∀ s1, reservedSet s ctx c = false → readImages t ctx c = some s1 →
        let s2 := s1.modCtx ctx fun y => { y with stored := [] }
        exec (.resume ctx) s = .next (leaveChecks (placeAll
          { s2 with launches := s2.launches.map fun q =>
              (q.1, if q.2.ctx = ctx then { q.2 with lastStart := none } else q.2) } ctx
          (((s1.contexts.get? ctx).map (·.stored)).getD [])) ctx)) ∧
    (s.contexts.get? ctx = some c → c.status = .alive → (∃ w ∈ s.weaves, w.2.ctx = ctx) →
      (∃ t, c.watchdog = some t ∧ c.progress + t ≤ s.cycle) →
      exec (.contextWatchdog ctx) s = .next (raiseFault s ctx none none { code := 13 })) ∧
    (s.ops.get? n = some o → (o.unit = .copy ∨ o.unit = .transform ∨ o.unit = .message) → isCpw o.i = false →
      retries s o = false → (∀ a w, o.phase ≠ .hostPri a w) →
      (∀ a ∈ s.accs, a.eng.isSome = true → a.group = n → ∀ r owner, routeOf s a = some (r, owner) → n ∉ heldUp s r owner) →
      opLives s o = true →
      o.movedAt + 1594323 ≤ (counter s o.core).toNat →
      exec (.operationWatchdog n) s = .next (opFault s n o 13))) ∧
  ThreadBlocks ∧ StrandRecords ∧ WeaveRecords ∧ EngineRecords ∧ ImagesStand ∧
  (∀ (s : State) (ctx : Nat) (parts : List Nat) (c : Context),
    let s1 := settleHalt s ((parts.flatMap fun p => residents s (ctx / 256) p).map Prod.fst)
    let rs := imageRecords s1 c 0 parts (parts.flatMap fun p => haltedOn s1 (ctx / 256) p)
    let out := writeRecords s1 ctx (c.stopBase + 3 * (areaUsed c : Int)) (c.stopSize - areaUsed c) rs
    s1.contexts.get? ctx = some c →
      (endFaultHalt s ctx parts).mem = out.1.mem ∧
      (out.2 = false → ((endFaultHalt s ctx parts).contexts.get? ctx).map (·.status) = some .lost)) ∧
  (∀ (s : State) (die part by_ : Nat) (c : Context), die < s.dies.length → part < (s.die die).parts.length →
    let ctx := (s.part die part).ctx
    let s1 := settleHalt s ((residents s die part).map Prod.fst)
    s1.contexts.get? ctx = some c → ∃ kept, ((endSwapHalt s die part by_).part die part).shadow =
      some ⟨ctx, (imageRecords s1 c 2 [part] (haltedOn s1 die part)).flatten, kept⟩)

/-! ### The rim and peers (R391 to R404) -/

/-- R391 to R396, R405: a good beat is taken and the last one lands its packet, a bad one counts as an attempt; a
packet moves on once its channel has slots, and one that finds none waits for the escape channel; eight failed attempts
retrain a link in both its directions, which then go on or are both down. The bit order of the check code is the model's
(log 24), and so is the order of packets of different ports (log 65). -/
def Obligations.RimMoves : Prop :=
  ∀ (s : State) (link id : Nat) (rest : List Nat) (p : Packet) (noise : List Nat),
    let x := s.link link
    let back := backLink link
    let trained (down : Bool) : State :=
      (s.setLink link { x with retraining := false, down := x.down || down }).setLink back
        { s.link back with retraining := false, down := (s.link back).down || down }
    let after (s' : State) : State := if 2 ≤ link % 4 then wakeReplays s' (link / 4) else s'
    (x.queue = id :: rest → s.packets.get? id = some p → x.retraining = false → x.down = false → x.attempts < 8 →
      (beatGood noise = false →
        exec (.beatReceive link noise) s = .next (s.setLink link { x with attempts := x.attempts + 1 })) ∧
      ((∀ b ∈ noise, b = 0) → x.beat + 1 < p.beats →
        exec (.beatReceive link noise) s = .next
          ((s.setLink link { x with attempts := 0, beat := x.beat + 1 }).modPkt id fun _ => p)) ∧
      ((∀ b ∈ noise, b = 0) → p.beats ≤ x.beat + 1 → ∃ t, exec (.beatReceive link noise) s = .next t ∧
        t = { s with links := t.links, packets := t.packets } ∧
        t.link link = { x with queue := rest, held := x.held ++ [id], attempts := 0, beat := 0 } ∧
        t.packets.get? id = some { p with at_ := linkEnd link, crossed := p.crossed || dateline link })) ∧
    (x.queue = [] → 2 ≤ link % 4 → x.retraining = false → x.down = false → x.attempts < 8 →
      exec (.beatReceive link noise) s = .next
        (s.setLink link { x with attempts := if beatGood noise then 0 else x.attempts + 1 })) ∧
    (∀ d, d < 8 → backLink (4 * d) = 4 * ((d + 1) % 8) + 1 ∧ backLink (4 * ((d + 1) % 8) + 1) = 4 * d ∧
      backLink (4 * d + 2) = 4 * d + 3 ∧ backLink (4 * d + 3) = 4 * d + 2) ∧
    (8 ≤ x.attempts → x.down = false →
      let s1 := s.setLink link { x with attempts := 0, retraining := true, retrains := x.retrains + 1 }
      exec (.linkRetrain link) s = .next
        (s1.setLink back { s1.link back with attempts := 0, retraining := true })) ∧
    (x.retraining = true → exec (.linkRetrainingComplete link true) s = .next (after (trained false))) ∧
    (x.retraining = true → exec (.linkRetrainingComplete link false) s = .next (after
      ((x.queue ++ (s.link back).queue).foldl (fun s' q => match s'.packets.get? q with
        | some y => lose s' q y
        | none => s') (trained true)))) ∧
    (s.packets.get? id = some p → p.at_ ≠ p.dst → firstInOrder s id p = true →
      let l := nextLink s p.at_ p.src p.dst
      (crossing s p = true → exec (.packetForward id) s = .next (lose s id p)) ∧
      (crossing s p = false → nextChannel s p l = none →
        exec (.packetForward id) s = .next (s.modPkt id fun y => { y with waits := p.channel == .adaptive })) ∧
      (∀ c, crossing s p = false → nextChannel s p l = some c →
        let s1 := match p.port with
          | some k => s.setLink k { s.link k with held := (s.link k).held.filter (· != id) }
          | none => s
        let s2 := s1.modPkt id fun y => { y with port := some l, channel := c }
        exec (.packetForward id) s = .next (freeEntry
          (s2.setLink l { s2.link l with queue := (s2.link l).queue ++ [id] }) p.at_ id)) ∧
      (p.channel = .adaptive → p.waits = true → nextChannel s p l ≠ some .adaptive))

/-- R377, R393, R399 to R404: the owner's tracker refuses a request out of order, or without a free entry, or takes it,
performs it as a local access and answers; a core's word and an engine's trytes or signal are served each in its way.
Answers end the accesses that wait for them, and refused requests are sent again. That the lanes of an atomic travel
together (log 63), and the numbers after a withdrawal (log 66), are the model's reading. -/
def Obligations.PeerRequestsServed : Prop :=
  ∀ (s : State) (id die requester : Nat) (p : Packet),
    let v := verdict (s.die p.dst).tracker p.requester p.seq
    let s1 := dropPacket s id
    let s2 := s1.modDie p.dst fun x => { x with tracker := x.tracker.decide_ p.requester s1.nextId v }
    (∀ kind i, (kind = PktType.read ∧ i = Instr.peerRead id) ∨ (kind = .write ∧ i = .peerWrite id) ∨
        (kind = .atomic ∧ i = .peerAtomic id) →
      arrived s id kind = some p →
      let type : PktType := if kind = .write then .acknowledgement else .dataResponse
      (v = .order → exec i s = .next (addPacket s2 (answer p .refusal 2 [] none))) ∧
      (v = .full → exec i s = .next (addPacket s2 (answer p .refusal 1 [] none))) ∧
      (∀ n, v = .ticket n → exec i s = .next (addPacket s2 (answer p .refusal (3 + 16 * n) [] none))) ∧
      let walked := touchReads s2 ((requestPlaces p).flatMap (ownerKeys s2)).eraseDups
      (∀ code, v = .accept → requestKeys s2 p = .error code →
        exec i s = .next (addPacket walked (answer p type 0 [] (some code)))) ∧
      (∀ ks, v = .accept → requestKeys s2 p = .ok ks →
        let from_ := (ks.take 1).map fun k => Place.home k.1 k.2
        (∀ w m, p.requester % 128 < 64 → decode p.w0 p.w1 = some w → requestOf w = some m →
          exec i s = .next (addPacket (serveAt (forgetLate walked p) p m ks).1
            { answer p type 0 (serveAt (forgetLate walked p) p m ks).2 none with split := from_ })) ∧
        (64 ≤ p.requester % 128 → exec i s = .next (addPacket (serveEngine walked p ks).1
          { answer p type 0 (serveEngine walked p ks).2 none with split := from_ })))) ∧
    (arrived s id .dataResponse = some p → exec (.dataResponse id) s = .next (landAnswer s id p)) ∧
    (arrived s id .acknowledgement = some p → exec (.acknowledgement id) s = .next (landAnswer s id p)) ∧
    (arrived s id .refusal = some p → exec (.refusal id) s = .next (sendRequests
      { s1 with accs := s1.accs.map fun a =>
          if a.group = p.serves ∧ a.seq = p.seq ∧ a.phase = .sent then { a with phase := .refused (p.status % 16 == 3) }
          else a } p.requester p.src)) ∧
    (arrived s id .slotReady = some p → exec (.slotReady id) s = .next (sendRequests
      { s1 with accs := s1.accs.map fun a =>
          if routeOf s1 a = some (p.requester, p.src) ∧ a.phase = .refused true then { a with phase := .refused false }
          else a } p.requester p.src)) ∧
    (∀ t, (s.die die).tracker.reserved.find? (fun r => r.1 == requester) = some (requester, t) →
      t + 6561 ≤ fabricCycle s →
      exec (.ticketReservationExpiry die requester) s = .next (serveTickets (s.modDie die fun x =>
        { x with tracker := { x.tracker with
            reserved := x.tracker.reserved.filter fun r => r.1 != requester,
            recorded := x.tracker.recorded.filter fun r => r != requester } }) die))

/-! ### The host interface (R406 to R413) -/

/-- R407 to R409, R413, R415: the registers of a function take what is written to them, a ring takes a kick that
lies ahead of its tail within its free space and is in error beyond it, and reads answer eight bytes. R409:
a kick to a tail ahead by 1 to the free entries is taken, one to the tail itself or behind it is ignored,
and one beyond the free entries is an error. R408: a queue's page reads its last accepted tail at offset 0 and takes
kicks there; every other offset of BAR2 reads 0 and ignores writes. The errors of the admin ring, and the queue number
of their event, are the model's reading (log 41). -/
def Obligations.RegistersAndKicks : Prop :=
  (∀ (s : State) (die q off v : Nat) (x : Queue),
      let b := (s.die die).bar
      let becomes (f : Bar → Bar) : State := s.modDie die fun d => { d with bar := f d.bar }
      (b.ctl.testBit 0 = true → b.error = false → b.ready = true →
        (∀ t, kickOf b.sizeNow b.head b.tail v = .raise t →
          exec (.adminTail die v) s = .next (becomes fun b => { b with tail := t })) ∧
        (kickOf b.sizeNow b.head b.tail v = .ignore → exec (.adminTail die v) s = .next s) ∧
        (kickOf b.sizeNow b.head b.tail v = .error →
          exec (.adminTail die v) s = .next (postEvent (becomes fun b => { b with error := true }) die 4 0 1024 0))) ∧
      ((b.ctl.testBit 0 = false ∨ b.error = true ∨ b.ready = false) → exec (.adminTail die v) s = .next s) ∧
      (v % 2 = 1 → b.ctl.testBit 0 = true →
        exec (.adminCtl die v) s = .next (becomes fun b => { b with ctl := v % 4 + v / 256 % 2048 * 256 })) ∧
      (v % 2 = 1 → b.ctl.testBit 0 = false →
        let enabled (err : Bool) : State :=
          { becomes fun b => { b with
              ctl := v % 4 + v / 256 % 2048 * 256, ringNow := b.ring, sizeNow := b.size, head := 0, tail := 0, done := 0,
              error := err } with
            cmds := s.cmds.filter fun y => y.2.queue != 1025 * die + 1024 }
        ((ringSize 64 4096 b.size && b.ring % 64 == 0 && b.doneAddr % 8 == 0) = true →
          exec (.adminCtl die v) s = .next (enabled false)) ∧
        (die < s.dies.length → (ringSize 64 4096 b.size && b.ring % 64 == 0 && b.doneAddr % 8 == 0) = false →
          exec (.adminCtl die v) s = .next (postEvent (enabled true) die 4 0 1024 0))) ∧
      (exec (.registerWrite die 0x20 v) s = .next (becomes fun b => { b with doneAddr := v % 2 ^ 64 }) ∧
       exec (.registerWrite die 0x38 v) s = .next (becomes fun b => { b with eventRing := v % 2 ^ 64 }) ∧
       exec (.registerWrite die 0x40 v) s = .next (becomes fun b => { b with eventSize := v % 2 ^ 64 }) ∧
       exec (.registerWrite die 0x48 v) s = .next (becomes fun b => { b with eventHead := v % 2 ^ 64 }) ∧
       exec (.registerWrite die 0x50 v) s = .next (becomes fun b => { b with aperture := v % 2 ^ 64 }) ∧
       (b.ctl.testBit 0 = false →
        exec (.registerWrite die 0x10 v) s = .next (becomes fun b => { b with ring := v % 2 ^ 64 }) ∧
        exec (.registerWrite die 0x18 v) s = .next (becomes fun b => { b with size := v % 2 ^ 64 })) ∧
       (off ∉ [0x10, 0x18, 0x20, 0x38, 0x40, 0x48, 0x50] → exec (.registerWrite die off v) s = .next s)) ∧
      (off % 8 = 0 → off < 0x100000 → exec (.apertureRead die off) s = .next
        { s with reply := leBytes 8 (readRegister s die off) }) ∧
      (s.queues.get? (1025 * die + q) = some x → x.error = false → x.closing = false →
        (∀ t, kickOf x.size x.head x.tail v = .raise t → exec (.kick die q v) s = .next
          { s with queues := s.queues.put (1025 * die + q) { x with tail := t } }) ∧
        (kickOf x.size x.head x.tail v = .ignore → exec (.kick die q v) s = .next s) ∧
        (kickOf x.size x.head x.tail v = .error → exec (.kick die q v) s = .next (postEvent
          { s with queues := s.queues.put (1025 * die + q) { x with error := true } } die 4 (x.ctx % 256) q 0))) ∧
      (s.queues.get? (1025 * die + q) = none → exec (.kick die q v) s = .next s) ∧
      (q < 1024 → readBar2 s die (4096 * q) = ((s.queues.get? (1025 * die + q)).map (·.tail)).getD 0 ∧
        writeBar2 die (4096 * q) v s = exec (.kick die q v) s) ∧
      (off % 4096 ≠ 0 → readBar2 s die off = 0 ∧ writeBar2 die off v s = .next s)) ∧
  (∀ n head tail k : Nat, tail < 2 ^ 32 → head < 2 ^ 32 → n ≤ 2 ^ 16 → sub32 tail head ≤ n → k < 2 ^ 32 →
      kickOf n head tail ((tail + k) % 2 ^ 32) =
        if k = 0 ∨ 2 ^ 31 ≤ k then .ignore
        else if k ≤ n - sub32 tail head then .raise ((tail + k) % 2 ^ 32) else .error)

/-- R409, R410, R412, R413: a command is fetched as the 64 bytes at its ring index; one that has ended
writes its status, and where it is the only one of the table and next in its ring the completion word rises past it, and
the vector is sent where it asks for that. R373, R416: a user queue's ring and words are reached under its PASID, and
what has no translation waits for one. R410, R411: a command whose
header is refused ends with the code as it starts, and so does a user command of a context that does not live; one
that may not start yet stays as it is. R412: what the end of a command with a status and a result comes to, for one
that has not ended. The fetches and completions stated are those while no link of the I/O die is down or retrains; what
becomes of the others is the model's reading (log 45). -/
def Obligations.CommandsFetchedAndCompleted : Prop :=
  (∀ (s : State) (die key n : Nat) (q : Queue) (c : Cmd),
      let due : Prop := s.queues.get? key = some q ∧ key % 1025 ≠ 1024 ∧ q.error = false ∧ q.closing = false ∧
        sub32 q.tail q.head ≠ 0 ∧ q.io = .queued ∧ ioWaits s (key / 1025) = false ∧ ioDown s (key / 1025) = false
      let at_ := q.ring + 64 * (q.head % q.size)
      (due → atsGrants s (key / 1025) q.pasid false at_ = true →
        ∃ t c, exec (.commandFetch key) s = .next t ∧
          c = { die := key / 1025, queue := key, index := q.head, ctx := some q.ctx,
                bytes := (List.range 64).map fun i => hostByte s (at_ + i) } ∧
          t = { s with cmds := s.cmds.put s.nextId c, nextId := s.nextId + 1, mgmt := t.mgmt,
                       queues := s.queues.put key { q with head := (q.head + 1) % 2 ^ 32 } } ∧
          (s.mgmt.capture.armed = none → t.mgmt = s.mgmt)) ∧
      (due → atsGrants s (key / 1025) q.pasid false at_ = false →
        exec (.commandFetch key) s = .next { s with queues := s.queues.put key { q with io := .host at_ false false } }) ∧
      ((s.die die).bar.ctl.testBit 0 = true → (s.die die).bar.error = false →
        sub32 (s.die die).bar.tail (s.die die).bar.head ≠ 0 → ioWaits s die = false → ioDown s die = false →
        ∃ t c, exec (.commandFetch (1025 * die + 1024)) s = .next t ∧ t.cmds = s.cmds.put s.nextId c ∧
          c = { die, queue := 1025 * die + 1024, index := (s.die die).bar.head,
                bytes := (List.range 64).map fun i => hostByte s
                  ((s.die die).bar.ringNow + 64 * ((s.die die).bar.head % (s.die die).bar.sizeNow) + i) } ∧
          t = { s with cmds := t.cmds, nextId := s.nextId + 1, dies := t.dies } ∧
          (die < s.dies.length → (t.die die).bar =
            { (s.die die).bar with head := ((s.die die).bar.head + 1) % 2 ^ 32 })) ∧
      (∀ code, s.cmds.get? n = some c → c.phase = .fetched → mayStart s c = true → headerFault c = some code →
        exec (.commandCompletion n) s = .next
          { s with cmds := s.cmds.put n { c with phase := .ended code 0, io := .queued } }) ∧
      (∀ code result a, s.cmds.get? n = some c → c.phase = .ended code result → c.io = .queued →
        ioWaits s c.die = false → ioDown s c.die = false → completionWants s c = some a →
        exec (.commandCompletion n) s = .next { s with cmds := s.cmds.put n { c with io := .host a true false } }) ∧
      (∀ code result, s.cmds = [(n, c)] → c.phase = .ended code result → c.queue % 1025 ≠ 1024 →
        c.io = .queued → c.lost = [] → ioWaits s c.die = false → ioDown s c.die = false → completionWants s c = none →
        s.queues.get? c.queue = some q → q.done = c.index → c.index < 2 ^ 32 → cmdStatus c ≠ 0 → cmdStatus c % 8 = 0 →
        let s1 := writeHost s (cmdStatus c) (leBytes 8 (code + result * 2 ^ 32))
        let s2 : State := { s1 with cmds := [], queues := s.queues.put c.queue { q with done := q.done + 1 } }
        let s3 := writeHost s2 q.doneAddr (leBytes 8 (q.done + 1))
        exec (.commandCompletion n) s = .next (if cmdInterrupt c then sendMsix s3 c.die q.vector else s3))) ∧
  (∀ (op : Nat) (s : State) (n : Nat) (c : Cmd) (i : Instr) (body : Cmd → State → State),
      exec i s = command op n s body → s.cmds.get? n = some c → cmdOp c = op → c.phase = .fetched →
      let ended (code : Nat) : State := { s with cmds := s.cmds.put n { c with phase := .ended code 0, io := .queued } }
      (mayStart s c = false → exec i s = .next s) ∧
      (∀ code, mayStart s c = true → headerFault c = some code → exec i s = .next (ended code)) ∧
      (∀ code, mayStart s c = true → headerFault c = none → userOp op = true → ctxFault s c = some code →
        exec i s = .next (ended code))) ∧
  (∀ (s : State) (n code result : Nat) (c : Cmd), s.cmds.get? n = some c → (c.phase = .fetched ∨ c.phase = .started) →
      ends s n code result = { s with cmds := s.cmds.put n { c with phase := .ended code result, io := .queued } })

/-! ### Commands (R416 to R420) -/

/-- R36, R39, R343, R344, R350, R411, R416, R420: NOP ends at once, LAUNCH enters its record's weaves, graphs are created, run
and destroyed; WAIT is open until its word is at least v; SIGNAL, refused at its start where an operand lies outside its
range, writes its word once every earlier command of its queue has completed. R373, R416: COPY takes its elements in order,
from where it stands; it stops for a host translation that it lacks, ends with status 1 at an element that it cannot move, and
with the count of its range exceptions after the last. A launch that an earlier one of its queue or a CODE_LOAD of its context
holds back stays as it is. That a graph's table is a run of pairs (log 53) and names no record twice (log 99), that the window
rule holds for its roots (log 52), that a graph takes the lowest free number of its die (log 51), and that a COPY ends with
status 1 while a link to the I/O die is down (logs 45, 67 and 68, beside R392) are the model's reading. -/
def Obligations.UserCommands : Prop :=
  (∀ (s : State) (n : Nat),
      let mayLaunch (c : Cmd) (s1 : State) : Prop :=
        c.taken = false ∧ codeHeld s1 (actsFor c) = false ∧ firstTaken s1 c = true
      let begins (c x : Cmd) : Prop := cmdOp x = 3 ∧ x.phase = .started ∧ x.taken = false ∧ x.die = c.die ∧
        actsFor x = actsFor c ∧ cmdNat x 24 2 = cmdNat c 24 2
      let signal (c : Cmd) : Prop := fits 27 (cmdInt c 32) = true ∧ (operandPtr (cmdInt c 24)).isSome
      CommandRuns 0 n (.bqiNop n) s (fun _ _ => True) (fun _ s1 => ends s1 n 0 0) ∧
      (∀ p r, CommandRuns 1 n (.launch n) s
        (fun c s1 => mayLaunch c s1 ∧ operandPtr (cmdInt c 24) = some p ∧ recordAt s1 (actsFor c) p = some r ∧
          recordStatus s1 (actsFor c) 0 r = none)
        (fun c s1 => enterLaunch ((capture (touchRecord s1 (actsFor c) p) (actsFor c) ⟨.record, c.queue % 1025, r.flatMap wordBytes⟩).modCmd n fun x =>
            { x with taken := true })
          { die := c.die, ctx := actsFor c, cmd := some n, recPtr := p, record := r, level := recLevel r, seq := 0,
            total := (recGrid r).foldl (· * ·) 1 })) ∧
      (∀ p r code, CommandRuns 1 n (.launch n) s
        (fun c s1 => mayLaunch c s1 ∧ operandPtr (cmdInt c 24) = some p ∧ recordAt s1 (actsFor c) p = some r ∧
          recordStatus s1 (actsFor c) 0 r = some code)
        (fun c s1 => ends (touchRecord s1 (actsFor c) p) n code 0)) ∧
      (∀ p, CommandRuns 1 n (.launch n) s
        (fun c s1 => operandPtr (cmdInt c 24) = some p ∧ ¬ mayLaunch c s1) (fun _ s1 => s1)) ∧
      (∀ p ptrs nodes g, CommandRuns 2 n (.graphCreate n) s
        (fun c s1 => 1 ≤ cmdNat c 32 2 ∧ cmdNat c 32 2 ≤ 729 ∧ operandPtr (cmdInt c 24) = some p ∧
          pairTable s1 (actsFor c) p (cmdNat c 32 2) = some ptrs ∧ ptrs.eraseDups.length = cmdNat c 32 2 ∧
          buildNodes s1 (actsFor c) ptrs = .ok nodes ∧ s1.mgmt.capture.armed = none ∧
          ((List.range 4096).find? fun k => (s1.graphs.get? (4096 * c.die + k)).isNone) = some g)
        (fun c s1 =>
          let x : Graph := { die := c.die, ctx := actsFor c, number := g, nodes }
          ends { touchGraph s1 (actsFor c) p (cmdNat c 32 2) with graphs := s1.graphs.put (4096 * c.die + g) x } n 0 g)) ∧
      CommandRuns 3 n (.graphRun n) s (fun c _ => 4096 ≤ cmdNat c 24 2) (fun _ s1 => ends s1 n 1 0) ∧
      (∀ key g, CommandRuns 3 n (.graphRun n) s
        (fun c s1 => mayLaunch c s1 ∧ graphOf s1 c = .ok (key, g) ∧ g.running = none)
        (fun _ s1 => startRun (s1.modCmd n fun x => { x with taken := true }) key n g)) ∧
      (∀ key g, CommandRuns 3 n (.graphRun n) s
        (fun c s1 => mayLaunch c s1 ∧ graphOf s1 c = .ok (key, g) ∧ g.running ≠ none) (fun _ s1 => s1)) ∧
      CommandRuns 3 n (.graphRun n) s (fun c s1 => cmdNat c 24 2 < 4096 ∧ ¬ mayLaunch c s1) (fun _ s1 => s1) ∧
      (∀ key g, CommandRuns 4 n (.graphDestroy n) s
        (fun c s1 => graphOf s1 c = .ok (key, g) ∧ g.running = none ∧ ∀ x ∈ s1.cmds, ¬ begins c x.2)
        (fun _ s1 => ends { s1 with graphs := s1.graphs.del key } n 0 0)) ∧
      (∀ key g, CommandRuns 4 n (.graphDestroy n) s
        (fun c s1 => graphOf s1 c = .ok (key, g) ∧ (g.running ≠ none ∨ ∃ x ∈ s1.cmds, begins c x.2)) (fun _ s1 => s1)) ∧
      (∀ ks, CommandRuns 6 n (.wait n) s
        (fun c s1 => wordKeys s1 (actsFor c) .read (cmdInt c 24) = some ks ∧ tierWaits s1 (ks.map Prod.fst) = false)
        (fun c s1 =>
          let t := touchWord s1 (actsFor c) true (cmdInt c 24)
          if cmdInt c 32 ≤ ofTrytes (ks.map fun k => s1.mem.get k.1) then ends t n 0 0 else t)) ∧
      (∀ ks, CommandRuns 7 n (.signal n) s
        (fun c s1 => signal c ∧ ((earlier s1 c).all cmdOver = true) ∧
          wordKeys s1 (actsFor c) .write (cmdInt c 24) = some ks ∧ tierWaits s1 (ks.map Prod.fst) = false)
        (fun c s1 => ends (writeKeys (touchWord s1 (actsFor c) false (cmdInt c 24)) ks (toTrytes 3 (cmdInt c 32))) n 0 0)) ∧
      CommandRuns 7 n (.signal n) s (fun c s1 => signal c ∧ (earlier s1 c).all cmdOver = false) (fun _ s1 => s1) ∧
      CommandRuns 6 n (.wait n) s (fun c s1 => wordKeys s1 (actsFor c) .read (cmdInt c 24) = none)
        (fun c s1 => ends (touchWord s1 (actsFor c) true (cmdInt c 24)) n 1 0) ∧
      CommandRuns 7 n (.signal n) s (fun c _ => ¬ signal c) (fun _ s1 => ends s1 n 1 0) ∧
      CommandRuns 7 n (.signal n) s
        (fun c s1 => signal c ∧ (earlier s1 c).all cmdOver = true ∧ wordKeys s1 (actsFor c) .write (cmdInt c 24) = none)
        (fun c s1 => ends (touchWord s1 (actsFor c) false (cmdInt c 24)) n 1 0)) ∧
  (∀ (t : State) (ctx : Nat) (p : Int) (k : Nat) (read : Bool), (touchRecord t ctx p).mem = t.mem ∧
      (touchGraph t ctx p k).mem = t.mem ∧ (touchWord t ctx read p).mem = t.mem) ∧
  (∀ (s : State) (n : Nat) (a : CopyArgs),
      let going (c : Cmd) (s1 : State) : Prop := copyArgs c = some a ∧ (c.io = .queued ∨ c.io = .active) ∧
        ioWaits s1 c.die = false ∧ ioDown s1 c.die = false
      let moves (c : Cmd) (s1 : State) : Prop := going c s1 ∧ c.prog < a.count ∧ copyWants s1 c a c.prog = none ∧
        copyWaits s1 (actsFor c) a c.prog = false
      CommandRuns 5 n (.copy n) s (fun c _ => copyArgs c = none) (fun _ s1 => ends s1 n 1 0) ∧
      CommandRuns 5 n (.copy n) s (fun c s1 => going c s1 ∧ a.count ≤ c.prog)
        (fun c s1 => ends s1 n 0 (min c.hits (2 ^ 32 - 1))) ∧
      (∀ h, CommandRuns 5 n (.copy n) s (fun c s1 => going c s1 ∧ c.prog < a.count ∧ copyWants s1 c a c.prog = some h)
        (fun c s1 => s1.modCmd n fun x => { x with prog := c.prog, hits := c.hits, io := .host h a.toHost false })) ∧
      CommandRuns 5 n (.copy n) s (fun c s1 => moves c s1 ∧ (copyElem s1 (actsFor c) a c.prog).2 = none)
        (fun c s1 => ends (copyElem s1 (actsFor c) a c.prog).1 n 1 0) ∧
      (∀ s2 k, CommandRuns 5 n (.copy n) s
        (fun c s1 => moves c s1 ∧ copyElem s1 (actsFor c) a c.prog = (s2, some k))
        (fun c _ => copyRun n (actsFor c) c a (a.count - c.prog) (c.prog + 1) (c.hits + k) s2)) ∧
      (∀ s2 k, CommandRuns 5 n (.copy n) s
        (fun c s1 => moves c s1 ∧ c.prog + 1 = a.count ∧ copyElem s1 (actsFor c) a c.prog = (s2, some k))
        (fun c _ => ends s2 n 0 (min (c.hits + k) (2 ^ 32 - 1)))) ∧
      CommandRuns 5 n (.copy n) s (fun c s1 => copyArgs c = some a ∧ (c.io = .queued ∨ c.io = .active) ∧
        ioWaits s1 c.die = false ∧ ioDown s1 c.die = true) (fun _ s1 => ends s1 n 1 0))

/-- R398, R400, R417, R418, R420: contexts and queues are created, destroyed, spilled and resumed; ranges are
exported, imported and revoked; code is loaded into a context on which nothing runs. The reuse of a context
number (log 29), the address of a descriptor (log 42), the mark of a spill (log 56), and that EXPORT takes the lowest free
index (log 97) are the model's reading. R372, R427: INVALIDATE takes the context's entries of its range from the TLBs of the
die, all of them for a count of 0. -/
def Obligations.AdminCommands : Prop :=
  ∀ (s : State) (n : Nat),
    let live (c : Cmd) (s1 : State) (ctx : Nat) (x : Context) : Prop := liveCtx s1 c = .ok (ctx, x)
    CommandRuns 0x100 n (.query n) s (fun _ _ => True)
      (fun c s1 => ends (writeHost s1 (cmdNat c 24 8) (queryBlock s1 c.die)) n 0 0) ∧
    (∀ ws x k, CommandRuns 0x101 n (.contextCreate n) s
      (fun c s1 => descriptorWords s1 c.die (cmdInt c 24) = some ws ∧ readContext s1 ws = some x ∧
        handlersOk s1 c.die x = true ∧ ((List.range 256).find? fun k => ctxFree s1 (256 * c.die + k)) = some k)
      (fun c s1 => ends { touchHandlers (touchReads s1 (descriptorKeys s1 c.die (cmdInt c 24))) c.die x with
        contexts := s1.contexts.put (256 * c.die + k) x } n 0 k)) ∧
    (∀ x, CommandRuns 0x102 n (.contextDestroy n) s
      (fun c s1 => cmdNat c 24 2 ≤ 255 ∧ s1.contexts.get? (namedCtx c) = some x ∧ x.status ≠ .destroyed)
      (fun c s1 => ends (destroyCtx s1 (namedCtx c)) n 0 0)) ∧
    (∀ ctx x, CommandRuns 0x103 n (.contextResume n) s
      (fun c s1 => live c s1 ctx x ∧ x.status = .faulted ∧ (∀ p ∈ partsOf s1 ctx, halting (s1.part c.die p) = false) ∧
        cmdInt c 32 = 0)
      (fun _ s1 => ends (trigger (s1.modCtx ctx fun y =>
        { y with status := .alive, fault := none, faultStrand := none, faultOp := none, images := x.images,
                 waitSince := s1.cycle }) ctx) n 0 0)) ∧
    (∀ ctx x, CommandRuns 0x103 n (.contextResume n) s
      (fun c s1 => live c s1 ctx x ∧ x.status = .alive ∧ (cmdInt c 32 = 0 ∨ (operandPtr (cmdInt c 32)).isSome))
      (fun _ s1 => ends s1 n (if x.images = [] ∧ x.stored = [] then 1 else 0) 0)) ∧
    (∀ ctx x, CommandRuns 0x10D n (.contextSpill n) s
      (fun c s1 => live c s1 ctx x ∧ c.taken = false)
      (fun c s1 => (partsOf s1 ctx).foldl (fun t p => if halting (t.part c.die p) then t else beginHalt t c.die p 4 none)
        (s1.modCmd n fun y => { y with taken := true }))) ∧
    (∀ ctx x, CommandRuns 0x10D n (.contextSpill n) s
      (fun c s1 => live c s1 ctx x ∧ c.taken = true ∧ (∀ p ∈ partsOf s1 ctx, halting (s1.part c.die p) = false) ∧
        ∀ p, p < 3 → ∀ im, (s1.part c.die p).shadow = some im → im.ctx ≠ ctx)
      (fun _ s1 => ends s1 n 0 0)) ∧
    (∀ ctx x q, CommandRuns 0x104 n (.queueCreate n) s
      (fun c s1 => live c s1 ctx x ∧ 6 ≤ cmdNat c 26 2 ∧ cmdNat c 26 2 ≤ 16 ∧ cmdNat c 32 8 % 64 = 0 ∧
        cmdNat c 40 8 % 8 = 0 ∧ cmdNat c 48 4 < 2 ^ 20 ∧ cmdNat c 52 2 < 2048 ∧
        (∀ p, x.pasid = some p → p = cmdNat c 48 4) ∧
        ((List.range 1024).find? fun k => (s1.queues.get? (1025 * c.die + k)).isNone) = some q)
      (fun c s1 =>
        let y : Queue := { ctx, size := 2 ^ cmdNat c 26 2, ring := cmdNat c 32 8, doneAddr := cmdNat c 40 8,
                           pasid := cmdNat c 48 4, vector := cmdNat c 52 2 }
        let s2 : State := { s1 with queues := s1.queues.put (1025 * c.die + q) y }
        ends (s2.modCtx ctx fun z => { z with pasid := some (cmdNat c 48 4) }) n 0 q)) ∧
    (∀ x, CommandRuns 0x105 n (.queueDestroy n) s
      (fun c s1 => cmdNat c 24 2 < 1024 ∧ s1.queues.get? (1025 * c.die + cmdNat c 24 2) = some x ∧
        ∀ y ∈ s1.cmds, y.2.queue ≠ 1025 * c.die + cmdNat c 24 2)
      (fun c s1 =>
        let key := 1025 * c.die + cmdNat c 24 2
        let keep (y : Nat × Cmd) : Bool := y.2.queue != key
        ends { s1 with queues := (s1.queues.put key { x with closing := true }).del key,
                       cmds := s1.cmds.filter keep } n 0 0)) ∧
    (∀ ctx x base k, CommandRuns 0x106 n (.exportMem n) s
      (fun c s1 => live c s1 ctx x ∧ operandPtr (cmdInt c 32) = some base ∧ 0 < cmdNat c 40 8 ∧
        cmdNat c 40 8 ≤ (3 ^ 30 - 1) / 2 ∧ fits 44 (addrOf base + cmdNat c 40 8 * 3 ^ 10 - 1) = true ∧
        ((List.range 6561).find? fun k => ((s1.die c.die).exports.get? k).isNone) = some k)
      (fun c s1 => ends (s1.modDie c.die fun d => { d with exports := d.exports.put k (ctx, base, cmdNat c 40 8) }) n 0 k)) ∧
    (∀ ctx x e s2, CommandRuns 0x107 n (.importHandle n) s
      (fun c s1 => live c s1 ctx x ∧ (cmdNat c 26 1 = 1 ∨ cmdNat c 26 1 = 2) ∧ cmdNat c 27 1 ≤ 7 ∧ cmdNat c 28 1 ≤ 3 ∧
        cmdNat c 30 2 ≤ 6560 ∧ cmdNat c 32 2 ≤ 6560 ∧ (s1.die (cmdNat c 27 1)).exports.get? (cmdNat c 30 2) = some e ∧
        1 ≤ e.2.2 ∧ e.2.2 ≤ (3 ^ 30 - 1) / 2 ∧
        bqiWrite s1 ctx (x.handleTab + 6 * (cmdNat c 32 2 : Int)) (toTrytes 6
          (if cmdNat c 26 1 = 1 then
            handleEntry 1 (cmdNat c 27 1) ((cmdNat c 28 1).testBit 0) ((cmdNat c 28 1).testBit 1) (cmdNat c 30 2) e.2.2
          else handleEntry 2 (cmdNat c 27 1) false false (cmdNat c 30 2) 0)) = some s2)
      (fun _ _ => ends s2 n 0 0)) ∧
    (∀ e, CommandRuns 0x108 n (.revoke n) s
      (fun c s1 => (s1.die c.die).exports.get? (cmdNat c 24 2) = some e)
      (fun c s1 => ends (s1.modDie c.die fun d => { d with exports := d.exports.del (cmdNat c 24 2) }) n 0 0)) ∧
    (∀ ctx x p, CommandRuns 0x109 n (.invalidate n) s
      (fun c s1 => live c s1 ctx x ∧ operandPtr (cmdInt c 32) = some p ∧ 0 < cmdNat c 40 8 ∧
        fits 44 (addrOf p + cmdNat c 40 8 - 1) = true)
      (fun c s1 => ends (dropTlb s1 ctx p (p + cmdNat c 40 8 - 1)) n 0 0)) ∧
    (∀ ctx x, CommandRuns 0x109 n (.invalidate n) s
      (fun c s1 => live c s1 ctx x ∧ (operandPtr (cmdInt c 32)).isSome ∧ cmdNat c 40 8 = 0)
      (fun _ s1 => ends (dropTlb s1 ctx (devicePtr (-half 44)) (devicePtr (half 44))) n 0 0)) ∧
    (∀ (u : State) (ctx : Nat) (lo hi : Int) (core : Nat), core / 64 = ctx / 256 →
      ((dropTlb u ctx lo hi).core core).tlb = (u.core core).tlb.filter fun e =>
        !(e.ctx == ctx && decide (pageOf e.leaf.big lo ≤ e.page) && decide (e.page ≤ pageOf e.leaf.big hi))) ∧
    CommandRuns 0x10A n (.preempt n) s
      (fun c s1 => cmdNat c 24 1 ≤ 3 ∧ c.taken = false ∧ maskParts s1 c.die (cmdNat c 24 1) = []) (fun _ s1 => ends s1 n 0 0) ∧
    CommandRuns 0x10A n (.preempt n) s
      (fun c s1 => cmdNat c 24 1 ≤ 3 ∧ c.taken = false ∧ maskParts s1 c.die (cmdNat c 24 1) ≠ [])
      (fun c s1 =>
        let ps := maskParts s1 c.die (cmdNat c 24 1)
        ps.foldl (fun t p => preempt t c.die p)
          ((ps.foldl (fun t p => t.modPart c.die p fun y => { y with waiters := y.waiters ++ [n] }) s1).modCmd n fun y =>
            { y with taken := true })) ∧
    (∀ ctx x p ks xs, CommandRuns 0x10C n (.codeLoad n) s
      (fun c s1 => live c s1 ctx x ∧ operandPtr (cmdInt c 40) = some p ∧
        fits 44 (addrOf p + cmdNat c 48 8 - 1) = true ∧ ctxQuiet s1 ctx x = true ∧
        codeKeys s1 ctx p (cmdNat c 48 8) = some ks ∧ brokenAt s1 (ks.map Prod.fst) = false ∧
        streamTrytes (cmdNat c 48 8) (hostBytes s1 (cmdNat c 32 8) (streamLength (cmdNat c 48 8))) = .ok xs)
      (fun c s1 =>
        let bytes := hostBytes s1 (cmdNat c 32 8) (streamLength (cmdNat c 48 8))
        let s2 := writeKeys (touchPages (capture s1 ctx ⟨.code, c.queue % 1025, bytes⟩) ctx p (cmdNat c 48 8)) ks xs
        ends { s2 with cores := s2.cores.map fun y =>
          (y.1, { y.2 with icache := y.2.icache.filter fun l => l.ctx != ctx,
                           pins := y.2.pins.filter fun z => z.1 != ctx }) } n 0 0)) ∧
    (∀ ctx x p, CommandRuns 0x10C n (.codeLoad n) s
      (fun c s1 => live c s1 ctx x ∧ operandPtr (cmdInt c 40) = some p ∧
        fits 44 (addrOf p + cmdNat c 48 8 - 1) = true ∧ ctxQuiet s1 ctx x = false) (fun _ s1 => s1))

/-- R354, R417, R419: SET changes the one parameter that its event stands for, within its range, and refuses a value
outside it, a watchdog's context that does not exist among them, or a parameter that there is none of, with status 1. A
change that would remove handler slots now held waits until they are freed. A change of the matrix budget finds every core of the
die in its present window, so that it holds from the next. -/
def Obligations.SetCommands : Prop :=
  ∀ (s : State) (n : Nat),
    let sets (i : Instr) (param lo hi : Nat) (f : Die → Nat → Die) (ok : Cmd → State → Prop) : Prop :=
      CommandRuns 0x10B n i s
        (fun c s1 => cmdNat c 24 2 = param ∧ lo ≤ cmdNat c 32 8 ∧ cmdNat c 32 8 ≤ hi ∧ ok c s1)
        (fun c s1 => ends ((if param = 7 then rollDie s1 c.die else s1).modDie c.die fun d => f d (cmdNat c 32 8)) n 0 0) ∧
      CommandRuns 0x10B n i s
        (fun c _ => cmdNat c 24 2 = param ∧ (cmdNat c 32 8 < lo ∨ hi < cmdNat c 32 8)) (fun _ s1 => ends s1 n 1 0) ∧
      CommandRuns 0x10B n i s
        (fun c _ => cmdNat c 24 2 = 0 ∨ 7 < cmdNat c 24 2) (fun _ s1 => ends s1 n 1 0)
    let any (_ : Cmd) (_ : State) : Prop := True
    sets (.setPartitionMode n) 1 0 1 (fun d v => { d with wholeDie := v == 1 }) any ∧
    sets (.setDrainDeadline n) 3 0 81000000 (fun d v => { d with drainUs := v }) any ∧
    sets (.setSwapDeadline n) 4 20 81000000 (fun d v => { d with swapUs := v }) any ∧
    sets (.setQuantum n) 5 1 81000000 (fun d v => { d with quantumUs := v }) any ∧
    sets (.setHandlerSlots n) 6 0 9 (fun d v => { d with handlers := v })
      (fun c s1 => ∀ k, k < 16 → handlersOn s1 (16 * c.die + k) ≤ cmdNat c 32 8) ∧
    CommandRuns 0x10B n (.setHandlerSlots n) s
      (fun c s1 => cmdNat c 24 2 = 6 ∧ cmdNat c 32 8 ≤ 9 ∧ ∃ k, k < 16 ∧ cmdNat c 32 8 < handlersOn s1 (16 * c.die + k))
      (fun _ s1 => s1) ∧
    sets (.setMatrixBudget n) 7 1 81 (fun d v => { d with budget := v }) any ∧
    CommandRuns 0x10B n (.setContextWatchdog n) s
      (fun c s1 => cmdNat c 24 2 = 2 ∧ (81000000 < cmdNat c 32 8 % 2 ^ 48 ∨ 255 < cmdNat c 32 8 / 2 ^ 48 ∨
        s1.contexts.get? (256 * c.die + cmdNat c 32 8 / 2 ^ 48) = none))
      (fun _ s1 => ends s1 n 1 0) ∧
    CommandRuns 0x10B n (.setContextWatchdog n) s
      (fun c _ => cmdNat c 24 2 = 0 ∨ 7 < cmdNat c 24 2) (fun _ s1 => ends s1 n 1 0) ∧
    CommandRuns 0x10B n (.setContextWatchdog n) s
      (fun c s1 => cmdNat c 24 2 = 2 ∧ cmdNat c 32 8 % 2 ^ 48 ≤ 81000000 ∧ cmdNat c 32 8 < 2 ^ 56 ∧
        (s1.contexts.get? (256 * c.die + cmdNat c 32 8 / 2 ^ 48)).isSome)
      (fun c s1 =>
        let v := cmdNat c 32 8
        ends (s1.modCtx (256 * c.die + v / 2 ^ 48) fun x =>
          { x with watchdog := if v % 2 ^ 48 = 0 then none else some (4000 * (v % 2 ^ 48)) }) n 0 0)

/-! ### Host translation, upkeep and management (R355, R361, R366 to R368, R373, R374, R413, R428 to R437) -/

/-- R257, R373, R374, R392: an answer with the permission enters the translation cache and lets its waiter go on; one
without leads to a page request, and after a page request to the fault; a page request counts from when it goes out,
27 of a PASID at once, and a failed one is the translation fault. An invalidation drops what it covers, and its
completion waits for the accesses that hold what it covers. With a link of the I/O die down a waiter meets the
data-integrity fault, and in retraining it waits. Data for an ldh is the host's bytes as they stand. That R392 holds for
host traffic (log 68), and when an invalidation counts as complete (log 49), are the model's reading. -/
def Obligations.HostTranslationProceeds : Prop :=
  (∀ (s : State) (grp lane size : Nat) (r w : Bool) (y : Waiter) (x : Want_),
      waiterOf s grp lane = some y → wantOf s y = some x →
      let cached (p : Bool × Bool) : State := s.modDie x.die fun d =>
        { d with ats := (⟨x.pasid, x.addr / size * size, size, p.1, p.2⟩ ::
            d.ats.filter fun e => !(e.pasid == x.pasid && e.base == x.addr / size * size)).take 6561 }
      (x.pri = false → ioWaits s x.die = false → ioDown s x.die = false →
        (size ≠ 0 → (if x.write then w else r) = true →
          exec (.atsTranslationCompletion grp lane size r w) s = .next (granted (cached (r, w)) grp y)) ∧
        (size ≠ 0 → (if x.write then w else r) = false → x.again = false →
          exec (.atsTranslationCompletion grp lane size r w) s = .next (requested (cached (r, w)) grp lane y x)) ∧
        (size ≠ 0 → (if x.write then w else r) = false → x.again = true →
          exec (.atsTranslationCompletion grp lane size r w) s = .next (denied (cached (r, w)) grp y x 2)) ∧
        (x.again = false → exec (.atsTranslationCompletion grp lane 0 r w) s = .next (requested s grp lane y x)) ∧
        (x.again = true → exec (.atsTranslationCompletion grp lane 0 r w) s = .next (denied s grp y x 1))) ∧
      (x.pri = false → ioWaits s x.die = false → ioDown s x.die = true →
        exec (.atsTranslationCompletion grp lane size r w) s = .next (denied s grp y x 7)) ∧
      (x.pri = false → ioWaits s x.die = true → exec (.atsTranslationCompletion grp lane size r w) s = .next s) ∧
      (let s1 : State := { s with pageRequests := s.pageRequests.filter fun z => z != (grp, lane) }
       x.pri = true → (grp, lane) ∈ outstanding s x.die x.pasid →
        exec (.priResponse grp lane true) s = .next (askAgain s1 grp y x) ∧
        exec (.priResponse grp lane false) s = .next (denied s1 grp y x 1)) ∧
      (x.pri = true → (grp, lane) ∉ outstanding s x.die x.pasid → ∀ ok, exec (.priResponse grp lane ok) s = .next s) ∧
      (requested s grp lane y x).pageRequests = s.pageRequests.filter (fun z => z != (grp, lane)) ++ [(grp, lane)] ∧
      (outstanding s x.die x.pasid).length ≤ 27) ∧
  (∀ (s : State) (die pasid base len : Nat),
      exec (.atsInvalidation die pasid base len) s = .next (completeInvals (s.modDie die fun d =>
        { d with
          ats := d.ats.filter fun e =>
            !(e.pasid == pasid && decide (e.base < base + len) && decide (base < e.base + e.size))
          invals := d.invals ++ [usersOf s die pasid base len] })) ∧
      (die < s.dies.length → (s.die die).invals = [] → ∃ t, exec (.atsInvalidation die pasid base len) s = .next t ∧
        if usersOf s die pasid base len = [] then
          (t.die die).invals = [] ∧ (t.die die).invalsDone = (s.die die).invalsDone + 1
        else (t.die die).invals = [usersOf s die pasid base len] ∧
          (t.die die).invalsDone = (s.die die).invalsDone)) ∧
  (∀ (s : State) (grp lane : Nat) (a : Acc) (st : Strand), waiterOf s grp lane = some (.acc a) → a.phase = .ready →
      a.kind = .load → s.strands.get? a.strand = some st → ioWaits s (dieOf st.core) = false →
      (ioDown s (dieOf st.core) = false →
        exec (.hostReadCompletion grp lane) s = .next (thenReplay (finishHost
          { s with accs := s.accs.map fun b => if b.group = grp ∧ b.lane = lane then
              { b with phase := .done,
                       result := (List.range a.size).map fun i => (hostByte s (a.addr.toNat + i) : Int) } else b }
          grp) (some a.strand))) ∧
      (ioDown s (dieOf st.core) = true →
        exec (.hostReadCompletion grp lane) s = .next (finishHost
          { s with accs := s.accs.map fun b => if b.group = a.group ∧ b.lane = a.lane then
              { b with phase := .failed 7 } else b } grp)))

/-- R355, R361, R366 to R368, R413, R431 to R433: events that no program orders change timing, stored forms and
management state alone: memory reads after each of them as it read before. A stretched cycle is one more
reference cycle; a change of cap finds every core of the die in its present window, so that it holds from the next, and
the effective budget of a die is the smallest of the driver's value, the thermal cap and the power cap, which is a free
value (log 40); a slice gives up the line used longest ago in a full set, and writes it back if it is newer than its
span; scrub mends what a check code corrects and records what it cannot. That vectors start masked (log 39), and which
set a line has (log 76), are the model's. -/
def Obligations.UpkeepKeepsMemory : Prop :=
  ∀ (s : State) (die line word bank core temp v c : Nat),
    (∀ i ∈ [Instr.sliceWriteback die line, .patrolScrub die (.line line), .patrolScrub die (.slice line word),
        .calibration die bank, .clockStretch core, .maskedVectorUnmask die v],
      ∃ t, exec i s = .next t ∧ t.mem = s.mem ∧ t.host = s.host ∧ t.strands = s.strands ∧ t.contexts = s.contexts ∧
        t.ops = s.ops ∧ t.clusters = s.clusters) ∧
    (∃ t, exec (.patrolScrub die (.scratch c word)) s = .next t ∧ t.mem = s.mem ∧ t.host = s.host ∧
      t.strands = s.strands ∧ t.contexts = s.contexts ∧ t.ops = s.ops ∧
      ∀ k, (t.cluster k).scratch = (s.cluster k).scratch ∧ (t.cluster k).inbox = (s.cluster k).inbox) ∧
    exec (.calibration die bank) s = .next s ∧
    exec (.clockStretch core) s = .next (if (s.core core).stretch = 0
      then s.setCore core { s.core core with stretch := 1 } else s) ∧
    effectiveBudget s die = max 1 (min (s.die die).budget (min
      (if (s.die die).temp < 100 then 81 else if (s.die die).temp < 108 then 9 else 1)
      (Config.powerCap s.mgmt.powerLimit die))) ∧
    (∀ k, (rollWindow s k).core k = if (s.core k).window = windowOf s k then s.core k else { s.core k with
      window := windowOf s k, budget := effectiveBudget s (dieOf k), used := 0 }) ∧
    (temp < 115 → exec (.thermalCap die temp) s = .next ((rollDie s die).modDie die fun d => { d with temp }) ∧
      (rollDie s die).mem = s.mem ∧ (rollDie s die).strands = s.strands ∧ (rollDie s die).dies = s.dies) ∧
    (115 ≤ temp → ∃ t, exec (.thermalCap die temp) s = .next t ∧ ∀ d ∈ t.dies, d.bar.ready = false) ∧
    (∀ x, die < s.dies.length → victimOf (s.die die) (setOf s die line) = some line → held s die line = some x →
      ∃ t, exec (.sliceWriteback die line) s = .next t ∧ held t die line = none ∧
        (x.dirty = true → (∀ b ∈ x.bad, b.2 < 2) →
          (t.die die).spans.get? line = some ⟨entryOf (lineTrytes s die line) x.comp, lineTrytes s die line, []⟩ ∧
          ScrubPlace.line line ∉ (t.die die).uncorrected)) ∧
    (victimOf (s.die die) (setOf s die line) ≠ some line → exec (.sliceWriteback die line) s = .next s) ∧
    (die < s.dies.length → spanBroken s die line = true → ∃ t, exec (.patrolScrub die (.line line)) s = .next t ∧
      ScrubPlace.line line ∈ (t.die die).uncorrected) ∧
    (∀ x, die < s.dies.length → held s die line = some x → x.bad.get? word = some 1 →
      ∃ t, exec (.patrolScrub die (.slice line word)) s = .next t ∧
        (held t die line).map (fun y => y.bad) = some (x.bad.del word) ∧
        (t.die die).corrected.get? 2 = some (((s.die die).corrected.get? 2).getD 0 + 1)) ∧
    (die < s.dies.length → v ∈ (s.die die).vectors → ∃ t, exec (.maskedVectorUnmask die v) s = .next t ∧
      t.msix = (die, v) :: s.msix ∧ v ∉ (t.die die).vectors ∧ v ∈ (t.die die).unmasked)

/-- R428 to R430: after a bring-up that succeeds the module is as after power-on, with the staged record in
force and host memory kept; after one that stops no die is ready. A record that does not fit or whose signatures do not
verify, or with an older rollback value, stops it at step 3. A function-level reset destroys the die's
contexts and queues, and BAR0 returns to its reset values. What a bring-up that stops before step 6 leaves, and what a
reset keeps beyond its rules, is the model's reading (log 50), that the record the module is built with verifies is
its choice (log 89), and whether the signatures of another do is a free value (log 23). -/
def Obligations.Resets : Prop :=
  ∀ (s : State) (die step : Nat),
    let r := s.mgmt.staged.getD s.record
    let sound : Prop := recordFits r = true ∧ (recordTrusted s.mgmt.counter r = true ∨
      (s.mgmt.staged = none ∧ r = Config.factoryRecord ∧ s.mgmt.counter ≤ r.rollback))
    (sound → exec (.moduleReset 0) s = .next { State.reset with
        host := s.host, msix := s.msix, agenda := s.agenda, cursor := s.cursor, free := s.free, record := r,
        mgmt := { counter := max s.mgmt.counter r.rollback } }) ∧
    (1 ≤ step → step ≤ 7 → ∃ t, exec (.moduleReset step) s = .next t ∧ t.host = s.host ∧ t.strands = [] ∧
      t.contexts = [] ∧ t.queues = [] ∧ t.cmds = [] ∧ t.ops = [] ∧ (∀ d ∈ t.dies, d.bar.ready = false) ∧
      t.mgmt.step < step ∧ s.mgmt.counter ≤ t.mgmt.counter ∧
      (step ≤ 5 → t.mem = s.mem) ∧ (sound → 6 ≤ step → t.mem = []) ∧ (sound → t.mgmt.step = step - 1)) ∧
    (¬ sound → (step = 0 ∨ 3 ≤ step) → ∃ t, exec (.moduleReset step) s = .next t ∧ t.mgmt.step = 2 ∧ t.record = s.record ∧
      t.mgmt.staged = s.mgmt.staged ∧ t.mgmt.counter = s.mgmt.counter ∧ t.host = s.host ∧ t.mem = s.mem ∧ t.strands = [] ∧
      t.contexts = [] ∧ t.queues = [] ∧ t.cmds = [] ∧ t.ops = [] ∧ (∀ d ∈ t.dies, d.bar.ready = false)) ∧
    (∃ t, exec (.functionLevelReset die) s = .next t ∧ t.mem = s.mem ∧
      (∀ c, c / 256 = die → t.contexts.get? c = none) ∧ (∀ q, q / 1025 = die → t.queues.get? q = none) ∧
      (∀ y ∈ t.cmds, y.2.die ≠ die) ∧
      (die < s.dies.length → (t.die die).bar = { ready := (t.die die).bar.ready } ∧ (t.die die).exports = []))

/-- R413, R431, R434 to R437: management commands answer with a status, and 2 outside a session whose requester the
owner's root stands for; each changes only what it names. R435: an SPDM request is answered from the measurements,
each with its signature, and changes no context. At 115 degrees every context is lost and the ready bits fall. What the
answer of an SPDM request and the session after it are, is free (log 22); so are the bytes in which the numbers of a
telemetry item are given, and the input power (log 21), the bytes in which the log of a capture is read (log 25), and
whether the signatures of a staged record verify (log 23): these values are the model's, not the spec's. -/
def Obligations.ManagementCommands : Prop :=
  ∀ (s : State) (item watts off count die ctx temp : Nat) (req bytes : List Nat) (c : Context),
    let reply (t : State) (bs : List Nat) : State := { t with mgmt := { t.mgmt with response := bs } }
    let open_ : Prop := s.mgmt.session = some s.record.ownerDigest
    let acts : List (Bool → Instr) := [fun b => .configStage b bytes, fun b => .powerLimit b watts,
      fun b => .captureArm b die ctx, fun b => .captureDisarm b, fun b => .captureRead b off count]
    (∃ t, exec (.spdmRequest req) s = .next t ∧
      t = { s with mgmt := t.mgmt, free := s.free + 1 } ∧
      t.mgmt = { s.mgmt with response := t.mgmt.response, session := t.mgmt.session } ∧
      t.mgmt.response = asBytes (Config.spdmAnswer s.free
        ((measurements s).map fun b => (b, Config.lmsSignature b)) req) ∧
      t.mgmt.session = Config.spdmSession s.free s.mgmt.session req) ∧
    (Config.sha384 (recordBytes s.record ++ s.record.signatures) ∈ measurements s ∧
      (s.mgmt.step < 7 → [s.mgmt.step, s.mgmt.step + 1] ∈ measurements s)) ∧
    (item ≤ 6 → exec (.telemetry item) s =
      .next { reply s (0 :: asBytes (Config.telemetryBytes item (telemetryOf s item))) with free := s.free + 1 }) ∧
    (6 < item → exec (.telemetry item) s = .next (reply s [1])) ∧
    (∀ i ∈ acts, exec (i false) s = .next (reply s [2]) ∧ (¬ open_ → exec (i true) s = .next (reply s [2]))) ∧
    (open_ →
      (256 ≤ bytes.length → recordRanges (readRecord bytes) = true → recordTrusted s.mgmt.counter (readRecord bytes) = true →
        exec (.configStage true bytes) s =
          .next (reply { s with mgmt := { s.mgmt with staged := some (readRecord bytes) } } [0])) ∧
      ((bytes.length < 256 ∨ recordRanges (readRecord bytes) = false ∨
          recordTrusted s.mgmt.counter (readRecord bytes) = false) →
        exec (.configStage true bytes) s = .next (reply s [1])) ∧
      (1200 ≤ watts → watts ≤ 2400 → ∃ t, exec (.powerLimit true watts) s = .next t ∧
        t = { s with cores := t.cores, mgmt := { s.mgmt with powerLimit := watts, response := [0] } }) ∧
      ((watts < 1200 ∨ 2400 < watts) → exec (.powerLimit true watts) s = .next (reply s [1])) ∧
      (s.contexts.get? (256 * die + ctx) = some c → die ≤ 7 → ctx ≤ 255 → c.status ≠ .destroyed →
        s.mgmt.capture.armed = none →
        exec (.captureArm true die ctx) s = .next (reply ((readablePages s (256 * die + ctx) c).foldl
          (fun t x => capture t (256 * die + ctx) x)
          { s with mgmt := { s.mgmt with capture := { armed := some (die, ctx) } } }) [0])) ∧
      (s.mgmt.capture.armed ≠ none → exec (.captureArm true die ctx) s = .next (reply s [1])) ∧
      exec (.captureDisarm true) s = .next (reply { s with mgmt := { s.mgmt with capture :=
        { s.mgmt.capture with armed := none, complete := !s.mgmt.capture.incomplete } } } [0]) ∧
      (count ≤ 4096 → exec (.captureRead true off count) s = .next (reply s
        (0 :: ((asBytes (Config.captureBytes s.mgmt.capture.log)).drop off).take count))) ∧
      (4096 < count → exec (.captureRead true off count) s = .next (reply s [1]))) ∧
    ((115 ≤ temp ∨ ∃ d ∈ s.dies, 115 ≤ d.temp) → ∃ t, exec (.thermalShutdown temp) s = .next t ∧
      (∀ d ∈ t.dies, d.bar.ready = false) ∧ t.mem = s.mem ∧
      (∀ k x, s.contexts.get? k = some x → x.status ≠ .destroyed →
        ∃ z, t.contexts.get? k = some z ∧ z.status = .lost)) ∧
    (temp < 115 → (∀ d ∈ s.dies, d.temp < 115) → exec (.thermalShutdown temp) s = .next s)
end

