-- ==== Sys2Proof/Laws/Commands.lean ====
section
/-!
SUPPORT. What starting a command comes to, and what ending one does.
-/
namespace Sys2Proof.Machine

/-- A command that starts or goes on does what its body makes of it. -/
theorem command_starts {op cmd : Nat} {s : State} {c : Cmd} (h : Starts op cmd s c) (body : Cmd → State → State) :
    command op cmd s body = .next (body (startedCmd op c) (begun op cmd s c)) := by
  rcases h.due with hs | ⟨hf, hm, hh, hc⟩
  · simp [command, h.held, h.opcode, hs, startedCmd, begun]
  · have hn : c.phase ≠ .started := by simp [hf]
    by_cases hu : userOp op = true
    · simp [command, h.held, h.opcode, hn, hm, hh, hu, hc hu, startedCmd, begun]
    · simp [command, h.held, h.opcode, hn, hm, hh, hu, startedCmd, begun]

/-- A command whose body is known to answer a state runs it. -/
theorem commandRuns_of {op cmd : Nat} {i : Instr} {s : State} {body f : Cmd → State → State} {ok : Cmd → State → Prop}
    (hx : exec i s = command op cmd s body) (hb : ∀ c s1, ok c s1 → body c s1 = f c s1) :
    CommandRuns op cmd i s ok f := by
  intro c h ho
  rw [hx, command_starts h, hb _ _ ho]

/-- A command that has not ended ends with the status and result it is given. -/
theorem ends_open {s : State} {n : Nat} {c : Cmd} (code result : Nat) (h : s.cmds.get? n = some c)
    (hp : c.phase = .fetched ∨ c.phase = .started) :
    ends s n code result = { s with cmds := s.cmds.put n { c with phase := .ended code result, io := .queued } } := by
  unfold ends endCmd State.modCmd Tbl.upd
  dsimp only
  rw [h]
  rcases hp with hp | hp <;> simp [hp]

end Sys2Proof.Machine
end

