-- ==== Sys2Proof/Laws/State.lean ====
section
/-!
SUPPORT. What each update leaves of each field: one equation for one field of one update.
-/
namespace Sys2Proof.Machine

/-! ### State.setCore -/

section
variable (s : State) (n : Nat) (x : Core)

@[simp] theorem State.setCore_record : (s.setCore n x).record = s.record := rfl
@[simp] theorem State.setCore_cycle : (s.setCore n x).cycle = s.cycle := rfl
@[simp] theorem State.setCore_nextId : (s.setCore n x).nextId = s.nextId := rfl
@[simp] theorem State.setCore_free : (s.setCore n x).free = s.free := rfl
@[simp] theorem State.setCore_agenda : (s.setCore n x).agenda = s.agenda := rfl
@[simp] theorem State.setCore_cursor : (s.setCore n x).cursor = s.cursor := rfl
@[simp] theorem State.setCore_strands : (s.setCore n x).strands = s.strands := rfl
@[simp] theorem State.setCore_weaves : (s.setCore n x).weaves = s.weaves := rfl
@[simp] theorem State.setCore_contexts : (s.setCore n x).contexts = s.contexts := rfl
@[simp] theorem State.setCore_launches : (s.setCore n x).launches = s.launches := rfl
@[simp] theorem State.setCore_graphs : (s.setCore n x).graphs = s.graphs := rfl
@[simp] theorem State.setCore_queues : (s.setCore n x).queues = s.queues := rfl
@[simp] theorem State.setCore_cmds : (s.setCore n x).cmds = s.cmds := rfl
@[simp] theorem State.setCore_ops : (s.setCore n x).ops = s.ops := rfl
@[simp] theorem State.setCore_accs : (s.setCore n x).accs = s.accs := rfl
@[simp] theorem State.setCore_pageRequests : (s.setCore n x).pageRequests = s.pageRequests := rfl
@[simp] theorem State.setCore_packets : (s.setCore n x).packets = s.packets := rfl
@[simp] theorem State.setCore_links : (s.setCore n x).links = s.links := rfl
@[simp] theorem State.setCore_seqs : (s.setCore n x).seqs = s.seqs := rfl
@[simp] theorem State.setCore_dies : (s.setCore n x).dies = s.dies := rfl
@[simp] theorem State.setCore_cores : (s.setCore n x).cores = s.cores.put n x := rfl
@[simp] theorem State.setCore_clusters : (s.setCore n x).clusters = s.clusters := rfl
@[simp] theorem State.setCore_mem : (s.setCore n x).mem = s.mem := rfl
@[simp] theorem State.setCore_host : (s.setCore n x).host = s.host := rfl
@[simp] theorem State.setCore_mgmt : (s.setCore n x).mgmt = s.mgmt := rfl
@[simp] theorem State.setCore_msix : (s.setCore n x).msix = s.msix := rfl
@[simp] theorem State.setCore_reply : (s.setCore n x).reply = s.reply := rfl

end

/-! ### State.modCore -/

section
variable (s : State) (n : Nat) (f : Core → Core)

@[simp] theorem State.modCore_record : (s.modCore n f).record = s.record := rfl
@[simp] theorem State.modCore_cycle : (s.modCore n f).cycle = s.cycle := rfl
@[simp] theorem State.modCore_nextId : (s.modCore n f).nextId = s.nextId := rfl
@[simp] theorem State.modCore_free : (s.modCore n f).free = s.free := rfl
@[simp] theorem State.modCore_agenda : (s.modCore n f).agenda = s.agenda := rfl
@[simp] theorem State.modCore_cursor : (s.modCore n f).cursor = s.cursor := rfl
@[simp] theorem State.modCore_strands : (s.modCore n f).strands = s.strands := rfl
@[simp] theorem State.modCore_weaves : (s.modCore n f).weaves = s.weaves := rfl
@[simp] theorem State.modCore_contexts : (s.modCore n f).contexts = s.contexts := rfl
@[simp] theorem State.modCore_launches : (s.modCore n f).launches = s.launches := rfl
@[simp] theorem State.modCore_graphs : (s.modCore n f).graphs = s.graphs := rfl
@[simp] theorem State.modCore_queues : (s.modCore n f).queues = s.queues := rfl
@[simp] theorem State.modCore_cmds : (s.modCore n f).cmds = s.cmds := rfl
@[simp] theorem State.modCore_ops : (s.modCore n f).ops = s.ops := rfl
@[simp] theorem State.modCore_accs : (s.modCore n f).accs = s.accs := rfl
@[simp] theorem State.modCore_pageRequests : (s.modCore n f).pageRequests = s.pageRequests := rfl
@[simp] theorem State.modCore_packets : (s.modCore n f).packets = s.packets := rfl
@[simp] theorem State.modCore_links : (s.modCore n f).links = s.links := rfl
@[simp] theorem State.modCore_seqs : (s.modCore n f).seqs = s.seqs := rfl
@[simp] theorem State.modCore_dies : (s.modCore n f).dies = s.dies := rfl
@[simp] theorem State.modCore_cores : (s.modCore n f).cores = s.cores.put n (f (s.core n)) := rfl
@[simp] theorem State.modCore_clusters : (s.modCore n f).clusters = s.clusters := rfl
@[simp] theorem State.modCore_mem : (s.modCore n f).mem = s.mem := rfl
@[simp] theorem State.modCore_host : (s.modCore n f).host = s.host := rfl
@[simp] theorem State.modCore_mgmt : (s.modCore n f).mgmt = s.mgmt := rfl
@[simp] theorem State.modCore_msix : (s.modCore n f).msix = s.msix := rfl
@[simp] theorem State.modCore_reply : (s.modCore n f).reply = s.reply := rfl

end

/-! ### State.setCluster -/

section
variable (s : State) (n : Nat) (x : Cluster)

@[simp] theorem State.setCluster_record : (s.setCluster n x).record = s.record := rfl
@[simp] theorem State.setCluster_cycle : (s.setCluster n x).cycle = s.cycle := rfl
@[simp] theorem State.setCluster_nextId : (s.setCluster n x).nextId = s.nextId := rfl
@[simp] theorem State.setCluster_free : (s.setCluster n x).free = s.free := rfl
@[simp] theorem State.setCluster_agenda : (s.setCluster n x).agenda = s.agenda := rfl
@[simp] theorem State.setCluster_cursor : (s.setCluster n x).cursor = s.cursor := rfl
@[simp] theorem State.setCluster_strands : (s.setCluster n x).strands = s.strands := rfl
@[simp] theorem State.setCluster_weaves : (s.setCluster n x).weaves = s.weaves := rfl
@[simp] theorem State.setCluster_contexts : (s.setCluster n x).contexts = s.contexts := rfl
@[simp] theorem State.setCluster_launches : (s.setCluster n x).launches = s.launches := rfl
@[simp] theorem State.setCluster_graphs : (s.setCluster n x).graphs = s.graphs := rfl
@[simp] theorem State.setCluster_queues : (s.setCluster n x).queues = s.queues := rfl
@[simp] theorem State.setCluster_cmds : (s.setCluster n x).cmds = s.cmds := rfl
@[simp] theorem State.setCluster_ops : (s.setCluster n x).ops = s.ops := rfl
@[simp] theorem State.setCluster_accs : (s.setCluster n x).accs = s.accs := rfl
@[simp] theorem State.setCluster_pageRequests : (s.setCluster n x).pageRequests = s.pageRequests := rfl
@[simp] theorem State.setCluster_packets : (s.setCluster n x).packets = s.packets := rfl
@[simp] theorem State.setCluster_links : (s.setCluster n x).links = s.links := rfl
@[simp] theorem State.setCluster_seqs : (s.setCluster n x).seqs = s.seqs := rfl
@[simp] theorem State.setCluster_dies : (s.setCluster n x).dies = s.dies := rfl
@[simp] theorem State.setCluster_cores : (s.setCluster n x).cores = s.cores := rfl
@[simp] theorem State.setCluster_clusters : (s.setCluster n x).clusters = s.clusters.put n x := rfl
@[simp] theorem State.setCluster_mem : (s.setCluster n x).mem = s.mem := rfl
@[simp] theorem State.setCluster_host : (s.setCluster n x).host = s.host := rfl
@[simp] theorem State.setCluster_mgmt : (s.setCluster n x).mgmt = s.mgmt := rfl
@[simp] theorem State.setCluster_msix : (s.setCluster n x).msix = s.msix := rfl
@[simp] theorem State.setCluster_reply : (s.setCluster n x).reply = s.reply := rfl

end

/-! ### State.setDie -/

section
variable (s : State) (n : Nat) (x : Die)

@[simp] theorem State.setDie_record : (s.setDie n x).record = s.record := rfl
@[simp] theorem State.setDie_cycle : (s.setDie n x).cycle = s.cycle := rfl
@[simp] theorem State.setDie_nextId : (s.setDie n x).nextId = s.nextId := rfl
@[simp] theorem State.setDie_free : (s.setDie n x).free = s.free := rfl
@[simp] theorem State.setDie_agenda : (s.setDie n x).agenda = s.agenda := rfl
@[simp] theorem State.setDie_cursor : (s.setDie n x).cursor = s.cursor := rfl
@[simp] theorem State.setDie_strands : (s.setDie n x).strands = s.strands := rfl
@[simp] theorem State.setDie_weaves : (s.setDie n x).weaves = s.weaves := rfl
@[simp] theorem State.setDie_contexts : (s.setDie n x).contexts = s.contexts := rfl
@[simp] theorem State.setDie_launches : (s.setDie n x).launches = s.launches := rfl
@[simp] theorem State.setDie_graphs : (s.setDie n x).graphs = s.graphs := rfl
@[simp] theorem State.setDie_queues : (s.setDie n x).queues = s.queues := rfl
@[simp] theorem State.setDie_cmds : (s.setDie n x).cmds = s.cmds := rfl
@[simp] theorem State.setDie_ops : (s.setDie n x).ops = s.ops := rfl
@[simp] theorem State.setDie_accs : (s.setDie n x).accs = s.accs := rfl
@[simp] theorem State.setDie_pageRequests : (s.setDie n x).pageRequests = s.pageRequests := rfl
@[simp] theorem State.setDie_packets : (s.setDie n x).packets = s.packets := rfl
@[simp] theorem State.setDie_links : (s.setDie n x).links = s.links := rfl
@[simp] theorem State.setDie_seqs : (s.setDie n x).seqs = s.seqs := rfl
@[simp] theorem State.setDie_dies : (s.setDie n x).dies = s.dies.set n x := rfl
@[simp] theorem State.setDie_cores : (s.setDie n x).cores = s.cores := rfl
@[simp] theorem State.setDie_clusters : (s.setDie n x).clusters = s.clusters := rfl
@[simp] theorem State.setDie_mem : (s.setDie n x).mem = s.mem := rfl
@[simp] theorem State.setDie_host : (s.setDie n x).host = s.host := rfl
@[simp] theorem State.setDie_mgmt : (s.setDie n x).mgmt = s.mgmt := rfl
@[simp] theorem State.setDie_msix : (s.setDie n x).msix = s.msix := rfl
@[simp] theorem State.setDie_reply : (s.setDie n x).reply = s.reply := rfl

end

/-! ### State.modDie -/

section
variable (s : State) (n : Nat) (f : Die → Die)

@[simp] theorem State.modDie_record : (s.modDie n f).record = s.record := rfl
@[simp] theorem State.modDie_cycle : (s.modDie n f).cycle = s.cycle := rfl
@[simp] theorem State.modDie_nextId : (s.modDie n f).nextId = s.nextId := rfl
@[simp] theorem State.modDie_free : (s.modDie n f).free = s.free := rfl
@[simp] theorem State.modDie_agenda : (s.modDie n f).agenda = s.agenda := rfl
@[simp] theorem State.modDie_cursor : (s.modDie n f).cursor = s.cursor := rfl
@[simp] theorem State.modDie_strands : (s.modDie n f).strands = s.strands := rfl
@[simp] theorem State.modDie_weaves : (s.modDie n f).weaves = s.weaves := rfl
@[simp] theorem State.modDie_contexts : (s.modDie n f).contexts = s.contexts := rfl
@[simp] theorem State.modDie_launches : (s.modDie n f).launches = s.launches := rfl
@[simp] theorem State.modDie_graphs : (s.modDie n f).graphs = s.graphs := rfl
@[simp] theorem State.modDie_queues : (s.modDie n f).queues = s.queues := rfl
@[simp] theorem State.modDie_cmds : (s.modDie n f).cmds = s.cmds := rfl
@[simp] theorem State.modDie_ops : (s.modDie n f).ops = s.ops := rfl
@[simp] theorem State.modDie_accs : (s.modDie n f).accs = s.accs := rfl
@[simp] theorem State.modDie_pageRequests : (s.modDie n f).pageRequests = s.pageRequests := rfl
@[simp] theorem State.modDie_packets : (s.modDie n f).packets = s.packets := rfl
@[simp] theorem State.modDie_links : (s.modDie n f).links = s.links := rfl
@[simp] theorem State.modDie_seqs : (s.modDie n f).seqs = s.seqs := rfl
@[simp] theorem State.modDie_dies : (s.modDie n f).dies = s.dies.set n (f (s.die n)) := rfl
@[simp] theorem State.modDie_cores : (s.modDie n f).cores = s.cores := rfl
@[simp] theorem State.modDie_clusters : (s.modDie n f).clusters = s.clusters := rfl
@[simp] theorem State.modDie_mem : (s.modDie n f).mem = s.mem := rfl
@[simp] theorem State.modDie_host : (s.modDie n f).host = s.host := rfl
@[simp] theorem State.modDie_mgmt : (s.modDie n f).mgmt = s.mgmt := rfl
@[simp] theorem State.modDie_msix : (s.modDie n f).msix = s.msix := rfl
@[simp] theorem State.modDie_reply : (s.modDie n f).reply = s.reply := rfl

end

/-! ### State.setPart -/

section
variable (s : State) (n p : Nat) (x : Part)

@[simp] theorem State.setPart_record : (s.setPart n p x).record = s.record := rfl
@[simp] theorem State.setPart_cycle : (s.setPart n p x).cycle = s.cycle := rfl
@[simp] theorem State.setPart_nextId : (s.setPart n p x).nextId = s.nextId := rfl
@[simp] theorem State.setPart_free : (s.setPart n p x).free = s.free := rfl
@[simp] theorem State.setPart_agenda : (s.setPart n p x).agenda = s.agenda := rfl
@[simp] theorem State.setPart_cursor : (s.setPart n p x).cursor = s.cursor := rfl
@[simp] theorem State.setPart_strands : (s.setPart n p x).strands = s.strands := rfl
@[simp] theorem State.setPart_weaves : (s.setPart n p x).weaves = s.weaves := rfl
@[simp] theorem State.setPart_contexts : (s.setPart n p x).contexts = s.contexts := rfl
@[simp] theorem State.setPart_launches : (s.setPart n p x).launches = s.launches := rfl
@[simp] theorem State.setPart_graphs : (s.setPart n p x).graphs = s.graphs := rfl
@[simp] theorem State.setPart_queues : (s.setPart n p x).queues = s.queues := rfl
@[simp] theorem State.setPart_cmds : (s.setPart n p x).cmds = s.cmds := rfl
@[simp] theorem State.setPart_ops : (s.setPart n p x).ops = s.ops := rfl
@[simp] theorem State.setPart_accs : (s.setPart n p x).accs = s.accs := rfl
@[simp] theorem State.setPart_pageRequests : (s.setPart n p x).pageRequests = s.pageRequests := rfl
@[simp] theorem State.setPart_packets : (s.setPart n p x).packets = s.packets := rfl
@[simp] theorem State.setPart_links : (s.setPart n p x).links = s.links := rfl
@[simp] theorem State.setPart_seqs : (s.setPart n p x).seqs = s.seqs := rfl
@[simp] theorem State.setPart_cores : (s.setPart n p x).cores = s.cores := rfl
@[simp] theorem State.setPart_clusters : (s.setPart n p x).clusters = s.clusters := rfl
@[simp] theorem State.setPart_mem : (s.setPart n p x).mem = s.mem := rfl
@[simp] theorem State.setPart_host : (s.setPart n p x).host = s.host := rfl
@[simp] theorem State.setPart_mgmt : (s.setPart n p x).mgmt = s.mgmt := rfl
@[simp] theorem State.setPart_msix : (s.setPart n p x).msix = s.msix := rfl
@[simp] theorem State.setPart_reply : (s.setPart n p x).reply = s.reply := rfl

end

/-! ### State.modPart -/

section
variable (s : State) (n p : Nat) (f : Part → Part)

@[simp] theorem State.modPart_record : (s.modPart n p f).record = s.record := rfl
@[simp] theorem State.modPart_cycle : (s.modPart n p f).cycle = s.cycle := rfl
@[simp] theorem State.modPart_nextId : (s.modPart n p f).nextId = s.nextId := rfl
@[simp] theorem State.modPart_free : (s.modPart n p f).free = s.free := rfl
@[simp] theorem State.modPart_agenda : (s.modPart n p f).agenda = s.agenda := rfl
@[simp] theorem State.modPart_cursor : (s.modPart n p f).cursor = s.cursor := rfl
@[simp] theorem State.modPart_strands : (s.modPart n p f).strands = s.strands := rfl
@[simp] theorem State.modPart_weaves : (s.modPart n p f).weaves = s.weaves := rfl
@[simp] theorem State.modPart_contexts : (s.modPart n p f).contexts = s.contexts := rfl
@[simp] theorem State.modPart_launches : (s.modPart n p f).launches = s.launches := rfl
@[simp] theorem State.modPart_graphs : (s.modPart n p f).graphs = s.graphs := rfl
@[simp] theorem State.modPart_queues : (s.modPart n p f).queues = s.queues := rfl
@[simp] theorem State.modPart_cmds : (s.modPart n p f).cmds = s.cmds := rfl
@[simp] theorem State.modPart_ops : (s.modPart n p f).ops = s.ops := rfl
@[simp] theorem State.modPart_accs : (s.modPart n p f).accs = s.accs := rfl
@[simp] theorem State.modPart_pageRequests : (s.modPart n p f).pageRequests = s.pageRequests := rfl
@[simp] theorem State.modPart_packets : (s.modPart n p f).packets = s.packets := rfl
@[simp] theorem State.modPart_links : (s.modPart n p f).links = s.links := rfl
@[simp] theorem State.modPart_seqs : (s.modPart n p f).seqs = s.seqs := rfl
@[simp] theorem State.modPart_cores : (s.modPart n p f).cores = s.cores := rfl
@[simp] theorem State.modPart_clusters : (s.modPart n p f).clusters = s.clusters := rfl
@[simp] theorem State.modPart_mem : (s.modPart n p f).mem = s.mem := rfl
@[simp] theorem State.modPart_host : (s.modPart n p f).host = s.host := rfl
@[simp] theorem State.modPart_mgmt : (s.modPart n p f).mgmt = s.mgmt := rfl
@[simp] theorem State.modPart_msix : (s.modPart n p f).msix = s.msix := rfl
@[simp] theorem State.modPart_reply : (s.modPart n p f).reply = s.reply := rfl

end

/-! ### State.setStrand -/

section
variable (s : State) (n : Nat) (x : Strand)

@[simp] theorem State.setStrand_record : (s.setStrand n x).record = s.record := rfl
@[simp] theorem State.setStrand_cycle : (s.setStrand n x).cycle = s.cycle := rfl
@[simp] theorem State.setStrand_nextId : (s.setStrand n x).nextId = s.nextId := rfl
@[simp] theorem State.setStrand_free : (s.setStrand n x).free = s.free := rfl
@[simp] theorem State.setStrand_agenda : (s.setStrand n x).agenda = s.agenda := rfl
@[simp] theorem State.setStrand_cursor : (s.setStrand n x).cursor = s.cursor := rfl
@[simp] theorem State.setStrand_strands : (s.setStrand n x).strands = s.strands.put n x := rfl
@[simp] theorem State.setStrand_weaves : (s.setStrand n x).weaves = s.weaves := rfl
@[simp] theorem State.setStrand_contexts : (s.setStrand n x).contexts = s.contexts := rfl
@[simp] theorem State.setStrand_launches : (s.setStrand n x).launches = s.launches := rfl
@[simp] theorem State.setStrand_graphs : (s.setStrand n x).graphs = s.graphs := rfl
@[simp] theorem State.setStrand_queues : (s.setStrand n x).queues = s.queues := rfl
@[simp] theorem State.setStrand_cmds : (s.setStrand n x).cmds = s.cmds := rfl
@[simp] theorem State.setStrand_ops : (s.setStrand n x).ops = s.ops := rfl
@[simp] theorem State.setStrand_accs : (s.setStrand n x).accs = s.accs := rfl
@[simp] theorem State.setStrand_pageRequests : (s.setStrand n x).pageRequests = s.pageRequests := rfl
@[simp] theorem State.setStrand_packets : (s.setStrand n x).packets = s.packets := rfl
@[simp] theorem State.setStrand_links : (s.setStrand n x).links = s.links := rfl
@[simp] theorem State.setStrand_seqs : (s.setStrand n x).seqs = s.seqs := rfl
@[simp] theorem State.setStrand_dies : (s.setStrand n x).dies = s.dies := rfl
@[simp] theorem State.setStrand_cores : (s.setStrand n x).cores = s.cores := rfl
@[simp] theorem State.setStrand_clusters : (s.setStrand n x).clusters = s.clusters := rfl
@[simp] theorem State.setStrand_mem : (s.setStrand n x).mem = s.mem := rfl
@[simp] theorem State.setStrand_host : (s.setStrand n x).host = s.host := rfl
@[simp] theorem State.setStrand_mgmt : (s.setStrand n x).mgmt = s.mgmt := rfl
@[simp] theorem State.setStrand_msix : (s.setStrand n x).msix = s.msix := rfl
@[simp] theorem State.setStrand_reply : (s.setStrand n x).reply = s.reply := rfl

end

/-! ### State.modStrand -/

section
variable (s : State) (n : Nat) (f : Strand → Strand)

@[simp] theorem State.modStrand_record : (s.modStrand n f).record = s.record := rfl
@[simp] theorem State.modStrand_cycle : (s.modStrand n f).cycle = s.cycle := rfl
@[simp] theorem State.modStrand_nextId : (s.modStrand n f).nextId = s.nextId := rfl
@[simp] theorem State.modStrand_free : (s.modStrand n f).free = s.free := rfl
@[simp] theorem State.modStrand_agenda : (s.modStrand n f).agenda = s.agenda := rfl
@[simp] theorem State.modStrand_cursor : (s.modStrand n f).cursor = s.cursor := rfl
@[simp] theorem State.modStrand_strands : (s.modStrand n f).strands = s.strands.upd n f := rfl
@[simp] theorem State.modStrand_weaves : (s.modStrand n f).weaves = s.weaves := rfl
@[simp] theorem State.modStrand_contexts : (s.modStrand n f).contexts = s.contexts := rfl
@[simp] theorem State.modStrand_launches : (s.modStrand n f).launches = s.launches := rfl
@[simp] theorem State.modStrand_graphs : (s.modStrand n f).graphs = s.graphs := rfl
@[simp] theorem State.modStrand_queues : (s.modStrand n f).queues = s.queues := rfl
@[simp] theorem State.modStrand_cmds : (s.modStrand n f).cmds = s.cmds := rfl
@[simp] theorem State.modStrand_ops : (s.modStrand n f).ops = s.ops := rfl
@[simp] theorem State.modStrand_accs : (s.modStrand n f).accs = s.accs := rfl
@[simp] theorem State.modStrand_pageRequests : (s.modStrand n f).pageRequests = s.pageRequests := rfl
@[simp] theorem State.modStrand_packets : (s.modStrand n f).packets = s.packets := rfl
@[simp] theorem State.modStrand_links : (s.modStrand n f).links = s.links := rfl
@[simp] theorem State.modStrand_seqs : (s.modStrand n f).seqs = s.seqs := rfl
@[simp] theorem State.modStrand_dies : (s.modStrand n f).dies = s.dies := rfl
@[simp] theorem State.modStrand_cores : (s.modStrand n f).cores = s.cores := rfl
@[simp] theorem State.modStrand_clusters : (s.modStrand n f).clusters = s.clusters := rfl
@[simp] theorem State.modStrand_mem : (s.modStrand n f).mem = s.mem := rfl
@[simp] theorem State.modStrand_host : (s.modStrand n f).host = s.host := rfl
@[simp] theorem State.modStrand_mgmt : (s.modStrand n f).mgmt = s.mgmt := rfl
@[simp] theorem State.modStrand_msix : (s.modStrand n f).msix = s.msix := rfl
@[simp] theorem State.modStrand_reply : (s.modStrand n f).reply = s.reply := rfl

end

/-! ### State.setWeave -/

section
variable (s : State) (n : Nat) (x : Weave)

@[simp] theorem State.setWeave_record : (s.setWeave n x).record = s.record := rfl
@[simp] theorem State.setWeave_cycle : (s.setWeave n x).cycle = s.cycle := rfl
@[simp] theorem State.setWeave_nextId : (s.setWeave n x).nextId = s.nextId := rfl
@[simp] theorem State.setWeave_free : (s.setWeave n x).free = s.free := rfl
@[simp] theorem State.setWeave_agenda : (s.setWeave n x).agenda = s.agenda := rfl
@[simp] theorem State.setWeave_cursor : (s.setWeave n x).cursor = s.cursor := rfl
@[simp] theorem State.setWeave_strands : (s.setWeave n x).strands = s.strands := rfl
@[simp] theorem State.setWeave_weaves : (s.setWeave n x).weaves = s.weaves.put n x := rfl
@[simp] theorem State.setWeave_contexts : (s.setWeave n x).contexts = s.contexts := rfl
@[simp] theorem State.setWeave_launches : (s.setWeave n x).launches = s.launches := rfl
@[simp] theorem State.setWeave_graphs : (s.setWeave n x).graphs = s.graphs := rfl
@[simp] theorem State.setWeave_queues : (s.setWeave n x).queues = s.queues := rfl
@[simp] theorem State.setWeave_cmds : (s.setWeave n x).cmds = s.cmds := rfl
@[simp] theorem State.setWeave_ops : (s.setWeave n x).ops = s.ops := rfl
@[simp] theorem State.setWeave_accs : (s.setWeave n x).accs = s.accs := rfl
@[simp] theorem State.setWeave_pageRequests : (s.setWeave n x).pageRequests = s.pageRequests := rfl
@[simp] theorem State.setWeave_packets : (s.setWeave n x).packets = s.packets := rfl
@[simp] theorem State.setWeave_links : (s.setWeave n x).links = s.links := rfl
@[simp] theorem State.setWeave_seqs : (s.setWeave n x).seqs = s.seqs := rfl
@[simp] theorem State.setWeave_dies : (s.setWeave n x).dies = s.dies := rfl
@[simp] theorem State.setWeave_cores : (s.setWeave n x).cores = s.cores := rfl
@[simp] theorem State.setWeave_clusters : (s.setWeave n x).clusters = s.clusters := rfl
@[simp] theorem State.setWeave_mem : (s.setWeave n x).mem = s.mem := rfl
@[simp] theorem State.setWeave_host : (s.setWeave n x).host = s.host := rfl
@[simp] theorem State.setWeave_mgmt : (s.setWeave n x).mgmt = s.mgmt := rfl
@[simp] theorem State.setWeave_msix : (s.setWeave n x).msix = s.msix := rfl
@[simp] theorem State.setWeave_reply : (s.setWeave n x).reply = s.reply := rfl

end

/-! ### State.modWeave -/

section
variable (s : State) (n : Nat) (f : Weave → Weave)

@[simp] theorem State.modWeave_record : (s.modWeave n f).record = s.record := rfl
@[simp] theorem State.modWeave_cycle : (s.modWeave n f).cycle = s.cycle := rfl
@[simp] theorem State.modWeave_nextId : (s.modWeave n f).nextId = s.nextId := rfl
@[simp] theorem State.modWeave_free : (s.modWeave n f).free = s.free := rfl
@[simp] theorem State.modWeave_agenda : (s.modWeave n f).agenda = s.agenda := rfl
@[simp] theorem State.modWeave_cursor : (s.modWeave n f).cursor = s.cursor := rfl
@[simp] theorem State.modWeave_strands : (s.modWeave n f).strands = s.strands := rfl
@[simp] theorem State.modWeave_weaves : (s.modWeave n f).weaves = s.weaves.upd n f := rfl
@[simp] theorem State.modWeave_contexts : (s.modWeave n f).contexts = s.contexts := rfl
@[simp] theorem State.modWeave_launches : (s.modWeave n f).launches = s.launches := rfl
@[simp] theorem State.modWeave_graphs : (s.modWeave n f).graphs = s.graphs := rfl
@[simp] theorem State.modWeave_queues : (s.modWeave n f).queues = s.queues := rfl
@[simp] theorem State.modWeave_cmds : (s.modWeave n f).cmds = s.cmds := rfl
@[simp] theorem State.modWeave_ops : (s.modWeave n f).ops = s.ops := rfl
@[simp] theorem State.modWeave_accs : (s.modWeave n f).accs = s.accs := rfl
@[simp] theorem State.modWeave_pageRequests : (s.modWeave n f).pageRequests = s.pageRequests := rfl
@[simp] theorem State.modWeave_packets : (s.modWeave n f).packets = s.packets := rfl
@[simp] theorem State.modWeave_links : (s.modWeave n f).links = s.links := rfl
@[simp] theorem State.modWeave_seqs : (s.modWeave n f).seqs = s.seqs := rfl
@[simp] theorem State.modWeave_dies : (s.modWeave n f).dies = s.dies := rfl
@[simp] theorem State.modWeave_cores : (s.modWeave n f).cores = s.cores := rfl
@[simp] theorem State.modWeave_clusters : (s.modWeave n f).clusters = s.clusters := rfl
@[simp] theorem State.modWeave_mem : (s.modWeave n f).mem = s.mem := rfl
@[simp] theorem State.modWeave_host : (s.modWeave n f).host = s.host := rfl
@[simp] theorem State.modWeave_mgmt : (s.modWeave n f).mgmt = s.mgmt := rfl
@[simp] theorem State.modWeave_msix : (s.modWeave n f).msix = s.msix := rfl
@[simp] theorem State.modWeave_reply : (s.modWeave n f).reply = s.reply := rfl

end

/-! ### State.modCtx -/

section
variable (s : State) (n : Nat) (f : Context → Context)

@[simp] theorem State.modCtx_record : (s.modCtx n f).record = s.record := rfl
@[simp] theorem State.modCtx_cycle : (s.modCtx n f).cycle = s.cycle := rfl
@[simp] theorem State.modCtx_nextId : (s.modCtx n f).nextId = s.nextId := rfl
@[simp] theorem State.modCtx_free : (s.modCtx n f).free = s.free := rfl
@[simp] theorem State.modCtx_agenda : (s.modCtx n f).agenda = s.agenda := rfl
@[simp] theorem State.modCtx_cursor : (s.modCtx n f).cursor = s.cursor := rfl
@[simp] theorem State.modCtx_strands : (s.modCtx n f).strands = s.strands := rfl
@[simp] theorem State.modCtx_weaves : (s.modCtx n f).weaves = s.weaves := rfl
@[simp] theorem State.modCtx_contexts : (s.modCtx n f).contexts = s.contexts.upd n f := rfl
@[simp] theorem State.modCtx_launches : (s.modCtx n f).launches = s.launches := rfl
@[simp] theorem State.modCtx_graphs : (s.modCtx n f).graphs = s.graphs := rfl
@[simp] theorem State.modCtx_queues : (s.modCtx n f).queues = s.queues := rfl
@[simp] theorem State.modCtx_cmds : (s.modCtx n f).cmds = s.cmds := rfl
@[simp] theorem State.modCtx_ops : (s.modCtx n f).ops = s.ops := rfl
@[simp] theorem State.modCtx_accs : (s.modCtx n f).accs = s.accs := rfl
@[simp] theorem State.modCtx_pageRequests : (s.modCtx n f).pageRequests = s.pageRequests := rfl
@[simp] theorem State.modCtx_packets : (s.modCtx n f).packets = s.packets := rfl
@[simp] theorem State.modCtx_links : (s.modCtx n f).links = s.links := rfl
@[simp] theorem State.modCtx_seqs : (s.modCtx n f).seqs = s.seqs := rfl
@[simp] theorem State.modCtx_dies : (s.modCtx n f).dies = s.dies := rfl
@[simp] theorem State.modCtx_cores : (s.modCtx n f).cores = s.cores := rfl
@[simp] theorem State.modCtx_clusters : (s.modCtx n f).clusters = s.clusters := rfl
@[simp] theorem State.modCtx_mem : (s.modCtx n f).mem = s.mem := rfl
@[simp] theorem State.modCtx_host : (s.modCtx n f).host = s.host := rfl
@[simp] theorem State.modCtx_mgmt : (s.modCtx n f).mgmt = s.mgmt := rfl
@[simp] theorem State.modCtx_msix : (s.modCtx n f).msix = s.msix := rfl
@[simp] theorem State.modCtx_reply : (s.modCtx n f).reply = s.reply := rfl

end

/-! ### State.modOp -/

section
variable (s : State) (n : Nat) (f : EngOp → EngOp)

@[simp] theorem State.modOp_record : (s.modOp n f).record = s.record := rfl
@[simp] theorem State.modOp_cycle : (s.modOp n f).cycle = s.cycle := rfl
@[simp] theorem State.modOp_nextId : (s.modOp n f).nextId = s.nextId := rfl
@[simp] theorem State.modOp_free : (s.modOp n f).free = s.free := rfl
@[simp] theorem State.modOp_agenda : (s.modOp n f).agenda = s.agenda := rfl
@[simp] theorem State.modOp_cursor : (s.modOp n f).cursor = s.cursor := rfl
@[simp] theorem State.modOp_strands : (s.modOp n f).strands = s.strands := rfl
@[simp] theorem State.modOp_weaves : (s.modOp n f).weaves = s.weaves := rfl
@[simp] theorem State.modOp_contexts : (s.modOp n f).contexts = s.contexts := rfl
@[simp] theorem State.modOp_launches : (s.modOp n f).launches = s.launches := rfl
@[simp] theorem State.modOp_graphs : (s.modOp n f).graphs = s.graphs := rfl
@[simp] theorem State.modOp_queues : (s.modOp n f).queues = s.queues := rfl
@[simp] theorem State.modOp_cmds : (s.modOp n f).cmds = s.cmds := rfl
@[simp] theorem State.modOp_ops : (s.modOp n f).ops = s.ops.upd n f := rfl
@[simp] theorem State.modOp_accs : (s.modOp n f).accs = s.accs := rfl
@[simp] theorem State.modOp_pageRequests : (s.modOp n f).pageRequests = s.pageRequests := rfl
@[simp] theorem State.modOp_packets : (s.modOp n f).packets = s.packets := rfl
@[simp] theorem State.modOp_links : (s.modOp n f).links = s.links := rfl
@[simp] theorem State.modOp_seqs : (s.modOp n f).seqs = s.seqs := rfl
@[simp] theorem State.modOp_dies : (s.modOp n f).dies = s.dies := rfl
@[simp] theorem State.modOp_cores : (s.modOp n f).cores = s.cores := rfl
@[simp] theorem State.modOp_clusters : (s.modOp n f).clusters = s.clusters := rfl
@[simp] theorem State.modOp_mem : (s.modOp n f).mem = s.mem := rfl
@[simp] theorem State.modOp_host : (s.modOp n f).host = s.host := rfl
@[simp] theorem State.modOp_mgmt : (s.modOp n f).mgmt = s.mgmt := rfl
@[simp] theorem State.modOp_msix : (s.modOp n f).msix = s.msix := rfl
@[simp] theorem State.modOp_reply : (s.modOp n f).reply = s.reply := rfl

end

/-! ### State.setLink -/

section
variable (s : State) (n : Nat) (x : Link)

@[simp] theorem State.setLink_record : (s.setLink n x).record = s.record := rfl
@[simp] theorem State.setLink_cycle : (s.setLink n x).cycle = s.cycle := rfl
@[simp] theorem State.setLink_nextId : (s.setLink n x).nextId = s.nextId := rfl
@[simp] theorem State.setLink_free : (s.setLink n x).free = s.free := rfl
@[simp] theorem State.setLink_agenda : (s.setLink n x).agenda = s.agenda := rfl
@[simp] theorem State.setLink_cursor : (s.setLink n x).cursor = s.cursor := rfl
@[simp] theorem State.setLink_strands : (s.setLink n x).strands = s.strands := rfl
@[simp] theorem State.setLink_weaves : (s.setLink n x).weaves = s.weaves := rfl
@[simp] theorem State.setLink_contexts : (s.setLink n x).contexts = s.contexts := rfl
@[simp] theorem State.setLink_launches : (s.setLink n x).launches = s.launches := rfl
@[simp] theorem State.setLink_graphs : (s.setLink n x).graphs = s.graphs := rfl
@[simp] theorem State.setLink_queues : (s.setLink n x).queues = s.queues := rfl
@[simp] theorem State.setLink_cmds : (s.setLink n x).cmds = s.cmds := rfl
@[simp] theorem State.setLink_ops : (s.setLink n x).ops = s.ops := rfl
@[simp] theorem State.setLink_accs : (s.setLink n x).accs = s.accs := rfl
@[simp] theorem State.setLink_pageRequests : (s.setLink n x).pageRequests = s.pageRequests := rfl
@[simp] theorem State.setLink_packets : (s.setLink n x).packets = s.packets := rfl
@[simp] theorem State.setLink_links : (s.setLink n x).links = s.links.put n x := rfl
@[simp] theorem State.setLink_seqs : (s.setLink n x).seqs = s.seqs := rfl
@[simp] theorem State.setLink_dies : (s.setLink n x).dies = s.dies := rfl
@[simp] theorem State.setLink_cores : (s.setLink n x).cores = s.cores := rfl
@[simp] theorem State.setLink_clusters : (s.setLink n x).clusters = s.clusters := rfl
@[simp] theorem State.setLink_mem : (s.setLink n x).mem = s.mem := rfl
@[simp] theorem State.setLink_host : (s.setLink n x).host = s.host := rfl
@[simp] theorem State.setLink_mgmt : (s.setLink n x).mgmt = s.mgmt := rfl
@[simp] theorem State.setLink_msix : (s.setLink n x).msix = s.msix := rfl
@[simp] theorem State.setLink_reply : (s.setLink n x).reply = s.reply := rfl

end

/-! ### State.modCmd -/

section
variable (s : State) (n : Nat) (f : Cmd → Cmd)

@[simp] theorem State.modCmd_record : (s.modCmd n f).record = s.record := rfl
@[simp] theorem State.modCmd_cycle : (s.modCmd n f).cycle = s.cycle := rfl
@[simp] theorem State.modCmd_nextId : (s.modCmd n f).nextId = s.nextId := rfl
@[simp] theorem State.modCmd_free : (s.modCmd n f).free = s.free := rfl
@[simp] theorem State.modCmd_agenda : (s.modCmd n f).agenda = s.agenda := rfl
@[simp] theorem State.modCmd_cursor : (s.modCmd n f).cursor = s.cursor := rfl
@[simp] theorem State.modCmd_strands : (s.modCmd n f).strands = s.strands := rfl
@[simp] theorem State.modCmd_weaves : (s.modCmd n f).weaves = s.weaves := rfl
@[simp] theorem State.modCmd_contexts : (s.modCmd n f).contexts = s.contexts := rfl
@[simp] theorem State.modCmd_launches : (s.modCmd n f).launches = s.launches := rfl
@[simp] theorem State.modCmd_graphs : (s.modCmd n f).graphs = s.graphs := rfl
@[simp] theorem State.modCmd_queues : (s.modCmd n f).queues = s.queues := rfl
@[simp] theorem State.modCmd_cmds : (s.modCmd n f).cmds = s.cmds.upd n f := rfl
@[simp] theorem State.modCmd_ops : (s.modCmd n f).ops = s.ops := rfl
@[simp] theorem State.modCmd_accs : (s.modCmd n f).accs = s.accs := rfl
@[simp] theorem State.modCmd_pageRequests : (s.modCmd n f).pageRequests = s.pageRequests := rfl
@[simp] theorem State.modCmd_packets : (s.modCmd n f).packets = s.packets := rfl
@[simp] theorem State.modCmd_links : (s.modCmd n f).links = s.links := rfl
@[simp] theorem State.modCmd_seqs : (s.modCmd n f).seqs = s.seqs := rfl
@[simp] theorem State.modCmd_dies : (s.modCmd n f).dies = s.dies := rfl
@[simp] theorem State.modCmd_cores : (s.modCmd n f).cores = s.cores := rfl
@[simp] theorem State.modCmd_clusters : (s.modCmd n f).clusters = s.clusters := rfl
@[simp] theorem State.modCmd_mem : (s.modCmd n f).mem = s.mem := rfl
@[simp] theorem State.modCmd_host : (s.modCmd n f).host = s.host := rfl
@[simp] theorem State.modCmd_mgmt : (s.modCmd n f).mgmt = s.mgmt := rfl
@[simp] theorem State.modCmd_msix : (s.modCmd n f).msix = s.msix := rfl
@[simp] theorem State.modCmd_reply : (s.modCmd n f).reply = s.reply := rfl

end

/-! ### State.modQueue -/

section
variable (s : State) (n : Nat) (f : Queue → Queue)

@[simp] theorem State.modQueue_record : (s.modQueue n f).record = s.record := rfl
@[simp] theorem State.modQueue_cycle : (s.modQueue n f).cycle = s.cycle := rfl
@[simp] theorem State.modQueue_nextId : (s.modQueue n f).nextId = s.nextId := rfl
@[simp] theorem State.modQueue_free : (s.modQueue n f).free = s.free := rfl
@[simp] theorem State.modQueue_agenda : (s.modQueue n f).agenda = s.agenda := rfl
@[simp] theorem State.modQueue_cursor : (s.modQueue n f).cursor = s.cursor := rfl
@[simp] theorem State.modQueue_strands : (s.modQueue n f).strands = s.strands := rfl
@[simp] theorem State.modQueue_weaves : (s.modQueue n f).weaves = s.weaves := rfl
@[simp] theorem State.modQueue_contexts : (s.modQueue n f).contexts = s.contexts := rfl
@[simp] theorem State.modQueue_launches : (s.modQueue n f).launches = s.launches := rfl
@[simp] theorem State.modQueue_graphs : (s.modQueue n f).graphs = s.graphs := rfl
@[simp] theorem State.modQueue_queues : (s.modQueue n f).queues = s.queues.upd n f := rfl
@[simp] theorem State.modQueue_cmds : (s.modQueue n f).cmds = s.cmds := rfl
@[simp] theorem State.modQueue_ops : (s.modQueue n f).ops = s.ops := rfl
@[simp] theorem State.modQueue_accs : (s.modQueue n f).accs = s.accs := rfl
@[simp] theorem State.modQueue_pageRequests : (s.modQueue n f).pageRequests = s.pageRequests := rfl
@[simp] theorem State.modQueue_packets : (s.modQueue n f).packets = s.packets := rfl
@[simp] theorem State.modQueue_links : (s.modQueue n f).links = s.links := rfl
@[simp] theorem State.modQueue_seqs : (s.modQueue n f).seqs = s.seqs := rfl
@[simp] theorem State.modQueue_dies : (s.modQueue n f).dies = s.dies := rfl
@[simp] theorem State.modQueue_cores : (s.modQueue n f).cores = s.cores := rfl
@[simp] theorem State.modQueue_clusters : (s.modQueue n f).clusters = s.clusters := rfl
@[simp] theorem State.modQueue_mem : (s.modQueue n f).mem = s.mem := rfl
@[simp] theorem State.modQueue_host : (s.modQueue n f).host = s.host := rfl
@[simp] theorem State.modQueue_mgmt : (s.modQueue n f).mgmt = s.mgmt := rfl
@[simp] theorem State.modQueue_msix : (s.modQueue n f).msix = s.msix := rfl
@[simp] theorem State.modQueue_reply : (s.modQueue n f).reply = s.reply := rfl

end

/-! ### State.modPkt -/

section
variable (s : State) (n : Nat) (f : Packet → Packet)

@[simp] theorem State.modPkt_record : (s.modPkt n f).record = s.record := rfl
@[simp] theorem State.modPkt_cycle : (s.modPkt n f).cycle = s.cycle := rfl
@[simp] theorem State.modPkt_nextId : (s.modPkt n f).nextId = s.nextId := rfl
@[simp] theorem State.modPkt_free : (s.modPkt n f).free = s.free := rfl
@[simp] theorem State.modPkt_agenda : (s.modPkt n f).agenda = s.agenda := rfl
@[simp] theorem State.modPkt_cursor : (s.modPkt n f).cursor = s.cursor := rfl
@[simp] theorem State.modPkt_strands : (s.modPkt n f).strands = s.strands := rfl
@[simp] theorem State.modPkt_weaves : (s.modPkt n f).weaves = s.weaves := rfl
@[simp] theorem State.modPkt_contexts : (s.modPkt n f).contexts = s.contexts := rfl
@[simp] theorem State.modPkt_launches : (s.modPkt n f).launches = s.launches := rfl
@[simp] theorem State.modPkt_graphs : (s.modPkt n f).graphs = s.graphs := rfl
@[simp] theorem State.modPkt_queues : (s.modPkt n f).queues = s.queues := rfl
@[simp] theorem State.modPkt_cmds : (s.modPkt n f).cmds = s.cmds := rfl
@[simp] theorem State.modPkt_ops : (s.modPkt n f).ops = s.ops := rfl
@[simp] theorem State.modPkt_accs : (s.modPkt n f).accs = s.accs := rfl
@[simp] theorem State.modPkt_pageRequests : (s.modPkt n f).pageRequests = s.pageRequests := rfl
@[simp] theorem State.modPkt_packets : (s.modPkt n f).packets = s.packets.upd n f := rfl
@[simp] theorem State.modPkt_links : (s.modPkt n f).links = s.links := rfl
@[simp] theorem State.modPkt_seqs : (s.modPkt n f).seqs = s.seqs := rfl
@[simp] theorem State.modPkt_dies : (s.modPkt n f).dies = s.dies := rfl
@[simp] theorem State.modPkt_cores : (s.modPkt n f).cores = s.cores := rfl
@[simp] theorem State.modPkt_clusters : (s.modPkt n f).clusters = s.clusters := rfl
@[simp] theorem State.modPkt_mem : (s.modPkt n f).mem = s.mem := rfl
@[simp] theorem State.modPkt_host : (s.modPkt n f).host = s.host := rfl
@[simp] theorem State.modPkt_mgmt : (s.modPkt n f).mgmt = s.mgmt := rfl
@[simp] theorem State.modPkt_msix : (s.modPkt n f).msix = s.msix := rfl
@[simp] theorem State.modPkt_reply : (s.modPkt n f).reply = s.reply := rfl

end

/-! ### Strand.setThread -/

section
variable (t : Strand) (n : Nat) (x : Thread)

@[simp] theorem Strand.setThread_weave : (t.setThread n x).weave = t.weave := rfl
@[simp] theorem Strand.setThread_number : (t.setThread n x).number = t.number := rfl
@[simp] theorem Strand.setThread_core : (t.setThread n x).core = t.core := rfl
@[simp] theorem Strand.setThread_handler : (t.setThread n x).handler = t.handler := rfl
@[simp] theorem Strand.setThread_granules : (t.setThread n x).granules = t.granules := rfl
@[simp] theorem Strand.setThread_tiles : (t.setThread n x).tiles = t.tiles := rfl
@[simp] theorem Strand.setThread_threads : (t.setThread n x).threads = t.threads.set n x := rfl
@[simp] theorem Strand.setThread_s : (t.setThread n x).s = t.s := rfl
@[simp] theorem Strand.setThread_a : (t.setThread n x).a = t.a := rfl
@[simp] theorem Strand.setThread_flags : (t.setThread n x).flags = t.flags := rfl
@[simp] theorem Strand.setThread_cause : (t.setThread n x).cause = t.cause := rfl
@[simp] theorem Strand.setThread_trapLanes : (t.setThread n x).trapLanes = t.trapLanes := rfl
@[simp] theorem Strand.setThread_pending : (t.setThread n x).pending = t.pending := rfl
@[simp] theorem Strand.setThread_heldTrap : (t.setThread n x).heldTrap = t.heldTrap := rfl
@[simp] theorem Strand.setThread_faultAddr : (t.setThread n x).faultAddr = t.faultAddr := rfl
@[simp] theorem Strand.setThread_mask : (t.setThread n x).mask = t.mask := rfl
@[simp] theorem Strand.setThread_handlerPc : (t.setThread n x).handlerPc = t.handlerPc := rfl
@[simp] theorem Strand.setThread_comparator : (t.setThread n x).comparator = t.comparator := rfl
@[simp] theorem Strand.setThread_starve : (t.setThread n x).starve = t.starve := rfl
@[simp] theorem Strand.setThread_forced : (t.setThread n x).forced = t.forced := rfl
@[simp] theorem Strand.setThread_yielded : (t.setThread n x).yielded = t.yielded := rfl
@[simp] theorem Strand.setThread_stall : (t.setThread n x).stall = t.stall := rfl
@[simp] theorem Strand.setThread_pick : (t.setThread n x).pick = t.pick := rfl
@[simp] theorem Strand.setThread_bad : (t.setThread n x).bad = t.bad := rfl
@[simp] theorem Strand.setThread_fault : (t.setThread n x).fault = t.fault := rfl
@[simp] theorem Strand.setThread_replay : (t.setThread n x).replay = t.replay := rfl

end

/-! ### Strand.modThreads -/

section
variable (t : Strand) (ls : List Nat) (f : Nat → Thread → Thread)

@[simp] theorem Strand.modThreads_weave : (t.modThreads ls f).weave = t.weave := rfl
@[simp] theorem Strand.modThreads_number : (t.modThreads ls f).number = t.number := rfl
@[simp] theorem Strand.modThreads_core : (t.modThreads ls f).core = t.core := rfl
@[simp] theorem Strand.modThreads_handler : (t.modThreads ls f).handler = t.handler := rfl
@[simp] theorem Strand.modThreads_granules : (t.modThreads ls f).granules = t.granules := rfl
@[simp] theorem Strand.modThreads_tiles : (t.modThreads ls f).tiles = t.tiles := rfl
@[simp] theorem Strand.modThreads_s : (t.modThreads ls f).s = t.s := rfl
@[simp] theorem Strand.modThreads_a : (t.modThreads ls f).a = t.a := rfl
@[simp] theorem Strand.modThreads_flags : (t.modThreads ls f).flags = t.flags := rfl
@[simp] theorem Strand.modThreads_cause : (t.modThreads ls f).cause = t.cause := rfl
@[simp] theorem Strand.modThreads_trapLanes : (t.modThreads ls f).trapLanes = t.trapLanes := rfl
@[simp] theorem Strand.modThreads_pending : (t.modThreads ls f).pending = t.pending := rfl
@[simp] theorem Strand.modThreads_heldTrap : (t.modThreads ls f).heldTrap = t.heldTrap := rfl
@[simp] theorem Strand.modThreads_faultAddr : (t.modThreads ls f).faultAddr = t.faultAddr := rfl
@[simp] theorem Strand.modThreads_mask : (t.modThreads ls f).mask = t.mask := rfl
@[simp] theorem Strand.modThreads_handlerPc : (t.modThreads ls f).handlerPc = t.handlerPc := rfl
@[simp] theorem Strand.modThreads_comparator : (t.modThreads ls f).comparator = t.comparator := rfl
@[simp] theorem Strand.modThreads_starve : (t.modThreads ls f).starve = t.starve := rfl
@[simp] theorem Strand.modThreads_forced : (t.modThreads ls f).forced = t.forced := rfl
@[simp] theorem Strand.modThreads_yielded : (t.modThreads ls f).yielded = t.yielded := rfl
@[simp] theorem Strand.modThreads_stall : (t.modThreads ls f).stall = t.stall := rfl
@[simp] theorem Strand.modThreads_pick : (t.modThreads ls f).pick = t.pick := rfl
@[simp] theorem Strand.modThreads_bad : (t.modThreads ls f).bad = t.bad := rfl
@[simp] theorem Strand.modThreads_fault : (t.modThreads ls f).fault = t.fault := rfl
@[simp] theorem Strand.modThreads_replay : (t.modThreads ls f).replay = t.replay := rfl

end

/-! ### Strand.sput -/

section
variable (t : Strand) (n : Nat) (x : Int)

@[simp] theorem Strand.sput_weave : (t.sput n x).weave = t.weave := rfl
@[simp] theorem Strand.sput_number : (t.sput n x).number = t.number := rfl
@[simp] theorem Strand.sput_core : (t.sput n x).core = t.core := rfl
@[simp] theorem Strand.sput_handler : (t.sput n x).handler = t.handler := rfl
@[simp] theorem Strand.sput_granules : (t.sput n x).granules = t.granules := rfl
@[simp] theorem Strand.sput_tiles : (t.sput n x).tiles = t.tiles := rfl
@[simp] theorem Strand.sput_threads : (t.sput n x).threads = t.threads := rfl
@[simp] theorem Strand.sput_s : (t.sput n x).s = t.s.put n x := rfl
@[simp] theorem Strand.sput_a : (t.sput n x).a = t.a := rfl
@[simp] theorem Strand.sput_flags : (t.sput n x).flags = t.flags := rfl
@[simp] theorem Strand.sput_cause : (t.sput n x).cause = t.cause := rfl
@[simp] theorem Strand.sput_trapLanes : (t.sput n x).trapLanes = t.trapLanes := rfl
@[simp] theorem Strand.sput_pending : (t.sput n x).pending = t.pending := rfl
@[simp] theorem Strand.sput_heldTrap : (t.sput n x).heldTrap = t.heldTrap := rfl
@[simp] theorem Strand.sput_faultAddr : (t.sput n x).faultAddr = t.faultAddr := rfl
@[simp] theorem Strand.sput_mask : (t.sput n x).mask = t.mask := rfl
@[simp] theorem Strand.sput_handlerPc : (t.sput n x).handlerPc = t.handlerPc := rfl
@[simp] theorem Strand.sput_comparator : (t.sput n x).comparator = t.comparator := rfl
@[simp] theorem Strand.sput_starve : (t.sput n x).starve = t.starve := rfl
@[simp] theorem Strand.sput_forced : (t.sput n x).forced = t.forced := rfl
@[simp] theorem Strand.sput_yielded : (t.sput n x).yielded = t.yielded := rfl
@[simp] theorem Strand.sput_stall : (t.sput n x).stall = t.stall := rfl
@[simp] theorem Strand.sput_pick : (t.sput n x).pick = t.pick := rfl
@[simp] theorem Strand.sput_bad : (t.sput n x).bad = t.bad := rfl
@[simp] theorem Strand.sput_fault : (t.sput n x).fault = t.fault := rfl
@[simp] theorem Strand.sput_replay : (t.sput n x).replay = t.replay := rfl

end

/-! ### Strand.sputPair -/

section
variable (t : Strand) (n : Nat) (x : Int)

@[simp] theorem Strand.sputPair_weave : (t.sputPair n x).weave = t.weave := rfl
@[simp] theorem Strand.sputPair_number : (t.sputPair n x).number = t.number := rfl
@[simp] theorem Strand.sputPair_core : (t.sputPair n x).core = t.core := rfl
@[simp] theorem Strand.sputPair_handler : (t.sputPair n x).handler = t.handler := rfl
@[simp] theorem Strand.sputPair_granules : (t.sputPair n x).granules = t.granules := rfl
@[simp] theorem Strand.sputPair_tiles : (t.sputPair n x).tiles = t.tiles := rfl
@[simp] theorem Strand.sputPair_threads : (t.sputPair n x).threads = t.threads := rfl
@[simp] theorem Strand.sputPair_s : (t.sputPair n x).s = (t.s.put n (loWord x)).put (n + 1) (hiWord x) := rfl
@[simp] theorem Strand.sputPair_a : (t.sputPair n x).a = t.a := rfl
@[simp] theorem Strand.sputPair_flags : (t.sputPair n x).flags = t.flags := rfl
@[simp] theorem Strand.sputPair_cause : (t.sputPair n x).cause = t.cause := rfl
@[simp] theorem Strand.sputPair_trapLanes : (t.sputPair n x).trapLanes = t.trapLanes := rfl
@[simp] theorem Strand.sputPair_pending : (t.sputPair n x).pending = t.pending := rfl
@[simp] theorem Strand.sputPair_heldTrap : (t.sputPair n x).heldTrap = t.heldTrap := rfl
@[simp] theorem Strand.sputPair_faultAddr : (t.sputPair n x).faultAddr = t.faultAddr := rfl
@[simp] theorem Strand.sputPair_mask : (t.sputPair n x).mask = t.mask := rfl
@[simp] theorem Strand.sputPair_handlerPc : (t.sputPair n x).handlerPc = t.handlerPc := rfl
@[simp] theorem Strand.sputPair_comparator : (t.sputPair n x).comparator = t.comparator := rfl
@[simp] theorem Strand.sputPair_starve : (t.sputPair n x).starve = t.starve := rfl
@[simp] theorem Strand.sputPair_forced : (t.sputPair n x).forced = t.forced := rfl
@[simp] theorem Strand.sputPair_yielded : (t.sputPair n x).yielded = t.yielded := rfl
@[simp] theorem Strand.sputPair_stall : (t.sputPair n x).stall = t.stall := rfl
@[simp] theorem Strand.sputPair_pick : (t.sputPair n x).pick = t.pick := rfl
@[simp] theorem Strand.sputPair_bad : (t.sputPair n x).bad = t.bad := rfl
@[simp] theorem Strand.sputPair_fault : (t.sputPair n x).fault = t.fault := rfl
@[simp] theorem Strand.sputPair_replay : (t.sputPair n x).replay = t.replay := rfl

end

/-! ### Strand.aput -/

section
variable (t : Strand) (n : Nat) (x : Int)

@[simp] theorem Strand.aput_weave : (t.aput n x).weave = t.weave := rfl
@[simp] theorem Strand.aput_number : (t.aput n x).number = t.number := rfl
@[simp] theorem Strand.aput_core : (t.aput n x).core = t.core := rfl
@[simp] theorem Strand.aput_handler : (t.aput n x).handler = t.handler := rfl
@[simp] theorem Strand.aput_granules : (t.aput n x).granules = t.granules := rfl
@[simp] theorem Strand.aput_tiles : (t.aput n x).tiles = t.tiles := rfl
@[simp] theorem Strand.aput_threads : (t.aput n x).threads = t.threads := rfl
@[simp] theorem Strand.aput_s : (t.aput n x).s = t.s := rfl
@[simp] theorem Strand.aput_a : (t.aput n x).a = t.a.put n x := rfl
@[simp] theorem Strand.aput_flags : (t.aput n x).flags = t.flags := rfl
@[simp] theorem Strand.aput_cause : (t.aput n x).cause = t.cause := rfl
@[simp] theorem Strand.aput_trapLanes : (t.aput n x).trapLanes = t.trapLanes := rfl
@[simp] theorem Strand.aput_pending : (t.aput n x).pending = t.pending := rfl
@[simp] theorem Strand.aput_heldTrap : (t.aput n x).heldTrap = t.heldTrap := rfl
@[simp] theorem Strand.aput_faultAddr : (t.aput n x).faultAddr = t.faultAddr := rfl
@[simp] theorem Strand.aput_mask : (t.aput n x).mask = t.mask := rfl
@[simp] theorem Strand.aput_handlerPc : (t.aput n x).handlerPc = t.handlerPc := rfl
@[simp] theorem Strand.aput_comparator : (t.aput n x).comparator = t.comparator := rfl
@[simp] theorem Strand.aput_starve : (t.aput n x).starve = t.starve := rfl
@[simp] theorem Strand.aput_forced : (t.aput n x).forced = t.forced := rfl
@[simp] theorem Strand.aput_yielded : (t.aput n x).yielded = t.yielded := rfl
@[simp] theorem Strand.aput_stall : (t.aput n x).stall = t.stall := rfl
@[simp] theorem Strand.aput_pick : (t.aput n x).pick = t.pick := rfl
@[simp] theorem Strand.aput_bad : (t.aput n x).bad = t.bad := rfl
@[simp] theorem Strand.aput_fault : (t.aput n x).fault = t.fault := rfl
@[simp] theorem Strand.aput_replay : (t.aput n x).replay = t.replay := rfl

end

/-! ### Thread.vput -/

section
variable (t : Thread) (n : Nat) (x : Int)

@[simp] theorem Thread.vput_status : (t.vput n x).status = t.status := rfl
@[simp] theorem Thread.vput_pc : (t.vput n x).pc = t.pc := rfl
@[simp] theorem Thread.vput_pos : (t.vput n x).pos = t.pos := rfl
@[simp] theorem Thread.vput_savedPc : (t.vput n x).savedPc = t.savedPc := rfl
@[simp] theorem Thread.vput_savedPos : (t.vput n x).savedPos = t.savedPos := rfl
@[simp] theorem Thread.vput_age : (t.vput n x).age = t.age := rfl
@[simp] theorem Thread.vput_v : (t.vput n x).v = t.v.put n x := rfl
@[simp] theorem Thread.vput_c : (t.vput n x).c = t.c := rfl
@[simp] theorem Thread.vput_marks : (t.vput n x).marks = t.marks := rfl
@[simp] theorem Thread.vput_inHandler : (t.vput n x).inHandler = t.inHandler := rfl
@[simp] theorem Thread.vput_awaits : (t.vput n x).awaits = t.awaits := rfl
@[simp] theorem Thread.vput_ret : (t.vput n x).ret = t.ret := rfl
@[simp] theorem Thread.vput_jump : (t.vput n x).jump = t.jump := rfl

end

/-! ### Thread.vputPair -/

section
variable (t : Thread) (n : Nat) (x : Int)

@[simp] theorem Thread.vputPair_status : (t.vputPair n x).status = t.status := rfl
@[simp] theorem Thread.vputPair_pc : (t.vputPair n x).pc = t.pc := rfl
@[simp] theorem Thread.vputPair_pos : (t.vputPair n x).pos = t.pos := rfl
@[simp] theorem Thread.vputPair_savedPc : (t.vputPair n x).savedPc = t.savedPc := rfl
@[simp] theorem Thread.vputPair_savedPos : (t.vputPair n x).savedPos = t.savedPos := rfl
@[simp] theorem Thread.vputPair_age : (t.vputPair n x).age = t.age := rfl
@[simp] theorem Thread.vputPair_v : (t.vputPair n x).v = (t.v.put n (loWord x)).put (n + 1) (hiWord x) := rfl
@[simp] theorem Thread.vputPair_c : (t.vputPair n x).c = t.c := rfl
@[simp] theorem Thread.vputPair_marks : (t.vputPair n x).marks = t.marks := rfl
@[simp] theorem Thread.vputPair_inHandler : (t.vputPair n x).inHandler = t.inHandler := rfl
@[simp] theorem Thread.vputPair_awaits : (t.vputPair n x).awaits = t.awaits := rfl
@[simp] theorem Thread.vputPair_ret : (t.vputPair n x).ret = t.ret := rfl
@[simp] theorem Thread.vputPair_jump : (t.vputPair n x).jump = t.jump := rfl

end

/-! ### Thread.setCond -/

section
variable (t : Thread) (n : Nat) (x : Cond)

@[simp] theorem Thread.setCond_status : (t.setCond n x).status = t.status := rfl
@[simp] theorem Thread.setCond_pc : (t.setCond n x).pc = t.pc := rfl
@[simp] theorem Thread.setCond_pos : (t.setCond n x).pos = t.pos := rfl
@[simp] theorem Thread.setCond_savedPc : (t.setCond n x).savedPc = t.savedPc := rfl
@[simp] theorem Thread.setCond_savedPos : (t.setCond n x).savedPos = t.savedPos := rfl
@[simp] theorem Thread.setCond_age : (t.setCond n x).age = t.age := rfl
@[simp] theorem Thread.setCond_v : (t.setCond n x).v = t.v := rfl
@[simp] theorem Thread.setCond_c : (t.setCond n x).c = t.c.set n x := rfl
@[simp] theorem Thread.setCond_marks : (t.setCond n x).marks = t.marks := rfl
@[simp] theorem Thread.setCond_inHandler : (t.setCond n x).inHandler = t.inHandler := rfl
@[simp] theorem Thread.setCond_awaits : (t.setCond n x).awaits = t.awaits := rfl
@[simp] theorem Thread.setCond_ret : (t.setCond n x).ret = t.ret := rfl
@[simp] theorem Thread.setCond_jump : (t.setCond n x).jump = t.jump := rfl

end

end Sys2Proof.Machine
end

