-- ==== Sys2Proof/Laws/Issue.lean ====
section
/-!
SUPPORT. Every instruction word goes through the one rule by which words issue.
-/
namespace Sys2Proof.Machine

/-- Every word of the table is issued by the one shared rule, with a body of its own. -/
theorem exec_issues (i : Instr) (s : State) (h : isWord i = true) : ∃ b, exec i s = issueDid i s b := by
  cases i with
  | brI => exact ⟨_, by simp only [exec, execBrI, branchWord, strandWord, issue]; rfl⟩
  | brL => exact ⟨_, by simp only [exec, execBrL, branchWord, strandWord, issue]; rfl⟩
  | callI => exact ⟨_, by simp only [exec, execCallI, callWord, strandWord, issue]; rfl⟩
  | callL => exact ⟨_, by simp only [exec, execCallL, callWord, strandWord, issue]; rfl⟩
  | brx => exact ⟨_, by simp only [exec, execBrx, registerJump, strandWord, issue]; rfl⟩
  | ret => exact ⟨_, by simp only [exec, execRet, registerJump, strandWord, issue]; rfl⟩
  | exit => exact ⟨_, by simp only [exec, execExit, issue]; rfl⟩
  | nop => exact ⟨_, by simp only [exec, execNop, issue]; rfl⟩
  | yield => exact ⟨_, by simp only [exec, execYield, strandWord, issue]; rfl⟩
  | sleep => exact ⟨_, by simp only [exec, execSleep, issue]; rfl⟩
  | addV => exact ⟨_, by simp only [exec, execAddV, fitWord, laneWord, strandWord, issue]; rfl⟩
  | addI => exact ⟨_, by simp only [exec, execAddI, fitWord, laneWord, strandWord, issue]; rfl⟩
  | addc => exact ⟨_, by simp only [exec, execAddc, fitWord, laneWord, strandWord, issue]; rfl⟩
  | sub => exact ⟨_, by simp only [exec, execSub, fitWord, laneWord, strandWord, issue]; rfl⟩
  | subc => exact ⟨_, by simp only [exec, execSubc, fitWord, laneWord, strandWord, issue]; rfl⟩
  | neg => exact ⟨_, by simp only [exec, execNeg, fitWord, laneWord, strandWord, issue]; rfl⟩
  | abs => exact ⟨_, by simp only [exec, execAbs, fitWord, laneWord, strandWord, issue]; rfl⟩
  | minV => exact ⟨_, by simp only [exec, execMinV, plainWord, laneWord, strandWord, issue]; rfl⟩
  | minI => exact ⟨_, by simp only [exec, execMinI, plainWord, laneWord, strandWord, issue]; rfl⟩
  | maxV => exact ⟨_, by simp only [exec, execMaxV, plainWord, laneWord, strandWord, issue]; rfl⟩
  | maxI => exact ⟨_, by simp only [exec, execMaxI, plainWord, laneWord, strandWord, issue]; rfl⟩
  | clamp => exact ⟨_, by simp only [exec, execClamp, fittedWord, laneWord, strandWord, issue]; rfl⟩
  | mulV => exact ⟨_, by simp only [exec, execMulV, fitWord, laneWord, strandWord, issue]; rfl⟩
  | mulI => exact ⟨_, by simp only [exec, execMulI, fitWord, laneWord, strandWord, issue]; rfl⟩
  | mulh => exact ⟨_, by simp only [exec, execMulh, plainWord, laneWord, strandWord, issue]; rfl⟩
  | mad => exact ⟨_, by simp only [exec, execMad, fitWord, laneWord, strandWord, issue]; rfl⟩
  | div => exact ⟨_, by simp only [exec, execDiv, divWord, laneWord, strandWord, issue]; rfl⟩
  | mod => exact ⟨_, by simp only [exec, execMod, divWord, laneWord, strandWord, issue]; rfl⟩
  | cmpV => exact ⟨_, by simp only [exec, execCmpV, laneWord, strandWord, issue]; rfl⟩
  | cmpI => exact ⟨_, by simp only [exec, execCmpI, laneWord, strandWord, issue]; rfl⟩
  | sgn => exact ⟨_, by simp only [exec, execSgn, plainWord, laneWord, strandWord, issue]; rfl⟩
  | sel => exact ⟨_, by simp only [exec, execSel, plainWord, laneWord, strandWord, issue]; rfl⟩
  | sat => exact ⟨_, by simp only [exec, execSat, fittedWord, laneWord, strandWord, issue]; rfl⟩
  | mov => exact ⟨_, by simp only [exec, execMov, plainWord, laneWord, strandWord, issue]; rfl⟩
  | movi => exact ⟨_, by simp only [exec, execMovi, plainWord, laneWord, strandWord, issue]; rfl⟩
  | ldi => exact ⟨_, by simp only [exec, execLdi, laneWord, strandWord, issue]; rfl⟩
  | shlV => exact ⟨_, by simp only [exec, execShlV, fitWord, laneWord, strandWord, issue]; rfl⟩
  | shlI => exact ⟨_, by simp only [exec, execShlI, fitWord, laneWord, strandWord, issue]; rfl⟩
  | shrV => exact ⟨_, by simp only [exec, execShrV, plainWord, laneWord, strandWord, issue]; rfl⟩
  | shrI => exact ⟨_, by simp only [exec, execShrI, plainWord, laneWord, strandWord, issue]; rfl⟩
  | rolV => exact ⟨_, by simp only [exec, execRolV, plainWord, laneWord, strandWord, issue]; rfl⟩
  | rolI => exact ⟨_, by simp only [exec, execRolI, plainWord, laneWord, strandWord, issue]; rfl⟩
  | rorV => exact ⟨_, by simp only [exec, execRorV, plainWord, laneWord, strandWord, issue]; rfl⟩
  | rorI => exact ⟨_, by simp only [exec, execRorI, plainWord, laneWord, strandWord, issue]; rfl⟩
  | tand => exact ⟨_, by simp only [exec, execTand, tritWord, plainWord, laneWord, strandWord, issue]; rfl⟩
  | tor => exact ⟨_, by simp only [exec, execTor, tritWord, plainWord, laneWord, strandWord, issue]; rfl⟩
  | tmul => exact ⟨_, by simp only [exec, execTmul, tritWord, plainWord, laneWord, strandWord, issue]; rfl⟩
  | tcon => exact ⟨_, by simp only [exec, execTcon, tritWord, plainWord, laneWord, strandWord, issue]; rfl⟩
  | tlut => exact ⟨_, by simp only [exec, execTlut, tritWord, plainWord, laneWord, strandWord, issue]; rfl⟩
  | tcnt => exact ⟨_, by simp only [exec, execTcnt, plainWord, laneWord, strandWord, issue]; rfl⟩
  | tlz => exact ⟨_, by simp only [exec, execTlz, plainWord, laneWord, strandWord, issue]; rfl⟩
  | text => exact ⟨_, by simp only [exec, execText, plainWord, laneWord, strandWord, issue]; rfl⟩
  | tins => exact ⟨_, by simp only [exec, execTins, plainWord, laneWord, strandWord, issue]; rfl⟩
  | pack => exact ⟨_, by simp only [exec, execPack, laneWord, strandWord, issue]; rfl⟩
  | unpack => exact ⟨_, by simp only [exec, execUnpack, laneWord, strandWord, issue]; rfl⟩
  | perm => exact ⟨_, by simp only [exec, execPerm, laneWord, strandWord, issue]; rfl⟩
  | shfl => exact ⟨_, by simp only [exec, execShfl, laneWord, strandWord, issue]; rfl⟩
  | lred => exact ⟨_, by simp only [exec, execLred, reduceWord, strandWord, issue]; rfl⟩
  | lscan => exact ⟨_, by simp only [exec, execLscan, reduceWord, strandWord, issue]; rfl⟩
  | fadd => exact ⟨_, by simp only [exec, execFadd, floatWord, laneWord, strandWord, issue]; rfl⟩
  | fsub => exact ⟨_, by simp only [exec, execFsub, floatWord, laneWord, strandWord, issue]; rfl⟩
  | fmul => exact ⟨_, by simp only [exec, execFmul, floatWord, laneWord, strandWord, issue]; rfl⟩
  | fma => exact ⟨_, by simp only [exec, execFma, floatWord, laneWord, strandWord, issue]; rfl⟩
  | fnma => exact ⟨_, by simp only [exec, execFnma, floatWord, laneWord, strandWord, issue]; rfl⟩
  | fmin => exact ⟨_, by simp only [exec, execFmin, floatPlain, laneWord, strandWord, issue]; rfl⟩
  | fmax => exact ⟨_, by simp only [exec, execFmax, floatPlain, laneWord, strandWord, issue]; rfl⟩
  | fcmp => exact ⟨_, by simp only [exec, execFcmp, laneWord, strandWord, issue]; rfl⟩
  | fabs => exact ⟨_, by simp only [exec, execFabs, floatWord, laneWord, strandWord, issue]; rfl⟩
  | fdiv => exact ⟨_, by simp only [exec, execFdiv, floatWord, laneWord, strandWord, issue]; rfl⟩
  | fsqrt => exact ⟨_, by simp only [exec, execFsqrt, floatWord, laneWord, strandWord, issue]; rfl⟩
  | frcp => exact ⟨_, by simp only [exec, execFrcp, floatWord, laneWord, strandWord, issue]; rfl⟩
  | frsq => exact ⟨_, by simp only [exec, execFrsq, floatWord, laneWord, strandWord, issue]; rfl⟩
  | fex3 => exact ⟨_, by simp only [exec, execFex3, floatWord, laneWord, strandWord, issue]; rfl⟩
  | flg3 => exact ⟨_, by simp only [exec, execFlg3, floatWord, laneWord, strandWord, issue]; rfl⟩
  | fsclV => exact ⟨_, by simp only [exec, execFsclV, floatWord, laneWord, strandWord, issue]; rfl⟩
  | fsclI => exact ⟨_, by simp only [exec, execFsclI, floatWord, laneWord, strandWord, issue]; rfl⟩
  | fcls => exact ⟨_, by simp only [exec, execFcls, laneWord, strandWord, issue]; rfl⟩
  | ffix => exact ⟨_, by simp only [exec, execFfix, laneWord, strandWord, issue]; rfl⟩
  | fflt => exact ⟨_, by simp only [exec, execFflt, floatWord, laneWord, strandWord, issue]; rfl⟩
  | fcvt => exact ⟨_, by simp only [exec, execFcvt, laneWord, strandWord, issue]; rfl⟩
  | frnd => exact ⟨_, by simp only [exec, execFrnd, floatWord, laneWord, strandWord, issue]; rfl⟩
  | dot => exact ⟨_, by simp only [exec, execDot, laneWord, strandWord, issue]; rfl⟩
  | dotf => exact ⟨_, by simp only [exec, execDotf, laneWord, strandWord, issue]; rfl⟩
  | cmul => exact ⟨_, by simp only [exec, execCmul, laneWord, strandWord, issue]; rfl⟩
  | sadd => exact ⟨_, by simp only [exec, execSadd, uniWord, strandWord, issue]; rfl⟩
  | ssub => exact ⟨_, by simp only [exec, execSsub, uniWord, strandWord, issue]; rfl⟩
  | smul => exact ⟨_, by simp only [exec, execSmul, uniWord, strandWord, issue]; rfl⟩
  | smad => exact ⟨_, by simp only [exec, execSmad, uniWord, strandWord, issue]; rfl⟩
  | smin => exact ⟨_, by simp only [exec, execSmin, uniWord, strandWord, issue]; rfl⟩
  | smax => exact ⟨_, by simp only [exec, execSmax, uniWord, strandWord, issue]; rfl⟩
  | scmp => exact ⟨_, by simp only [exec, execScmp, strandWord, issue]; rfl⟩
  | sshl => exact ⟨_, by simp only [exec, execSshl, uniWord, strandWord, issue]; rfl⟩
  | sshr => exact ⟨_, by simp only [exec, execSshr, uniWord, strandWord, issue]; rfl⟩
  | smov => exact ⟨_, by simp only [exec, execSmov, uniWord, strandWord, issue]; rfl⟩
  | sldi => exact ⟨_, by simp only [exec, execSldi, strandWord, issue]; rfl⟩
  | sget => exact ⟨_, by simp only [exec, execSget, strandWord, issue]; rfl⟩
  | vrd => exact ⟨_, by simp only [exec, execVrd, strandWord, issue]; rfl⟩
  | sbc => exact ⟨_, by simp only [exec, execSbc, strandWord, issue]; rfl⟩
  | sbal => exact ⟨_, by simp only [exec, execSbal, strandWord, issue]; rfl⟩
  | aadd => exact ⟨_, by simp only [exec, execAadd, addrWord, strandWord, issue]; rfl⟩
  | amov => exact ⟨_, by simp only [exec, execAmov, strandWord, issue]; rfl⟩
  | aset => exact ⟨_, by simp only [exec, execAset, strandWord, issue]; rfl⟩
  | aget => exact ⟨_, by simp only [exec, execAget, strandWord, issue]; rfl⟩
  | lea => exact ⟨_, by simp only [exec, execLea, addrWord, strandWord, issue]; rfl⟩
  | bar => exact ⟨_, by simp only [exec, execBar, barrierWord, issue]; rfl⟩
  | bara => exact ⟨_, by simp only [exec, execBara, barrierWord, issue]; rfl⟩
  | barw => exact ⟨_, by simp only [exec, execBarw, issue]; rfl⟩
  | matchV => exact ⟨_, by simp only [exec, execMatchV, strandWord, issue]; rfl⟩
  | vote => exact ⟨_, by simp only [exec, execVote, strandWord, issue]; rfl⟩
  | ldI => exact ⟨_, by simp only [exec, execLdI, memWord]; rfl⟩
  | ldL => exact ⟨_, by simp only [exec, execLdL, memWord]; rfl⟩
  | stI => exact ⟨_, by simp only [exec, execStI, memWord]; rfl⟩
  | stL => exact ⟨_, by simp only [exec, execStL, memWord]; rfl⟩
  | lduI => exact ⟨_, by simp only [exec, execLduI, memWord]; rfl⟩
  | lduL => exact ⟨_, by simp only [exec, execLduL, memWord]; rfl⟩
  | stuI => exact ⟨_, by simp only [exec, execStuI, memWord]; rfl⟩
  | stuL => exact ⟨_, by simp only [exec, execStuL, memWord]; rfl⟩
  | ldsI => exact ⟨_, by simp only [exec, execLdsI, ldsWord, issue]; rfl⟩
  | ldsL => exact ⟨_, by simp only [exec, execLdsL, ldsWord, issue]; rfl⟩
  | stsI => exact ⟨_, by simp only [exec, execStsI, stsWord, issue]; rfl⟩
  | stsL => exact ⟨_, by simp only [exec, execStsL, stsWord, issue]; rfl⟩
  | ldh => exact ⟨_, by simp only [exec, execLdh, hostWord]; rfl⟩
  | sth => exact ⟨_, by simp only [exec, execSth, hostWord]; rfl⟩
  | dpf => exact ⟨_, by simp only [exec, execDpf, issue]; rfl⟩
  | cwb => exact ⟨_, by simp only [exec, execCwb, lineWord]; rfl⟩
  | cinv => exact ⟨_, by simp only [exec, execCinv, lineWord]; rfl⟩
  | atom => exact ⟨_, by simp only [exec, execAtom, memWord]; rfl⟩
  | atoms => exact ⟨_, by simp only [exec, execAtoms, issue]; rfl⟩
  | red => exact ⟨_, by simp only [exec, execRed, memWord]; rfl⟩
  | acq => exact ⟨_, by simp only [exec, execAcq, memWord]; rfl⟩
  | rel => exact ⟨_, by simp only [exec, execRel, memWord]; rfl⟩
  | bind => exact ⟨_, by simp only [exec, execBind, issue]; rfl⟩
  | unbind => exact ⟨_, by simp only [exec, execUnbind, issue]; rfl⟩
  | fence => exact ⟨_, by simp only [exec, execFence, issue]; rfl⟩
  | fencex => exact ⟨_, by simp only [exec, execFencex, issue]; rfl⟩
  | waitw => exact ⟨_, by simp only [exec, execWaitw]; rfl⟩
  | wake => exact ⟨_, by simp only [exec, execWake, issue]; rfl⟩
  | emit => exact ⟨_, by simp only [exec, execEmit, issue]; rfl⟩
  | spz => exact ⟨_, by simp only [exec, execSpz, issue]; rfl⟩
  | cpt => exact ⟨_, by simp only [exec, execCpt, engineWord, issue]; rfl⟩
  | cpm => exact ⟨_, by simp only [exec, execCpm, engineWord, issue]; rfl⟩
  | cpg => exact ⟨_, by simp only [exec, execCpg, engineWord, issue]; rfl⟩
  | cpf => exact ⟨_, by simp only [exec, execCpf, engineWord, issue]; rfl⟩
  | cpw => exact ⟨_, by simp only [exec, execCpw, engineWord, issue]; rfl⟩
  | xff => exact ⟨_, by simp only [exec, execXff, engineWord, issue]; rfl⟩
  | xfi => exact ⟨_, by simp only [exec, execXfi, engineWord, issue]; rfl⟩
  | mma => exact ⟨_, by simp only [exec, execMma, engineWord, issue]; rfl⟩
  | mmc => exact ⟨_, by simp only [exec, execMmc, engineWord, issue]; rfl⟩
  | mzr => exact ⟨_, by simp only [exec, execMzr, tileWord, strandWord, issue]; rfl⟩
  | mld => exact ⟨_, by simp only [exec, execMld, engineWord, issue]; rfl⟩
  | mst => exact ⟨_, by simp only [exec, execMst, engineWord, issue]; rfl⟩
  | mrd => exact ⟨_, by simp only [exec, execMrd, strandWord, issue]; rfl⟩
  | mwr => exact ⟨_, by simp only [exec, execMwr, tileWord, strandWord, issue]; rfl⟩
  | mtag => exact ⟨_, by simp only [exec, execMtag, tileWord, strandWord, issue]; rfl⟩
  | thnd => exact ⟨_, by simp only [exec, execThnd, engineWord, issue]; rfl⟩
  | msg => exact ⟨_, by simp only [exec, execMsg, engineWord, issue]; rfl⟩
  | trap => exact ⟨_, by simp only [exec, execTrap, strandWord, issue]; rfl⟩
  | tret => exact ⟨_, by simp only [exec, execTret, issue]; rfl⟩
  | tmsk => exact ⟨_, by simp only [exec, execTmsk, strandWord, issue]; rfl⟩
  | tcmp => exact ⟨_, by simp only [exec, execTcmp, strandWord, issue]; rfl⟩
  | brk => exact ⟨_, by simp only [exec, execBrk, strandWord, issue]; rfl⟩
  | ipf => exact ⟨_, by simp only [exec, execIpf, issue]; rfl⟩
  | ipin => exact ⟨_, by simp only [exec, execIpin, issue]; rfl⟩
  | iunpin => exact ⟨_, by simp only [exec, execIunpin, issue]; rfl⟩
  | grow => exact ⟨_, by simp only [exec, execGrow]; rfl⟩
  | shrink => exact ⟨_, by simp only [exec, execShrink]; rfl⟩
  | _ => exact absurd h (by simp [isWord, encode])

/-- A word of which no lane is active only goes on. -/
theorem issueDid_noLane {i : Instr} {s : State} {st : Strand} {p : Pick} (b : Word_ → Did) (h : AtWord s st p)
    (hg : badGuard st p.lanes (guardOfInstr i) = none) (ha : activeOf i st p = []) : issueDid i s b = .next (advance (useBudget s st.core i) s.cursor i) := by
  obtain ⟨h1, h2, h3, h4⟩ := h
  unfold activeOf at ha
  simp [issueDid, h1, h2, h3, h4, hg, ha]

end Sys2Proof.Machine
end

