-- ==== Sys2Proof/Laws/Tables.lean ====
section
/-!
SUPPORT. Tables and cells: reading after writing, and the canonical form.
-/
namespace Sys2Proof.Machine

/-! ### Tables -/

theorem Tbl.get?_put_self {α : Type} (t : Tbl α) (n : Nat) (x : α) : (t.put n x).get? n = some x := by
  induction t with
  | nil => simp [Tbl.put, Tbl.get?]
  | cons e r ih =>
    obtain ⟨k, v⟩ := e
    by_cases h1 : n < k
    · simp [Tbl.put, Tbl.get?, h1]
    · by_cases h2 : n = k
      · simp [Tbl.put, Tbl.get?, h2]
      · simp [Tbl.put, Tbl.get?, h1, h2, ih]

theorem Tbl.get?_put_other {α : Type} (t : Tbl α) {n m : Nat} (x : α) (h : m ≠ n) :
    (t.put n x).get? m = t.get? m := by
  induction t with
  | nil => simp [Tbl.put, Tbl.get?, h]
  | cons e r ih =>
    obtain ⟨k, v⟩ := e
    by_cases h1 : n < k
    · simp [Tbl.put, Tbl.get?, h1, h]
    · by_cases h2 : n = k
      · subst h2; simp [Tbl.put, Tbl.get?, h]
      · by_cases h3 : m = k <;> simp [Tbl.put, Tbl.get?, h1, h2, h3, ih]

theorem Tbl.put_put {α : Type} (t : Tbl α) (n : Nat) (x y : α) : (t.put n x).put n y = t.put n y := by
  induction t with
  | nil => simp [Tbl.put]
  | cons e r ih =>
    obtain ⟨k, v⟩ := e
    by_cases h1 : n < k
    · simp [Tbl.put, h1]
    · by_cases h2 : n = k
      · simp [Tbl.put, h2]
      · simp [Tbl.put, h1, h2, ih]

theorem Tbl.upd_some {α : Type} {t : Tbl α} {n : Nat} {x : α} (f : α → α) (h : t.get? n = some x) :
    t.upd n f = t.put n (f x) := by simp [Tbl.upd, h]

theorem Tbl.upd_none {α : Type} {t : Tbl α} {n : Nat} (f : α → α) (h : t.get? n = none) : t.upd n f = t := by
  simp [Tbl.upd, h]

theorem Tbl.upd_put {α : Type} (t : Tbl α) (n : Nat) (x : α) (f : α → α) : (t.put n x).upd n f = t.put n (f x) := by
  rw [Tbl.upd_some f (Tbl.get?_put_self t n x), Tbl.put_put]

/-! ### Cells -/

theorem Cells.rising_mono {c : Cells} : ∀ {a b : Nat}, b ≤ a → Cells.rising a c = true → Cells.rising b c = true := by
  cases c with
  | nil => intros; rfl
  | cons e r =>
    obtain ⟨k, v⟩ := e
    intro a b hb h
    simp [Cells.rising] at h ⊢
    exact ⟨⟨by omega, h.1.2⟩, h.2⟩

theorem Cells.get_below {c : Cells} : ∀ {b n : Nat}, Cells.rising b c = true → n < b → c.get n = 0 := by
  induction c with
  | nil => intros; rfl
  | cons e r ih =>
    obtain ⟨k, v⟩ := e
    intro b n h hn
    simp [Cells.rising] at h
    have : n ≠ k := by omega
    simp [Cells.get, this]
    exact ih h.2 (by omega)

theorem Cells.rising_put {c : Cells} (n : Nat) (x : Int) :
    ∀ {b : Nat}, Cells.rising b c = true → b ≤ n → Cells.rising b (c.put n x) = true := by
  induction c with
  | nil =>
    intro b _ hb
    by_cases hx : x = 0 <;> simp [Cells.put, Cells.rising, hx, hb]
  | cons e r ih =>
    obtain ⟨k, v⟩ := e
    intro b h hb
    simp [Cells.rising] at h
    by_cases h1 : n < k
    · by_cases hx : x = 0
      · simp [Cells.put, h1, hx, Cells.rising, h.1, h.2]
      · simp [Cells.put, h1, hx, Cells.rising, h.1, h.2, hb] <;> omega
    · by_cases h2 : n = k
      · subst h2
        by_cases hx : x = 0
        · simp [Cells.put, hx]; exact Cells.rising_mono (by omega) h.2
        · simp [Cells.put, hx, Cells.rising, h.2, hb]
      · simp [Cells.put, h1, h2, Cells.rising, h.1]
        exact ih h.2 (by omega)

/-- Writing a key keeps the canonical form. -/
theorem Cells.wf_put {c : Cells} (n : Nat) (x : Int) (h : c.wf = true) : (c.put n x).wf = true :=
  Cells.rising_put n x h (Nat.zero_le n)

theorem Cells.get_put_self_rising {c : Cells} (n : Nat) (x : Int) :
    ∀ {b : Nat}, Cells.rising b c = true → (c.put n x).get n = x := by
  induction c with
  | nil => intro b _; by_cases hx : x = 0 <;> simp [Cells.put, Cells.get, hx]
  | cons e r ih =>
    obtain ⟨k, v⟩ := e
    intro b h
    simp [Cells.rising] at h
    by_cases h1 : n < k
    · by_cases hx : x = 0
      · have : n ≠ k := by omega
        simp [Cells.put, h1, hx, Cells.get, this]
        exact Cells.get_below h.2 (by omega)
      · simp [Cells.put, h1, hx, Cells.get]
    · by_cases h2 : n = k
      · subst h2
        by_cases hx : x = 0
        · simp [Cells.put, hx]; exact Cells.get_below h.2 (by omega)
        · simp [Cells.put, hx, Cells.get]
      · simp [Cells.put, h1, h2, Cells.get]; exact ih h.2

/-- A key reads what was written to it. -/
theorem Cells.get_put_self {c : Cells} (n : Nat) (x : Int) (h : c.wf = true) : (c.put n x).get n = x :=
  Cells.get_put_self_rising n x h

/-- A write leaves every other key alone, in any list. -/
theorem Cells.get_put_other (c : Cells) {n m : Nat} (x : Int) (hm : m ≠ n) : (c.put n x).get m = c.get m := by
  induction c with
  | nil => by_cases hx : x = 0 <;> simp [Cells.put, Cells.get, hx, hm]
  | cons e r ih =>
    obtain ⟨k, v⟩ := e
    by_cases h1 : n < k
    · by_cases hx : x = 0 <;> simp [Cells.put, Cells.get, h1, hx, hm]
    · by_cases h2 : n = k
      · subst h2
        by_cases hx : x = 0 <;> simp [Cells.put, Cells.get, hx, hm]
      · by_cases h3 : m = k <;> simp [Cells.put, Cells.get, h1, h2, h3, ih]

theorem Cells.wf_putRun {c : Cells} (n : Nat) (xs : List Int) (h : c.wf = true) : (c.putRun n xs).wf = true := by
  induction xs generalizing c n with
  | nil => exact h
  | cons x r ih => exact ih (n + 1) (Cells.wf_put n x h)

/-! ### Host memory -/

theorem hostRising_mono {c : List Host.Cell} : ∀ {a b : Nat}, b ≤ a → hostRising a c = true → hostRising b c = true := by
  cases c with
  | nil => intros; rfl
  | cons e r =>
    obtain ⟨k, v⟩ := e
    intro a b hb h
    simp [hostRising] at h ⊢
    exact ⟨⟨by omega, h.1.2⟩, h.2⟩

theorem hostRising_putHost {c : List Host.Cell} (n x : Nat) :
    ∀ {b : Nat}, hostRising b c = true → b ≤ n → hostRising b (putHost c n x) = true := by
  have hz : x % 256 ≠ 0 → (BitVec.ofNat 8 x == (0 : BitVec 8)) = false := by
    intro h
    rw [beq_eq_false_iff_ne]
    intro hc
    have h' := congrArg BitVec.toNat hc
    rw [BitVec.toNat_ofNat] at h'
    exact h h'
  induction c with
  | nil =>
    intro b _ hb
    by_cases hx : x % 256 = 0
    · simp [putHost, hostRising, hx]
    · simp only [putHost, hx, if_false, hostRising, hb, decide_true, bne, hz hx]; rfl
  | cons e r ih =>
    obtain ⟨k, v⟩ := e
    intro b h hb
    simp only [hostRising, Bool.and_eq_true, decide_eq_true_eq] at h
    by_cases h1 : n < k
    · by_cases hx : x % 256 = 0
      · simp only [putHost, h1, hx, if_true, hostRising, h.1.1, h.1.2, h.2, decide_true]; rfl
      · simp only [putHost, h1, hx, if_true, if_false, hostRising, hb, h.2, decide_true, bne, hz hx]
        simp only [Nat.succ_le_of_lt h1, decide_true]; simpa [bne] using h.1.2
    · by_cases h2 : n = k
      · subst h2
        by_cases hx : x % 256 = 0
        · simp only [putHost, Nat.lt_irrefl, hx, if_true, if_false]; exact hostRising_mono (by omega) h.2
        · simp only [putHost, Nat.lt_irrefl, hx, if_true, if_false, hostRising, hb, h.2, decide_true, bne, hz hx]; rfl
      · have h3 : k + 1 ≤ n := by omega
        simp only [putHost, h1, h2, if_false, hostRising, h.1.1, h.1.2, ih h.2 h3, decide_true]; rfl

end Sys2Proof.Machine
end

