-- ==== Sys2Proof/Laws/Memory.lean ====
section
/-!
SUPPORT. What the operations that write memory do: both memories keep their form, a read after a write gives
what was written, every other tryte is unchanged; and a fault writes no memory.
-/
namespace Sys2Proof.Machine

/-! ### Both memories unchanged -/

/-- Device and host memory of `t` are those of `s`. -/
def SameMem (s t : State) : Prop := t.mem = s.mem ∧ t.host = s.host

theorem SameMem.refl (s : State) : SameMem s s := ⟨rfl, rfl⟩

theorem SameMem.trans {s t u : State} (h : SameMem s t) (k : SameMem t u) : SameMem s u :=
  ⟨k.1.trans h.1, k.2.trans h.2⟩

theorem SameMem.foldl {α : Type} {f : State → α → State} (h : ∀ s a, SameMem s (f s a)) (l : List α) (s : State) :
    SameMem s (l.foldl f s) := by
  induction l generalizing s with
  | nil => exact .refl s
  | cons a r ih => exact (h s a).trans (ih (f s a))

theorem SameMem.wf {s t : State} (h : SameMem s t) : Memory.wf t = Memory.wf s := by
  unfold Memory.wf; rw [h.1, h.2]

/-! ### Homes -/

theorem writeBack_mem (s : State) (die line : Nat) : SameMem s (writeBack s die line) := by
  unfold writeBack
  split
  · exact .refl s
  · split
    · exact .refl s
    · dsimp only; split <;> exact ⟨rfl, rfl⟩

theorem touchLine_mem (s : State) (die line : Nat) (w : Option Bool) : SameMem s (touchLine s die line w) := by
  unfold touchLine
  dsimp only
  split
  · exact ⟨rfl, rfl⟩
  · have h1 : SameMem s (match victimOf (s.die die) (setOf s die line) with
        | some v => evictLine s die v
        | none => s) := by
      split
      · exact (writeBack_mem s die _).trans ⟨rfl, rfl⟩
      · exact .refl s
    refine SameMem.trans (t := if _ then _ else _) ?_ ⟨rfl, rfl⟩
    split
    · exact h1
    · exact h1.trans ⟨rfl, rfl⟩

theorem countMany_mem (s : State) (die kind n : Nat) : SameMem s (countMany s die kind n) := by
  induction n generalizing s with
  | zero => exact .refl s
  | succ n ih => exact SameMem.trans ⟨rfl, rfl⟩ (ih _)

theorem countWords_mem (s : State) (ks : List Nat) : SameMem s (countWords s ks) := by
  refine .foldl (fun s n => ?_) _ s
  split
  · exact .refl s
  · exact countMany_mem _ _ _ _

theorem touchReads_mem (s : State) (ks : List Nat) : SameMem s (touchReads s ks) :=
  SameMem.trans (.foldl (fun s _ => touchLine_mem s _ _ _) _ s) (countWords_mem _ ks)

theorem touchWrites_mem (s : State) (ks : List (Nat × Bool)) : SameMem s (touchWrites s ks) :=
  .foldl (fun s _ => touchLine_mem s _ _ _) _ s

/-- A walk and the TLB entries that it leaves change neither memory. -/
theorem fillTlb_mem (s : State) (via : Via) (ctx : Nat) (ptr : Int) : SameMem s (fillTlb s via ctx ptr) := by
  have h : SameMem s (touchXlate s via ctx ptr) := touchReads_mem s _
  unfold fillTlb
  split
  · exact .refl s
  · dsimp only
    split
    · exact h
    · split
      · exact h.trans ⟨rfl, rfl⟩
      · exact h.trans ⟨rfl, rfl⟩
      · exact h

theorem fillRun_mem (s : State) (via : Via) (ctx : Nat) (ptr : Int) (n : Nat) : SameMem s (fillRun s via ctx ptr n) := by
  unfold fillRun
  dsimp only
  split
  · exact fillTlb_mem _ _ _ _
  · exact (fillTlb_mem _ _ _ _).trans (fillTlb_mem _ _ _ _)

theorem mendWords_mem (s : State) (ks : List Nat) : SameMem s (mendWords s ks) := by
  refine .foldl (fun s n => ?_) _ s
  dsimp only
  split
  · exact .refl s
  · split
    · exact .refl s
    · exact (countMany_mem _ _ _ _).trans ⟨rfl, rfl⟩

/-- What a write at homes makes of the two memories. -/
theorem writeKeys_mem (s : State) (ks : List (Nat × Bool)) (xs : List Int) :
    (writeKeys s ks xs).mem = (ks.zip xs).foldl (fun m p => m.put p.1.1 p.2) s.mem ∧
      (writeKeys s ks xs).host = s.host := by
  have h := (touchWrites_mem s ks).trans (mendWords_mem _ (ks.map Prod.fst))
  refine ⟨?_, h.2⟩
  rw [← h.1]
  rfl

theorem Cells.wf_puts {c : Cells} (ps : List ((Nat × Bool) × Int)) (h : c.wf = true) :
    (ps.foldl (fun m p => m.put p.1.1 p.2) c).wf = true := by
  induction ps generalizing c with
  | nil => exact h
  | cons p r ih => exact ih (Cells.wf_put _ _ h)

theorem writeKeys_wf {s : State} (ks : List (Nat × Bool)) (xs : List Int) (h : Memory.wf s = true) :
    Memory.wf (writeKeys s ks xs) = true := by
  simp only [Memory.wf, Bool.and_eq_true] at h ⊢
  rw [(writeKeys_mem s ks xs).1, (writeKeys_mem s ks xs).2]
  exact ⟨Cells.wf_puts _ h.1, h.2⟩

theorem Cells.get_puts_other (c : Cells) (ps : List ((Nat × Bool) × Int)) {k : Nat}
    (h : ∀ p ∈ ps, p.1.1 ≠ k) : (ps.foldl (fun m p => m.put p.1.1 p.2) c).get k = c.get k := by
  induction ps generalizing c with
  | nil => rfl
  | cons p r ih =>
    rw [List.foldl_cons, ih _ fun q hq => h q (List.mem_cons_of_mem _ hq)]
    exact Cells.get_put_other _ _ (h p List.mem_cons_self).symm

/-- A tryte that a write does not name is unchanged. -/
theorem writeKeys_get_other (s : State) (ks : List (Nat × Bool)) (xs : List Int) {k : Nat}
    (h : k ∉ ks.map Prod.fst) : (writeKeys s ks xs).mem.get k = s.mem.get k := by
  rw [(writeKeys_mem s ks xs).1]
  refine Cells.get_puts_other _ _ fun p hp hk => h ?_
  have hz : p.1 ∈ ks := (List.of_mem_zip hp).1
  exact hk ▸ List.mem_map_of_mem hz

/-- A read after a write of as many trytes at different homes gives what was written. -/
theorem readKeys_writeKeys {s : State} (ks : List (Nat × Bool)) (xs : List Int) (h : Memory.wf s = true)
    (hn : (ks.map Prod.fst).Nodup) (hl : ks.length = xs.length) :
    readKeys (writeKeys s ks xs) (ks.map Prod.fst) = xs := by
  simp only [Memory.wf, Bool.and_eq_true] at h
  unfold readKeys
  rw [(writeKeys_mem s ks xs).1]
  have key : ∀ (ks : List (Nat × Bool)) (xs : List Int) (c : Cells), c.wf = true → (ks.map Prod.fst).Nodup →
      ks.length = xs.length →
      (ks.map Prod.fst).map ((ks.zip xs).foldl (fun m p => m.put p.1.1 p.2) c).get = xs := by
    intro ks
    induction ks with
    | nil => intro xs c _ _ hl; cases xs with
      | nil => rfl
      | cons _ _ => simp at hl
    | cons k r ih =>
      intro xs c hc hn hl
      cases xs with
      | nil => simp at hl
      | cons x ys =>
        simp only [List.map_cons, List.nodup_cons] at hn
        simp only [List.map_cons, List.zip_cons_cons, List.foldl_cons, List.cons.injEq]
        refine ⟨?_, ih ys _ (Cells.wf_put _ _ hc) hn.2 (by simpa using hl)⟩
        rw [Cells.get_puts_other _ _ fun p hp hk => hn.1 (by
          rw [← hk]; exact List.mem_map_of_mem (List.of_mem_zip hp).1)]
        exact Cells.get_put_self _ _ hc
  exact key ks xs s.mem h.1 hn hl

/-! ### Host memory -/

/-- A host write changes host memory alone. -/
theorem writeHost_eq (s : State) (a : Nat) (bs : List Nat) :
    writeHost s a bs = { s with host := (writeHost s a bs).host } := by
  induction bs generalizing s a with
  | nil => rfl
  | cons b r ih => unfold writeHost; rw [ih]

theorem writeHost_wf {s : State} (a : Nat) (bs : List Nat) (h : Memory.wf s = true) :
    Memory.wf (writeHost s a bs) = true := by
  induction bs generalizing s a with
  | nil => exact h
  | cons b r ih =>
    refine ih (a + 1) ?_
    simp only [Memory.wf, Bool.and_eq_true] at h ⊢
    exact ⟨h.1, hostRising_putHost a b h.2 (Nat.zero_le a)⟩

/-! ### The data cache and faults write no memory -/

theorem dropLines_mem (s : State) (core : Nat) (p : Nat → Bool) : SameMem s (dropLines s core p) := by
  unfold dropLines; split <;> exact ⟨rfl, rfl⟩

theorem markBehind_mem (s : State) (core k : Nat) (ks : List Nat) (xs : List Int) :
    SameMem s (markBehind s core k ks xs) := by
  unfold markBehind; split <;> exact ⟨rfl, rfl⟩

theorem cachedWrite_mem (s : State) (core : Nat) (ks : List Nat) (xs : List Int) :
    SameMem s (cachedWrite s core ks xs) := by
  unfold cachedWrite; split <;> exact ⟨rfl, rfl⟩

theorem homeRead_mem (s : State) (core k : Nat) (ks : List Nat) : SameMem s (homeRead s core k ks).1 :=
  (touchReads_mem s ks).trans (markBehind_mem _ _ _ _ _)

theorem modCore_mem (s : State) (core : Nat) (f : Core → Core) : SameMem s (s.modCore core f) := ⟨rfl, rfl⟩

theorem fetchLine_mem (s : State) (core line : Nat) (keep : Bool) : SameMem s (fetchLine s core line keep) :=
  (touchReads_mem s _).trans (modCore_mem _ _ _)

theorem cachedRead_mem (s : State) (core k hint : Nat) (ks : List Nat) : SameMem s (cachedRead s core k hint ks).1 := by
  unfold cachedRead
  split
  · exact ⟨rfl, rfl⟩
  · split
    · exact homeRead_mem s core k ks
    · exact SameMem.trans (.foldl (fun s _ => fetchLine_mem s core _ _) _ s)
        ((touchReads_mem _ _).trans (markBehind_mem _ _ _ _ _))

/-- A lane's act at its home keeps the form of memory. -/
theorem perform_wf {s : State} (core k : Nat) (m : Mem) (ks : List (Nat × Bool)) (data expect : Int)
    (h : Memory.wf s = true) : Memory.wf (perform s core k m ks data expect).1 = true := by
  unfold perform
  dsimp only
  split
  · split
    · exact (homeRead_mem _ _ _ _).wf.trans h
    · exact (cachedRead_mem _ _ _ _ _).wf.trans h
  · exact (cachedWrite_mem _ _ _ _).wf.trans (writeKeys_wf _ _ h)
  · have h1 : Memory.wf (homeRead s core k (ks.map Prod.fst)).1 = true := (homeRead_mem _ _ _ _).wf.trans h
    split
    · exact h1
    · exact (cachedWrite_mem _ _ _ _).wf.trans (writeKeys_wf _ _ h1)

theorem denyGrows_mem (s : State) (core : Nat) (p : Nat → Bool) : SameMem s (denyGrows s core p) := by
  unfold denyGrows
  dsimp only
  split
  · exact SameMem.trans ⟨rfl, rfl⟩ (.foldl (f := fun (s : State) (r : GrowReq) => s.modStrand r.strand _) (fun _ _ => ⟨rfl, rfl⟩) _ _)
  · exact .refl s

theorem beginHalt_mem (s : State) (die p reason : Nat) (clock : Option Nat) :
    SameMem s (beginHalt s die p reason clock) :=
  SameMem.trans ⟨rfl, rfl⟩ (.foldl (fun s c => denyGrows_mem s c _) _ _)

/-- A fault writes no memory. -/
theorem raiseFault_mem (s : State) (ctx : Nat) (strand op : Option Nat) (f : FaultInfo) (core : Option Nat) :
    SameMem s (raiseFault s ctx strand op f core) := by
  have halts (s : State) (ps : List Nat) (clock : Option Nat) : SameMem s
      (ps.foldl (fun s p => if halting (s.part (ctx / 256) p) then s else beginHalt s (ctx / 256) p 0 clock) s) := by
    refine .foldl (fun s p => ?_) ps s
    split
    · exact .refl s
    · exact beginHalt_mem _ _ _ _ _
  unfold raiseFault
  cases strand <;> cases op <;> dsimp only <;> split
  all_goals first
    | exact ⟨rfl, rfl⟩
    | (split
       · exact ⟨rfl, rfl⟩
       · exact SameMem.trans ⟨rfl, rfl⟩ (halts _ _ _))

theorem wordFault_mem (w : Word_) (f : FaultInfo) : SameMem w.s (wordFault w f) := raiseFault_mem _ _ _ _ _ _

end Sys2Proof.Machine
end

