-- ==== Sys2Proof/Laws/Traps.lean ====
section
/-!
SUPPORT. What raising a trap, taking it, and ending an operation do.
-/
namespace Sys2Proof.Machine

/-- A trap raised while the global trit is 0 and none is pending becomes the pending one (R316). -/
theorem raiseTrap_first {st : Strand} (cause : Int) (lanes : List Nat) (hg : st.mask.global = false)
    (hp : st.pending = false) : raiseTrap st cause lanes = { st with pending := true, cause, trapLanes := lanes } := by
  simp [raiseTrap, hg, hp]

/-- One raised while another is pending keeps the first cause and adds its lanes (R181). -/
theorem raiseTrap_more {st : Strand} (cause : Int) (lanes : List Nat) (hg : st.mask.global = false)
    (hp : st.pending = true) : raiseTrap st cause lanes =
      { st with trapLanes := st.trapLanes ++ lanes.filter fun x => !st.trapLanes.contains x } := by
  simp [raiseTrap, hg, hp]

/-- One raised behind the global trit is held, and changes nothing else (R285). -/
theorem raiseTrap_held {st : Strand} (cause : Int) (lanes : List Nat) (hg : st.mask.global = true) :
    ∃ h, raiseTrap st cause lanes = { st with heldTrap := some h } := by
  unfold raiseTrap
  simp only [hg, if_true]
  split <;> exact ⟨_, rfl⟩

/-- Taking a trap touches threads, cause, trap lanes, the pending mark, the global trit, and the marks of the registers that
the waits it ends receive (R47), alone (R316). -/
theorem takeTrap_frame (s : State) (st : Strand) (cause : Int) (lanes : List Nat) :
    takeTrap s st cause lanes =
      { st with threads := (takeTrap s st cause lanes).threads, cause := (takeTrap s st cause lanes).cause,
                trapLanes := (takeTrap s st cause lanes).trapLanes, pending := false,
                bad := (takeTrap s st cause lanes).bad,
                mask := { st.mask with global := (takeTrap s st cause lanes).mask.global } } := by
  unfold takeTrap; split <;> rfl

/-- A thread that is neither ended nor in exit enters at the handler's address with its place saved (R316). -/
theorem enterHandler_enters (s : State) {st : Strand} {t : Thread} (h : t.active = true) :
    (enterHandler s st t).pc = st.handlerPc ∧ (enterHandler s st t).pos = 0 ∧
      (enterHandler s st t).savedPc = t.pc ∧ (enterHandler s st t).savedPos = t.pos ∧
      (enterHandler s st t).status = .ready ∧ (enterHandler s st t).inHandler = true := by
  simp [enterHandler, h]

/-- Any other thread stays as it is. -/
theorem enterHandler_stays (s : State) {st : Strand} {t : Thread} (h : t.active = false) : enterHandler s st t = t := by
  simp [enterHandler, h]

/-- While a thread of the handler still runs, a return waits (R245). -/
theorem leaveHandler_waits {st : Strand}
    (h : (st.threads.any fun t => t.inHandler && t.live && t.status != .inTret) = true) : leaveHandler st = st := by
  simp [leaveHandler, h]

end Sys2Proof.Machine
end

