-- ==== Sys2Proof/Laws/Words.lean ====
section
/-!
SUPPORT. What issuing a word comes to: the one lemma for each template of `Operands`.
-/
namespace Sys2Proof.Machine

/-! ### Strands -/

theorem State.get?_setStrand (s : State) (k : Nat) (x : Strand) : (s.setStrand k x).strands.get? k = some x :=
  Tbl.get?_put_self _ _ _

theorem State.setStrand_setStrand (s : State) (k : Nat) (x y : Strand) :
    (s.setStrand k x).setStrand k y = s.setStrand k y := by
  simp [State.setStrand, Tbl.put_put]

theorem State.modStrand_some {s : State} {k : Nat} {x : Strand} (f : Strand → Strand) (h : s.strands.get? k = some x) :
    s.modStrand k f = s.setStrand k (f x) := by
  simp [State.modStrand, State.setStrand, Tbl.upd_some f h]

theorem State.modStrand_setStrand (s : State) (k : Nat) (x : Strand) (f : Strand → Strand) :
    (s.setStrand k x).modStrand k f = s.setStrand k (f x) := by
  simp [State.modStrand, State.setStrand, Tbl.upd_put]

theorem Strand.modThreads_length (st : Strand) (ls : List Nat) (f : Nat → Thread → Thread) :
    (st.modThreads ls f).threads.length = st.threads.length := by
  simp [Strand.modThreads]

theorem Strand.thread_modThreads (st : Strand) (ls : List Nat) (f : Nat → Thread → Thread) {l : Nat}
    (h : l < st.threads.length) :
    (st.modThreads ls f).thread l = if ls.contains l then f l (st.thread l) else st.thread l := by
  simp [Strand.thread, Strand.modThreads, List.getD_eq_getElem?_getD, h]

/-! ### The end of a word -/

theorem settle_still (p : Pick) (t : Thread) : (settle p t).still = t.still := rfl

theorem map_still_modThreads (st : Strand) (ls : List Nat) (f : Nat → Thread → Thread)
    (hf : ∀ l t, (f l t).still = t.still) :
    (st.modThreads ls f).threads.map Thread.still = st.threads.map Thread.still := by
  apply List.ext_getElem?
  intro n
  simp only [Strand.modThreads, List.getElem?_map, List.getElem?_zipIdx]
  cases st.threads[n]? with
  | none => rfl
  | some t => simp; split <;> simp [hf]

theorem clearBad_still (st : Strand) (act : List Nat) (us : List Use) (c0 : Bool) :
    (clearBad st act us c0).still = st.still := by
  unfold clearBad; split <;> rfl

theorem clearBad_threads (st : Strand) (act : List Nat) (us : List Use) (c0 : Bool) :
    (clearBad st act us c0).threads = st.threads := by
  unfold clearBad; split <;> rfl

theorem clearBad_pick (st : Strand) (act : List Nat) (us : List Use) (c0 : Bool) :
    (clearBad st act us c0).pick = st.pick := by
  unfold clearBad; split <;> rfl

theorem clearBad_yielded (st : Strand) (act : List Nat) (us : List Use) (c0 : Bool) :
    (clearBad st act us c0).yielded = st.yielded := by
  unfold clearBad; split <;> rfl

theorem clearBad_bad (st : Strand) (act : List Nat) (us : List Use) (c0 : Bool) :
    ∀ r, r ∈ (clearBad st act us c0).bad → r ∈ st.bad := by
  unfold clearBad; split
  · exact fun r h => h
  · exact fun r h => (List.mem_filter.mp h).1

/-- What `advance` makes of a strand. -/
def advanceStrand (i : Instr) (st : Strand) : Strand :=
  match st.pick with
  | none => st
  | some p =>
    let p' := { p with pos := p.pos + wordCount i, busy := none, longs := p.longs + (if isLongInstr i then 1 else 0) }
    if p'.words.length ≤ p'.pos || p'.lanes.isEmpty then closePick st p' else { st with pick := some p' }

theorem advance_eq (s : State) (k : Nat) (i : Instr) : advance s k i = s.modStrand k (advanceStrand i) := rfl

theorem advanceStrand_closes {i : Instr} {st : Strand} {p : Pick} (h : st.pick = some p)
    (hc : p.lanes = [] ∨ p.words.length ≤ p.pos + (encode i).length) :
    advanceStrand i st = closePick st { p with pos := p.pos + (encode i).length, busy := none,
                                               longs := p.longs + (if isLongInstr i then 1 else 0) } := by
  unfold advanceStrand
  rw [h]
  apply if_pos
  rcases hc with hc | hc <;> simp [hc, wordCount]

theorem finished_advance (i : Instr) (st : Strand) (act : List Nat) (us : List Use) (c0 : Bool) :
    Finished i st (advanceStrand i (clearBad st act us c0)) := by
  have hp := clearBad_pick st act us c0
  constructor
  · rw [← clearBad_still st act us c0]
    unfold advanceStrand
    split
    · rfl
    · dsimp only
      split
      · simp only [Strand.still, closePick]
        rw [map_still_modThreads _ _ _ fun _ t => settle_still _ t]
        rfl
      · rfl
  · intro r hr
    apply clearBad_bad st act us c0 r
    unfold advanceStrand at hr
    split at hr
    · exact hr
    · dsimp only at hr
      split at hr
      · simpa [closePick, Strand.modThreads] using hr
      · exact hr
  · intro p h hl hpos
    have h' : (clearBad st act us c0).pick = some p := by rw [hp, h]
    simp only [advanceStrand, h', wordCount]
    have h1 : ¬ p.words.length ≤ p.pos + (encode i).length := by omega
    simp [h1, hl, clearBad_threads, clearBad_yielded]
  · intro p h hc
    have h' : (clearBad st act us c0).pick = some p := by rw [hp, h]
    rw [advanceStrand_closes h' hc]
    refine ⟨rfl, rfl, ?_⟩
    intro l hl
    have h2 := Strand.thread_modThreads (clearBad st act us c0) p.lanes
      (fun _ t => settle { p with pos := p.pos + (encode i).length, busy := none,
                                  longs := p.longs + (if isLongInstr i then 1 else 0) } t)
      (l := l) (by rw [clearBad_threads]; exact hl)
    have h3 : (clearBad st act us c0).thread l = st.thread l := by simp [Strand.thread, clearBad_threads]
    rw [h3] at h2
    simp only [List.contains_iff_mem] at h2
    exact h2

/-! ### Templates -/

/-- A word that may issue does what its body answers. -/
theorem issueDid_issues {i : Instr} {s : State} {st : Strand} {p : Pick} (h : Issues i s st p)
    (body : Word_ → Did) :
    issueDid i s body =
      match body ⟨s, s.cursor, st, activeOf i st p, p.header, p.pos⟩ with
      | .fault f => .next (wordFault ⟨s, s.cursor, st, activeOf i st p, p.header, p.pos⟩ f)
      | .faultIn s' f => .next (wordFault ⟨s', s.cursor, st, activeOf i st p, p.header, p.pos⟩ f)
      | .stay s' => .next s'
      | .done s' =>
        .next (advance (useBudget
          (s'.modStrand s.cursor fun x => clearBad x (activeOf i st p) (writtenBy i) (writesC0 i)) st.core i) s.cursor i) := by
  have ha := h.active
  have hv := h.valid
  have hf : st.fault.isSome = false := by simp [h.sound]
  have hb : p.busy.isSome = false := by simp [h.idle]
  have he : (List.filter (fun l => passes (guardOfInstr i) (st.thread l)) p.lanes).isEmpty = false := by
    cases hx : List.filter (fun l => passes (guardOfInstr i) (st.thread l)) p.lanes with
    | nil => exact absurd hx ha
    | cons _ _ => rfl
  have hw := h.free
  unfold activeOf at hv hw
  simp [issueDid, h.strand, h.pick, hf, hb, h.guard, he, h.tiles, h.alloc, hw, hv, activeOf] <;> rfl

theorem useBudget_modStrand (s : State) (core k : Nat) (i : Instr) (f : Strand → Strand) :
    useBudget (s.modStrand k f) core i = (useBudget s core i).modStrand k f := by
  unfold useBudget; split <;> rfl

theorem useBudget_setStrand (s : State) (core k : Nat) (i : Instr) (x : Strand) :
    useBudget (s.setStrand k x) core i = (useBudget s core i).setStrand k x := by
  unfold useBudget; split <;> rfl

theorem useBudget_plain {i : Instr} (h : isMatrixInstr i = false) (s : State) (core : Nat) : useBudget s core i = s := by
  simp [useBudget, h]

theorem useBudget_strands (s : State) (core : Nat) (i : Instr) : (useBudget s core i).strands = s.strands := by
  unfold useBudget; split <;> rfl

/-- A word that is done in a state that holds its strand is over there. -/
theorem runs_done {i : Instr} {s s' : State} {st st₁ : Strand} {p : Pick} (h : Issues i s st p)
    {body : Word_ → Did} (hx : exec i s = issueDid i s body)
    (hb : body ⟨s, s.cursor, st, activeOf i st p, p.header, p.pos⟩ = .done s')
    (hs : s'.strands.get? s.cursor = some st₁) : WordRuns i s (useBudget s' st.core i) st₁ := by
  refine ⟨_, ?_, finished_advance i st₁ (activeOf i st p) (writtenBy i) (writesC0 i)⟩
  rw [hx, issueDid_issues h, hb]
  dsimp only
  rw [advance_eq, useBudget_modStrand, State.modStrand_some (s := useBudget s' st.core i) _
    (by rw [useBudget_strands]; exact hs), State.modStrand_setStrand]

theorem WordRuns.setStrand {i : Instr} {s s₁ : State} {x st₁ : Strand}
    (h : WordRuns i s (s₁.setStrand s.cursor x) st₁) : WordRuns i s s₁ st₁ := by
  obtain ⟨st', h1, h2⟩ := h
  exact ⟨st', by rw [h1, State.setStrand_setStrand], h2⟩

/-- A strand word that finds no fault is over in the strand its function gives. -/
theorem strandWord_runs {i : Instr} {s : State} {st x : Strand} {p : Pick} (h : Issues i s st p)
    {f : Word_ → Except FaultInfo Strand} (hx : exec i s = strandWord i s f)
    (hf : f ⟨s, s.cursor, st, activeOf i st p, p.header, p.pos⟩ = .ok x) :
    WordRuns i s (useBudget s st.core i) x := by
  have hw := runs_done (s' := s.setStrand s.cursor x) (st₁ := x) h (body := fun w =>
    .of ((f w).map fun st => w.s.setStrand w.k st)) hx (by simp [hf, Did.of, Except.map])
    (State.get?_setStrand _ _ _)
  rw [useBudget_setStrand] at hw
  exact hw.setStrand

theorem strandWord_becomes {i : Instr} {s : State} (hm : isMatrixInstr i = false)
    {f : Word_ → Except FaultInfo Strand} {g : Strand → List Nat → Strand}
    (hx : exec i s = strandWord i s f)
    (hf : ∀ st p, Issues i s st p → f ⟨s, s.cursor, st, activeOf i st p, p.header, p.pos⟩ = .ok (g st (activeOf i st p))) :
    StrandBecomes i s g := by
  intro st p h
  have := strandWord_runs h hx (hf st p h)
  rwa [useBudget_plain hm] at this

theorem setThread_threads (st : Strand) (l : Nat) (t : Thread) :
    (st.setThread l t).threads = st.threads.set l t := rfl

/-- Writing the active lanes one after the other is writing them together. -/
theorem foldl_setThread (st : Strand) (f : Nat → Thread) (act : List Nat) :
    ∀ (x : Strand), x.threads.length = st.threads.length →
      (act.foldl (fun y l => y.setThread l (f l)) x) = { x with
        threads := x.threads.zipIdx.map fun (t, l) => if act.contains l then f l else t } := by
  induction act with
  | nil =>
    intro x _
    have : (x.threads.zipIdx.map fun (t, l) => if ([] : List Nat).contains l then f l else t) = x.threads := by
      apply List.ext_getElem?; intro n
      simp only [List.getElem?_map, List.getElem?_zipIdx]
      cases x.threads[n]? <;> simp
    simp only [List.foldl_nil]
    rw [this]
  | cons a r ih =>
    intro x hx
    rw [List.foldl_cons, ih (x.setThread a (f a)) (by simp [setThread_threads, hx])]
    simp only [setThread_threads]
    have : ((x.threads.set a (f a)).zipIdx.map fun (t, l) => if r.contains l then f l else t) =
        x.threads.zipIdx.map fun (t, l) => if (a :: r).contains l then f l else t := by
      apply List.ext_getElem?; intro n
      simp only [List.getElem?_map, List.getElem?_zipIdx, List.getElem?_set]
      by_cases h : a = n
      · subst h
        by_cases hl : a < x.threads.length
        · simp [hl]
        · simp [hl]
      · cases hn : x.threads[n]? with
        | none => simp [h]
        | some t => simp [h, Ne.symm h]
    rw [this]
    rfl

/-- The lanes' outcomes that a lane word writes. -/
theorem laneWord_lanes {i : Instr} {trp : Bool} {s : State} (hm : isMatrixInstr i = false)
    {f : Strand → Nat → Thread → LaneOut} (hx : exec i s = laneWord i trp s f) : LanesBecome i trp s f := by
  apply strandWord_becomes hm hx
  intro st p _
  simp only [Except.ok.injEq, List.map_map]
  congr 1
  have h2 : ∀ (l : List Nat) (x : Strand), (l.map fun a => (a, f st a (st.thread a))).foldl (fun st x => st.setThread x.1 x.2.t) x =
      l.foldl (fun y a => y.setThread a (f st a (st.thread a)).t) x := by
    intro l x; rw [List.foldl_map]
  refine Eq.trans (h2 _ _) ?_
  rw [foldl_setThread st (fun a => (f st a (st.thread a)).t) _ st rfl]
  simp only [Strand.modThreads, Strand.mk.injEq, true_and, and_true]
  apply List.ext_getElem?; intro n
  simp only [List.getElem?_map, List.getElem?_zipIdx]
  cases hn : st.threads[n]? with
  | none => simp
  | some t =>
    have : st.thread n = t := by simp [Strand.thread, List.getD_eq_getElem?_getD, hn]
    simp [this]

/-- A long-latency word that may issue is queued, and is over. -/
theorem engineWord_queues {i : Instr} {u : Unit_} {s : State} {fill : Word_ → EngOp → EngOp}
   (hx : exec i s = engineWord i u s fill) :
   StateBecomes i s (fun _ => True) fun w => queued i w (fill w (newOp i u w)) := by
  intro st p h _
  obtain ⟨s', hs'⟩ : ∃ s', s' = { s.setStrand s.cursor { st with flags := st.flags.set ((st.pick.map flagFor).getD 0) true } with
     ops := s.ops.put s.nextId (fill (wordOf i s st p) (newOp i u (wordOf i s st p))), nextId := s.nextId + 1 } := ⟨_, rfl⟩
  have hq : queued i (wordOf i s st p) (fill (wordOf i s st p) (newOp i u (wordOf i s st p))) = useBudget s' st.core i := by
    subst hs'; rfl
  dsimp only
  rw [hq]
  have hget : s'.strands.get? s.cursor = some { st with flags := st.flags.set ((st.pick.map flagFor).getD 0) true } := by
    subst hs'; exact Tbl.get?_put_self _ _ _
  refine ⟨_, by rw [useBudget_strands]; exact hget, ?_⟩
  refine runs_done (s' := s') h (body := fun w => .of (.ok (
     let wv := w.s.weaveOf w.st
     let flag := (w.st.pick.map flagFor).getD 0
     let ws := issuedWords w i
     let now := (counter w.s w.st.core).toNat
     let o : EngOp :=
      { i, w0 := ws.1, w1 := ws.2, unit := u, strand := some w.k, weave := w.st.weave, die := wv.die, ctx := wv.ctx,
        cluster := clusterOf w.st.core, core := w.st.core, flag, lanes := w.act, slots := wv.slots,
        issuedAt := now, movedAt := now }
     let s1 := w.s.modStrand w.k fun st => { st with flags := st.flags.set flag true }
     { s1 with ops := s1.ops.put s1.nextId (fill w o), nextId := s1.nextId + 1 }))) hx ?_ hget
  dsimp only
  rw [State.modStrand_some _ h.strand, hs']
  rfl
/-- The values of the signal fields that a word reads. -/
theorem sigRegs_eq (st : Strand) (c : Option SigCtl) : sigRegs st c = ((c.map fun r => st.areg r.areg).getD 0, (c.map fun r => st.sget r.sreg).getD 0) := by
  cases c <;> rfl

end Sys2Proof.Machine
end

