-- ==== Sys2Proof/Machine/Object.lean ====
section
/-!
DEFINITION. Code objects: how words form clauses (R175, R176), and Nimilo objects as the loader reads, checks
and relocates them before it hands their text to CODE_LOAD (R422 to R425). No step of the module runs these:
they say which words and records a loaded program consists of.
-/
namespace Sys2Proof.Machine

/-! ### Forming clauses (R175, R176) -/

/-- A header as a word (R152). -/
def clauseHeader (h : Header) : Int :=
  let flag (x : Option Nat) : Int := (x.map fun f => (f : Int)).getD (-1)
  (-121) * 3 ^ 22 + ((h.waits.map fun f => (3 : Int) ^ (10 + f)).sum) + flag h.flagA * 3 ^ 7 + flag h.flagB * 3 ^ 4 +
    ((h.length : Int) - 5) * 3 ^ 2 + (if h.yield then 3 else 0)

/-- An instruction of the source: its words, its flag operand, and whether a label stands before it. -/
structure Item where
  words : List Int
  flag : Option Nat := none
  label : Bool := false
  deriving DecidableEq, Repr

def Item.op (x : Item) : Nat := Enc.opOf (x.words.headD 0)

/-- Does an instruction start a new clause after these of the present one (R175)? -/
def startsClause (now : List Item) (x : Item) : Bool :=
  let longs := now.filter fun y => Enc.isLong y.op
  x.label || now.any (fun y => Enc.isTransfer y.op) ||
    decide (9 < (now.map fun y => y.words.length).sum + x.words.length) ||
    (Enc.isLong x.op && (decide (2 ≤ longs.length) || longs.any fun y => y.flag == x.flag))

/-- The clauses of a run of instructions outside explicit clauses, in order. -/
def splitClauses (now : List Item) : List Item → List (List Item)
  | [] => if now.isEmpty then [] else [now]
  | x :: xs =>
    if !now.isEmpty && startsClause now x then now :: splitClauses [x] xs else splitClauses (now ++ [x]) xs

/-- A clause with its wait list, in any order, and yield hint; none where it is empty, too long, names a flag
that does not exist, or breaks R154 or R156. -/
def clauseWords (waits : List Nat) (yield : Bool) (xs : List Item) : Option (List Int) :=
  let ws := xs.flatMap Item.words
  let flags := (xs.filter fun x => Enc.isLong x.op).map Item.flag
  let h : Header := { waits := (List.range 12).filter waits.contains, yield, length := ws.length, flagA := (flags.getD 0 none), flagB := (flags.getD 1 none) }
  if ws.isEmpty || decide (9 < ws.length) || !wordsLegal h 10 0 ws || waits.any (12 ≤ ·) ||
    decide (readHeader (clauseHeader h) ≠ some h) then none
  else some (clauseHeader h :: ws)

/-- The words of a procedure without explicit clauses (R175). -/
def procWords (xs : List Item) : Option (List Int) :=
  ((splitClauses [] xs).mapM (clauseWords [] false)).map List.flatten

/-! ### Nimilo objects (R422, R423) -/

structure ObjSection where
  type : Nat
  align : Nat
  len : Nat
  off : Nat
  deriving DecidableEq, Repr

structure ObjSymbol where
  name : Nat
  sect : Nat
  exported : Bool
  value : Int
  deriving DecidableEq, Repr

structure ObjWeave where
  sym : Nat
  granules : Nat
  pass : Nat
  tiles : List Nat
  args : Nat
  window : Nat
  deriving DecidableEq, Repr

structure ObjReloc where
  target : Nat
  kind : Nat
  sym : Nat
  at_ : Int
  addend : Int
  deriving DecidableEq, Repr

/-- An object as read: its section table, the trytes of its text and data sections, and its entries. -/
structure Object where
  sections : List ObjSection
  trytes : List (List Int)
  symbols : List ObjSymbol
  weaves : List ObjWeave
  relocs : List ObjReloc
  deriving DecidableEq, Repr

def bytesAt (b : List Nat) (i n : Nat) : List Nat := (b.drop i).take n
def natAt (b : List Nat) (i n : Nat) : Nat := leNat (bytesAt b i n)
def zeroAt (b : List Nat) (i n : Nat) : Bool := (bytesAt b i n).all (· == 0)

/-- Bytes of the file that a section takes. -/
def ObjSection.bytes (x : ObjSection) : Nat := if x.type ≤ 2 then streamLength x.len else x.len

def readSection (file b : List Nat) : Option ObjSection :=
  let x : ObjSection := { type := natAt b 0 1, align := natAt b 1 1, len := natAt b 8 8, off := natAt b 16 8 }
  if b.length = 32 ∧ 1 ≤ x.type ∧ x.type ≤ 6 ∧ x.align ≤ 10 ∧ zeroAt b 2 6 = true ∧ zeroAt b 24 8 = true ∧
    x.off + x.bytes ≤ file.length then some x else none

def readSymbol (b : List Nat) : Option ObjSymbol :=
  if b.length = 24 ∧ natAt b 6 1 ≤ 1 ∧ zeroAt b 7 1 = true ∧ zeroAt b 16 8 = true then
    some { name := natAt b 0 4, sect := natAt b 4 2, exported := natAt b 6 1 == 1, value := leInt (bytesAt b 8 8) }
  else none

def readWeaveEntry (b : List Nat) : Option ObjWeave :=
  let mask := natAt b 6 2
  if b.length = 24 ∧ 1 ≤ natAt b 4 1 ∧ natAt b 4 1 ≤ 27 ∧ natAt b 5 1 ≤ 26 ∧ natAt b 8 1 ≤ 54 ∧
    mask < 512 ∧ zeroAt b 9 3 = true ∧ zeroAt b 16 8 = true then
    some { sym := natAt b 0 4, granules := natAt b 4 1, pass := natAt b 5 1,
           tiles := (List.range 9).filter fun i => mask.testBit i, args := natAt b 8 1, window := natAt b 12 4 }
  else none

def readReloc (b : List Nat) : Option ObjReloc :=
  if b.length = 24 then
    some { target := natAt b 0 2, kind := natAt b 2 2, sym := natAt b 4 4, at_ := leInt (bytesAt b 8 8),
           addend := leInt (bytesAt b 16 8) }
  else none

/-- The entries of every section of a type (log 72). -/
def readEntries {α : Type} (file : List Nat) (xs : List ObjSection) (type : Nat) (f : List Nat → Option α) :
    Option (List α) :=
  ((xs.filter fun x => x.type == type).flatMap fun x => chunks 24 (x.len / 24 + 1) (bytesAt file x.off x.len)).mapM f

/-- The trytes of a text or data section, none of its own otherwise. -/
def sectionTrytes (file : List Nat) (x : ObjSection) : Option (List Int) :=
  if x.type ≤ 2 then (streamTrytes x.len (bytesAt file x.off x.bytes)).toOption else some []

/-- An object as the loader reads it; none where R425 refuses it before relocation. -/
def readObject (file : List Nat) : Option Object := do
  let count := natAt file 8 4
  let table := natAt file 16 8
  if bytesAt file 0 4 ≠ [0x4E, 0x4D, 0x4C, 0x4F] ∨ natAt file 4 2 ≠ 1 ∨ natAt file 6 2 ≠ 1 ∨
      count < 1 ∨ 65535 < count ∨ zeroAt file 12 4 = false ∨ zeroAt file 24 40 = false ∨ file.length < 64 ∨
      file.length < table + 32 * count then none
  else
    let sections ← (chunks 32 count (bytesAt file table (32 * count))).mapM (readSection file)
    if 1 < sections.countP (fun x => x.type == 1) then none
    else
      let trytes ← sections.mapM (sectionTrytes file)
      let symbols ← readEntries file sections 3 readSymbol
      let weaves ← readEntries file sections 5 readWeaveEntry
      let relocs ← readEntries file sections 4 readReloc
      return { sections, trytes, symbols, weaves, relocs }

/-! ### Relocation (R424) -/

/-- The word at a tryte offset of a section's trytes. -/
def wordIn (ts : List Int) (p : Nat) : Option Int :=
  if p + 3 ≤ ts.length then some (ofTrytes ((ts.drop p).take 3)) else none
def putTrytes (ts : List Int) (p : Nat) (xs : List Int) : List Int := ts.take p ++ xs ++ ts.drop (p + xs.length)

/-- The final address of a symbol, the data sections standing at `bases`. -/
def symbolAddr (o : Object) (bases : Nat → Int) (n : Nat) : Option Int := do
  let y ← o.symbols[n]?
  if y.sect = 0xFFFF then return y.value
  else
    let x ← o.sections[y.sect]?
    if x.type = 1 then return y.value else if x.type = 2 then return bases y.sect + y.value else none

/-- The header of the clause that holds an offset of the text, walking clauses from `h`. -/
def clauseHolding (ts : List Int) (p : Nat) : Nat → Nat → Option Nat
  | 0, _ => none
  | fuel + 1, h => do
    let x ← readHeader (← wordIn ts h)
    let next := h + 3 * (x.length + 1)
    if p < next then return h else clauseHolding ts p fuel next

/-- A section's trytes with one relocation made; none where it breaks R424. -/
def patch (ts : List Int) (text : Bool) (r : ObjReloc) (v : Int) : Option (List Int) := do
  if r.at_ < 0 then none
  else
    let p := r.at_.toNat
    let w ← wordIn ts p
    match r.kind with
    | 1 => if fits 5 v then return putTrytes ts p (toTrytes 3 (setField 27 w 0 5 v)) else none
    | 2 => if fits 27 v then return putTrytes ts p (toTrytes 3 v) else none
    | 3 => if fits 44 v ∧ p + 6 ≤ ts.length then return putTrytes ts p (toTrytes 6 (devicePtr v)) else none
    | 4 =>
      let h ← if text then clauseHolding ts p (ts.length / 6 + 1) 0 else none
      let d := v - (h : Int)
      let op := Enc.opOf w
      if d % 3 ≠ 0 then none
      else if op = 1 ∨ op = 3 then
        if fits 5 (d / 3) then return putTrytes ts p (toTrytes 3 (setField 27 w 0 5 (d / 3))) else none
      else if op = 2 ∨ op = 4 then
        if fits 27 (d / 3) ∧ p + 6 ≤ ts.length then return putTrytes ts (p + 3) (toTrytes 3 (d / 3)) else none
      else none
    | _ => none

def relocate (o : Object) (bases : Nat → Int) (r : ObjReloc) : Option Object := do
  let x ← o.sections[r.target]?
  let ts ← o.trytes[r.target]?
  if 2 < x.type then none
  else
    let v ← symbolAddr o bases r.sym
    let ts' ← patch ts (x.type == 1) r (v + r.addend)
    return { o with trytes := o.trytes.set r.target ts' }

/-! ### Loading (R423, R425) -/

/-- The words of a launch record that a weave entry gives: the entry, the resources, the window and the
length of the argument block, with every other count of the header 0 (R340 to R342). -/
def weaveRecord (o : Object) (bases : Nat → Int) (y : ObjWeave) : Option (List Int) := do
  let entry ← symbolAddr o bases y.sym
  let header : Int := [(24, 3, 0), (21, 3, 0), (17, 4, y.args), (14, 3, 0), (11, 3, 0), (8, 3, 0)].foldl
    (fun w (f : Nat × Nat × Nat) => setField 27 w f.1 f.2.1 ((f.2.2 : Int) - half f.2.1)) 0
  let res := setField 27 (setField 27 0 24 3 ((y.granules : Int) - 14)) 12 3 ((y.pass : Int) - 13) +
    (y.tiles.map fun i => (3 : Int) ^ (15 + i)).sum
  return (((((List.replicate 81 0).set 0 header).set 4 entry).set 13 res).set 14 (y.window : Int))

/-- Do the bases of the text and data sections obey their alignment fields (R422)? -/
def Object.aligned (o : Object) (bases : Nat → Int) : Bool :=
  o.sections.zipIdx.all fun (x, i) => decide (2 < x.type) || bases i % 3 ^ x.align == 0

/-- What the loader makes of a file, with its text and data sections at `bases`: the relocated trytes of its
sections, and one launch record for each weave entry; none where the object is refused or a base breaks its
section's alignment, and then nothing is written. -/
def loadObject (file : List Nat) (bases : Nat → Int) : Option (List (List Int) × List (List Int)) := do
  let o ← readObject file
  if !o.aligned bases then none
  let o' ← o.relocs.foldlM (fun x r => relocate x bases r) o
  let recs ← o'.weaves.mapM (weaveRecord o' bases)
  return (o'.trytes, recs)

end Sys2Proof.Machine
end

