-- ==== Sys2Proof/Tests/Slice0.lean ====
section
/-!
SUPPORT. Tests: an ill-formed term for each check of `WellFormed`; words written out trit by trit from the
encodings of the spec; the worked numbers of the spec; and, for every statement that has hypotheses, states and
operands that meet them (the theorems `witness_…`).
-/
namespace Sys2Proof.Tests
open Sys2Proof Sys2Proof.Machine

-- One theorem after the other: their kernel evaluations side by side take more stacks than memory allows.
set_option Elab.async false

/-! ### Ill-formed terms: each beside the nearest legal one -/

def smoke (good bad : Instr) : Bool := WellFormed good && !WellFormed bad

theorem smoke_guard : smoke (.nop (.on 3 .ov)) (.nop (.on 4 .lt)) = true := by decide
theorem smoke_v : smoke (.brx .always 242) (.brx .always 243) = true := by decide
theorem smoke_v_pair : smoke (.mov .always .p 240 0) (.mov .always .p 241 0) = true := by decide
theorem smoke_s : smoke (.sleep .always 80) (.sleep .always 81) = true := by decide
theorem smoke_s_pair : smoke (.tcmp .always true 78) (.tcmp .always true 79) = true := by decide
theorem smoke_a : smoke (.amov .always 8 8) (.amov .always 9 8) = true := by decide
theorem smoke_c : smoke (.scmp .always false 3 0 0) (.scmp .always false 4 0 0) = true := by decide
theorem smoke_tile : smoke (.mzr .always 8) (.mzr .always 9) = true := by decide
theorem smoke_imm : smoke (.brI .always (-121)) (.brI .always (-122)) = true := by decide
theorem smoke_word : smoke (.ldi .always 0 (half 27)) (.ldi .always 0 (half 27 + 1)) = true := by decide
theorem smoke_elem_imm : smoke (.movi .always .t3 0 13) (.movi .always .t3 0 14) = true := by decide
theorem smoke_wide : smoke (.addc .always .t27 0 0 0) (.addc .always .t9 0 0 0) = true := by decide
theorem smoke_mulh : smoke (.mulh .always .t27 0 0 0) (.mulh .always .p 0 0 0) = true := by decide
theorem smoke_sat : smoke (.sat .always .t9 0 0 8) (.sat .always .t9 0 0 9) = true := by decide
theorem smoke_tlut : smoke (.tlut .always .t1 0 0 0 19682) (.tlut .always .t1 0 0 0 19683) = true := by decide
theorem smoke_tcnt : smoke (.tcnt .always .t1 0 0 2) (.tcnt .always .t1 0 0 3) = true := by decide
theorem smoke_text : smoke (.text .always .t27 0 0 26 1) (.text .always .t27 0 0 26 2) = true := by decide
theorem smoke_tins : smoke (.tins .always .p 0 0 53 1) (.tins .always .p 0 0 53 2) = true := by decide
theorem smoke_pack : smoke (.pack .always .t9 .wrap 0 240) (.pack .always .t9 .wrap 0 241) = true := by decide
theorem smoke_unpack : smoke (.unpack .always .t1 216 0) (.unpack .always .t1 217 0) = true := by decide
theorem smoke_lred : smoke (.lred .always .t9 .sat .add 0 0) (.lred .always .t9 .sat .min 0 0) = true := by decide
theorem smoke_lscan : smoke (.lscan .always .t9 .sat .addEx 0 0) (.lscan .always .t9 .sat .maxEx 0 0) = true := by decide
theorem smoke_fcvt : smoke (.fcvt .always .f27 .wrap 0 0 2) (.fcvt .always .f27 .sat 0 0 2) = true := by decide
theorem smoke_dot : smoke (.dot .always .t9 0 0 0) (.dot .always .t27 0 0 0) = true := by decide
theorem smoke_cmul : smoke (.cmul .always .f9 .wrap 240 0 2) (.cmul .always .f9 .wrap 240 0 1) = true := by decide
theorem smoke_sget : smoke (.sget .always 0 33) (.sget .always 0 34) = true := by decide
theorem smoke_sget_pair : smoke (.sget .always 2 15) (.sget .always 3 15) = true := by decide
theorem smoke_vrd : smoke (.vrd .always 0 0 31) (.vrd .always 0 0 32) = true := by decide
theorem smoke_aget : smoke (.aget .always 240 .spc) (.aget .always 240 .cmp) = true := by decide
theorem smoke_bar : smoke (.bar .always 26 0) (.bar .always 27 0) = true := by decide
theorem smoke_ldu : smoke (.lduI .always .p 78 0 0) (.lduI .always .f27 78 0 0) = true := by decide
theorem smoke_mem_hint : smoke (.ldL .always .t9 0 0 ⟨none, 2, 0⟩) (.ldL .always .t9 0 0 ⟨none, 3, 0⟩) = true := by decide
theorem smoke_mem_disp :
    smoke (.ldsL .always false 0 0 ⟨none, 0, 21523360⟩) (.ldsL .always false 0 0 ⟨none, 0, 21523361⟩) = true := by decide
theorem smoke_ldh :
    smoke (.ldh .always .i8 .t9 true 0 0 ⟨none, 0, 0⟩) (.ldh .always .i8 .f9 true 0 0 ⟨none, 0, 0⟩) = true := by decide
theorem smoke_ldh_packed :
    smoke (.ldh .always .packed .p false 0 0 ⟨none, 0, 0⟩) (.ldh .always .packed .p true 0 0 ⟨none, 0, 0⟩) = true := by
  decide
theorem smoke_atom_type : smoke (.atom .always .t9 false 0 0 0 ⟨.cas, .rlx, false, .cl, none⟩)
    (.atom .always .t3 false 0 0 0 ⟨.cas, .rlx, false, .cl, none⟩) = true := by decide
theorem smoke_atom_sat : smoke (.atom .always .t9 true 0 0 0 ⟨.add, .rlx, false, .cl, none⟩)
    (.atom .always .t9 true 0 0 0 ⟨.xchg, .rlx, false, .cl, none⟩) = true := by decide
theorem smoke_atom_all : smoke (.atom .always .t9 false 0 0 0 ⟨.add, .acq, true, .cl, none⟩)
    (.atom .always .t9 false 0 0 0 ⟨.add, .rlx, true, .cl, none⟩) = true := by decide
theorem smoke_atom_field : smoke (.atom .always .t9 false 0 0 0 ⟨.tins 8 1, .acq, true, .cl, none⟩)
    (.atom .always .t9 false 0 0 0 ⟨.tins 8 2, .acq, true, .cl, none⟩) = true := by decide
theorem smoke_atoms_type : smoke (.atoms .always .t27 false 0 0 0 ⟨.add, .rlx, false, .wv, none⟩)
    (.atoms .always .t9 false 0 0 0 ⟨.add, .rlx, false, .wv, none⟩) = true := by decide
theorem smoke_red : smoke (.red .always .t9 false 0 0 ⟨.add, .rel, false, .cl, none⟩)
    (.red .always .t9 false 0 0 ⟨.add, .acq, false, .cl, none⟩) = true := by decide
theorem smoke_emit : smoke (.emit .always 0 0 8) (.emit .always 0 0 9) = true := by decide
theorem smoke_spz : smoke (.spz .always 2 (.configure 0 0 0 1)) (.spz .always 2 (.configure 0 0 0 0)) = true := by decide
theorem smoke_cpt_dims : smoke (.cpt .always .t9 false 0 0 54 ⟨9, none, none, false, false, none, false⟩)
    (.cpt .always .t9 false 0 0 55 ⟨9, none, none, false, false, none, false⟩) = true := by decide
theorem smoke_cpt_sat : smoke (.cpt .always .t9 true 0 0 0 ⟨1, some .i8, none, false, false, none, false⟩)
    (.cpt .always .t9 true 0 0 0 ⟨1, none, none, false, false, none, false⟩) = true := by decide
theorem smoke_cpm : smoke (.cpm .always .t9 0 0 0 ⟨1, none, none, false, false, none, false⟩)
    (.cpm .always .t9 0 0 0 ⟨1, none, none, false, false, some 0, false⟩) = true := by decide
theorem smoke_cpg : smoke (.cpg .always .t9 false 0 0 0 ⟨2, .restrict, .zero, [false, true, false], none, false, false, .t9⟩)
    (.cpg .always .t9 false 0 0 0 ⟨2, .restrict, .zero, [false, false, true], none, false, false, .t9⟩) = true := by decide
theorem smoke_cpf : smoke (.cpf .always .p 0 2 0 ⟨1, none, none, false, false, none, false⟩)
    (.cpf .always .p 0 2 0 ⟨1, none, none, true, false, none, false⟩) = true := by decide
theorem smoke_sig : smoke (.xff .always .f9 false 0 0 ⟨false, false, false, some ⟨true, .cl, 8, 80⟩⟩)
    (.xff .always .f9 false 0 0 ⟨false, false, false, some ⟨true, .cl, 8, 81⟩⟩) = true := by decide
theorem smoke_xfi : smoke (.xfi .always .f9 false 0 0 ⟨false, true, false, none⟩)
    (.xfi .always .f9 false 0 0 ⟨true, true, false, none⟩) = true := by decide
theorem smoke_mma : smoke (.mma .always .f9 0 237 0 .regs (.map 26)) (.mma .always .f9 0 237 0 .regs (.map 27)) = true := by
  decide
theorem smoke_mma_regs : smoke (.mma .always .w9 0 225 0 .regs .handle) (.mma .always .w9 0 226 0 .regs .handle) = true := by
  decide
theorem smoke_mmc : smoke (.mmc .always .f9 6 0 0 ⟨.regs, .handle, 121, 5, true, 728, 3⟩)
    (.mmc .always .f9 7 0 0 ⟨.regs, .handle, 121, 5, true, 728, 3⟩) = true := by decide
theorem smoke_mst : smoke (.mst .always .f9 false 0 0 ⟨32, 27, false, true, none⟩)
    (.mst .always .f9 false 0 0 ⟨33, 27, false, true, none⟩) = true := by decide
theorem smoke_mrd : smoke (.mrd .always 216 0 none) (.mrd .always 217 0 none) = true := by decide
theorem smoke_msg : smoke (.msg .always 54 0 .cl 27) (.msg .always 55 0 .cl 27) = true := by decide
theorem smoke_trap : smoke (.trap .always (-9841)) (.trap .always (-9842)) = true := by decide
theorem smoke_grow : smoke (.grow .always 0 1) (.grow .always 0 0) = true := by decide
theorem smoke_shrink : smoke (.shrink .always 121) (.shrink .always 122) = true := by decide
theorem smoke_core : smoke (.issuePick 511) (.issuePick 512) = true := by decide
theorem smoke_lane : smoke (.sleepExpiry 0 31) (.sleepExpiry 0 32) = true := by decide
theorem smoke_partition : smoke (.resume 7) (.quantumExpiry 7 3) = true := by decide
theorem smoke_link : smoke (.linkRetrain 31) (.linkRetrain 32) = true := by decide
theorem smoke_kick : smoke (.kick 7 1023 0) (.kick 7 1024 0) = true := by decide
theorem smoke_register : smoke (.registerWrite 0 0x10 (2 ^ 64 - 1)) (.registerWrite 0 0x10 (2 ^ 64)) = true := by decide

/-! ### Words written out from the encodings (R159, R160, the tables of R180, R205, R223, R248, R276) -/

theorem test_decode_control :
    decode (litWord [-1,-1,-1,1,-1, 0,0,0, 0,0,0,0, 0,0,0,0,0, -1,-1,0,-1,1, 0,0,0,0,0]) 0 = some (.ret .always 11) := by
  decide
theorem test_decode_integer :
    decode (litWord [-1,0,-1,0,-1, 0,0,-1, 0,0,0,0, -1,-1,-1,0,-1, -1,-1,-1,0,0, -1,-1,-1,0,1]) 0 =
      some (.sub .always .t27 .sat 3 4 5) := by decide
theorem test_decode_shift :
    decode (litWord [-1,1,-1,0,-1, -1,-1,1, 0,0,0,0, -1,-1,-1,-1,0, -1,-1,-1,-1,1, 0,0,0,0,-1]) 0 =
      some (.shrI .always .t9 1 2 (-1)) := by decide
theorem test_decode_float :
    decode (litWord [0,-1,-1,0,-1, -1,0,0, 0,0,0,0, -1,-1,-1,0,0, -1,-1,-1,-1,1, -1,-1,-1,0,-1]) 0 =
      some (.fma .always .f9 .wrap 4 2 3) := by decide
theorem test_decode_uniform :
    decode (litWord [0,0,0,0,-1, 0,0,0, 0,0,0,0, -1,-1,-1,-1,-1, -1,-1,-1,-1,0, -1,0,-1,0,0]) 0 =
      some (.vrd .always 0 1 31) := by decide
theorem test_decode_memory :
    decode (litWord [0,1,0,0,-1, -1,-1,1, 0,0,0,0, -1,-1,-1,-1,0, -1,-1,-1,-1,1, 0,0,0,0,0])
        (litWord [-1,-1,-1,-1,1, 1, -1,-1, -1,-1,1, 0,0,0,0,0,0,0,0,0,0,0,0,0,0,0,0]) =
      some (.ldh .always .i16 .t9 false 1 2 ⟨some 2, 0, 0⟩) := by decide
theorem test_decode_ordering :
    decode (litWord [1,-1,-1,0,0, -1,0,0, -1,0,-1,1, -1,-1,-1,-1,0, -1,-1,-1,-1,1, -1,-1,-1,-1,-1]) 0 =
      some (.rel (.on 1 .gt) .die false 1 2 0) := by decide
theorem test_decode_bind :
    decode ((encode (.bind .always 1 2 3 .die 22)).getD 0 0) (-345191655699) = some (.bind .always 1 2 3 .die 22) := by
  decide
theorem test_decode_engine :
    decode (litWord [1,0,-1,1,0, -1,-1,1, -1,0,-1,-1, -1,-1,-1,-1,-1, -1,-1,-1,-1,-1, -1,-1,0,-1,0]) (-3577440795426) =
      some (.mma (.on 1 .lt) .w9 0 0 10 .regs .handle) := by decide
theorem test_decode_allocation :
    decode (litWord [1,1,-1,1,1, 0,0,0, 0,0,0,0, -1,-1,-1,-1,1, 0,0,0,0,0, 0,0,1,-1,-1]) 0 = some (.grow .always 2 5) := by
  decide
theorem test_decode_unused_field :
    decode (litWord [1,1,-1,1,1, 0,0,0, 0,0,0,0, -1,-1,-1,-1,1, 0,0,0,0,1, 0,0,1,-1,-1]) 0 = none := by decide
theorem test_decode_short_immediate :
    decode (litWord [1,1,-1,1,1, 0,0,0, 0,0,0,0, -1,-1,-1,-1,1, 0,0,0,0,0, 0,0,0,0,0]) 0 = none := by decide

/-! ### Worked numbers of the spec -/

/-- R66: 14 is the first value above T3's range. -/
theorem test_wrap_t3 : wrap 14 3 = ⟨-13, 1, 1⟩ ∧ saturate 14 3 = ⟨13, 0, 1⟩ := by decide
/-- The clause header of "one clause to the trit" (R152). -/
theorem test_header : readHeader
    (litWord [-1,-1,-1,-1,-1, 0,0,0,0,0,0,0,0,0,0,0,0, 0,0,-1, 0,0,-1, 0,-1, 0, 0]) = some ⟨[], none, none, 4, false⟩ := by
  decide
/-- The sparse line of R138 to R140: mask word 43 and literal word −39,361. -/
theorem test_sparse_line : encodeLine ([5, 5, 5, 5, -2] ++ List.replicate 76 0) = [43, 0, 0, -39361] := by decide +kernel
/-- The words of the shell-conversion program: −200 as two bytes, and a range exception (R89). -/
theorem test_shell_i16 : fromHost .i16 .t9 [0x38, 0xFF] = .ok (-200) ∧ fromHost .i16 .t9 [0xE0, 0x2E] = .range 9841 ∧
    toHost .i16 .t9 (-600) = .ok [0xA8, 0xFD] := by decide
/-- The trap cause of a range trap of .i16 (R56). -/
theorem test_trap_cause : causeWord 3 2 = -2824295325444 := by decide
/-- The trap lanes of lane 1 among lanes 0 to 3 (R59). -/
theorem test_trap_lanes : laneMask (fun l => if l = 1 then 1 else if l < 4 then 0 else -1) =
    pairOf (-3812798742450) (-121) := by decide
/-- `fma.f9` of the example: 10,000 − 9,963 = 37 exactly; the product alone rounds to 9,963 (R208). -/
theorem test_fma : fsum fmt9 false [[.fin 100 0, .fin 100 0]] = fsum fmt9 false [[.fin 9963 0]] ∧
    (fsum fmt9 false [[.fin (-9963) 0], [.fin 100 0, .fin 100 0]]).w = litWord [0,1,0,1,1,0,1,0,0] := by decide +kernel

/-! ### Small states -/

/-- A page-table entry of a type (R370). -/
def entry (type : Nat) (x : Int) : Int := ((type : Int) - 13) * 3 ^ 51 + x

/-- Tables that map the page of address 0 to code and the page above it to data, both large. -/
def demoMem : Cells :=
  let put (c : Cells) (p : Nat) (x : Int) : Cells := c.putRun p (toTrytes 6 x)
  put (put (put (put [] (59049 + 6 * 3280) (entry 1 2)) (2 * 59049 + 6 * 3280) (entry 1 3))
    (3 * 59049 + 6 * 3280) (entry 2 (3 ^ 50 + 3 ^ 48 + 6561)))
    (3 * 59049 + 6 * 3281) (entry 2 (3 ^ 50 + 3 ^ 49 + 2 * 6561))

/-- A data pointer, and its physical tryte. -/
def dataPtr : Int := -3 ^ 44 + 3 ^ 18 + 81
def dataKey : Nat := 2 * 3 ^ 18 + (3 ^ 18 - 1) / 2 + 81

def demoContext : Context := { hostedContext with root := (List.replicate 9 0).set 4 (entry 1 1), pasid := some 5 }

/-- A pick of lanes 0 and 1 whose clause is one instruction. -/
def pickOf (i : Instr) : Pick :=
  { header := 0, pos := 0, lanes := [0, 1], words := encode i, flagA := some 0, flagB := some 1 }

/-- A strand at that pick: a4 points to data, a5 is a window index, a6 a host address; s4 holds 1. -/
def strandOf (i : Instr) : Strand :=
  { hostedStrand 1 [] with pick := some (pickOf i), a := [(4, dataPtr), (5, 2), (6, 64)], s := [(4, 1), (6, 200)] }

/-- One strand under the cursor, its weave and context, and partition 0 of die 0 running. -/
def stateOf (st : Strand) : State :=
  { State.reset.modPart 0 0 (fun x => { x with phase := .run }) with
    cursor := 2, nextId := 10, strands := [(2, st)], weaves := [(1, hostedWeave)], contexts := [(0, demoContext)],
    mem := demoMem }

def demo (i : Instr) : State := stateOf (strandOf i)

/-- The premises of `Issues`, as one test. -/
def issues (i : Instr) (s : State) (st : Strand) (p : Pick) : Bool :=
  decide (s.strands.get? s.cursor = some st) && decide (st.pick = some p) && decide (st.fault = none) &&
    decide (p.busy = none) && decide (badGuard st p.lanes (guardOfInstr i) = none) &&
    decide (activeOf i st p ≠ []) && tilesOk st (uses i) && allocOk st (uses i) &&
    !waitsFor s s.cursor st (activeOf i st p) i && decide (invalidReg st (activeOf i st p) i = none)

theorem issues_sound {i : Instr} {s : State} {st : Strand} {p : Pick} (h : issues i s st p = true) : Issues i s st p := by
  simp only [issues, Bool.and_eq_true, decide_eq_true_eq, Bool.not_eq_true'] at h
  obtain ⟨⟨⟨⟨⟨⟨⟨⟨⟨h1, h2⟩, h3⟩, h4⟩, h0⟩, h5⟩, h6⟩, h7⟩, h8⟩, h9⟩ := h
  exact { strand := h1, pick := h2, sound := h3, idle := h4, guard := h0, active := h5, tiles := h6, alloc := h7,
          free := h8, valid := h9 }

/-- The premises of `AtWord`, as one test. -/
def at_ (s : State) (st : Strand) (p : Pick) : Bool :=
  decide (s.strands.get? s.cursor = some st) && decide (st.pick = some p) && decide (st.fault = none) && decide (p.busy = none)

/-- An instruction that may issue at its small state. -/
def may (i : Instr) : Bool := WellFormed i && isWord i && issues i (demo i) (strandOf i) (pickOf i)

theorem may_issue {i : Instr} (h : may i = true) : Issues i (demo i) (strandOf i) (pickOf i) := by
  simp only [may, Bool.and_eq_true] at h
  exact issues_sound h.2

/-- An operation of the demo strand. -/
def opOf (i : Instr) (u : Unit_) : EngOp :=
  { i, w0 := (encode i).getD 0 0, w1 := (encode i).getD 1 0, unit := u, strand := some 2, weave := 1, die := 0,
    ctx := 0, cluster := 0, core := 0, flag := 0 }

/-- The demo state with operations under 3 and 4. -/
def withOps (s : State) (os : List EngOp) : State := { s with ops := os.zipIdx.map fun x => (x.2 + 3, x.1) }

/-! ### One legal term of every instruction word, which may issue in its small state -/

def controlWords : List Instr := [
    .brI .always 1, .brL .always 1, .callI .always 4 1, .callL .always 4 1, .brx .always 4, .ret .always 4,
    .exit .always, .nop .always, .yield .always, .sleep .always 4]

theorem witness_control_words : controlWords.all may = true := by decide +kernel

def integerWords : List Instr := [
    .addV .always .t9 .wrap 4 4 4, .addI .always .t9 .wrap 4 4 1, .addc .always .t27 4 4 4,
    .sub .always .t9 .wrap 4 4 4, .subc .always .p 4 4 4, .neg .always .t9 4 4, .abs .always .t9 4 4,
    .minV .always .t9 4 4 4, .minI .always .t9 4 4 1, .maxV .always .t9 4 4 4, .maxI .always .t9 4 4 1,
    .clamp .always .t9 4 4 4, .mulV .always .t9 .wrap 4 4 4, .mulI .always .t9 .wrap 4 4 1,
    .mulh .always .t9 4 4 4, .mad .always .t9 .wrap 4 4 4, .div .always .t9 4 4 4, .mod .always .t9 4 4 4,
    .cmpV .always .t9 2 4 4, .cmpI .always .t9 2 4 1, .sgn .always .t9 4 4, .sel .always .t9 4 4 4,
    .sat .always .t9 4 4 4, .mov .always .t27 4 4, .movi .always .t9 4 1, .ldi .always 4 1]

theorem witness_integer_words : integerWords.all may = true := by decide +kernel

def shiftWords : List Instr := [
    .shlV .always .t9 .wrap 4 4 4, .shlI .always .t9 .wrap 4 4 1, .shrV .always .t9 4 4 4,
    .shrI .always .t9 4 4 1, .rolV .always .t9 4 4 4, .rolI .always .t9 4 4 1, .rorV .always .t9 4 4 4,
    .rorI .always .t9 4 4 1, .tand .always .t9 4 4 4, .tor .always .t9 4 4 4, .tmul .always .t9 4 4 4,
    .tcon .always .t9 4 4 4, .tlut .always .t9 4 4 4 4, .tcnt .always .t9 4 4 2, .tlz .always .t9 4 4,
    .text .always .t27 4 4 4 2, .tins .always .t27 4 4 4 2, .pack .always .t9 .wrap 4 4, .unpack .always .t9 4 4,
    .perm .always 4 4 4, .shfl .always .up 4 4 4, .lred .always .t9 .wrap .add 4 4,
    .lscan .always .t9 .wrap .add 4 4]

theorem witness_shift_words : shiftWords.all may = true := by decide +kernel

def floatWords : List Instr := [
    .fadd .always .f9 .wrap 4 4 4, .fsub .always .f9 .wrap 4 4 4, .fmul .always .f9 .wrap 4 4 4,
    .fma .always .f9 .wrap 4 4 4, .fnma .always .f9 .wrap 4 4 4, .fmin .always .f9 4 4 4, .fmax .always .f9 4 4 4,
    .fcmp .always .f9 2 4 4, .fabs .always .f9 4 4, .fdiv .always .f9 .wrap 4 4 4, .fsqrt .always .f9 4 4,
    .frcp .always .f9 .wrap 4 4, .frsq .always .f9 4 4, .fex3 .always .f9 .wrap 4 4, .flg3 .always .f9 4 4,
    .fsclV .always .f9 .wrap 4 4 4, .fsclI .always .f9 .wrap 4 4 1, .fcls .always .f9 4 4,
    .ffix .always .f9 false 4 4, .fflt .always .f9 4 4, .fcvt .always .f9 .wrap 4 4 1,
    .frnd .always .f9 .near 4 4, .dot .always .t9 4 4 4, .dotf .always .wrap 4 4 4, .cmul .always .f9 .wrap 4 4 4]

theorem witness_float_words : floatWords.all may = true := by decide +kernel

def uniformWords : List Instr := [
    .sadd .always false false 4 4 4, .ssub .always false false 4 4 4, .smul .always false false 4 4 4,
    .smad .always false false 4 4 4, .smin .always false 4 4 4, .smax .always false 4 4 4,
    .scmp .always false 2 4 4, .sshl .always false false 4 4 4, .sshr .always false 4 4 4,
    .smov .always false 4 4, .sldi .always 4 1, .sget .always 4 4, .vrd .always 4 4 4, .sbc .always false 4 4,
    .sbal .always 4 2 .lt, .aadd .always 4 4 4, .amov .always 4 4, .aset .always 4 4, .aget .always 4 (.reg 3),
    .lea .always .w 4 4 4, .bar .always 4 4, .bara .always 4 4, .barw .always 4, .matchV .always false 4 4,
    .vote .always .any 3 2 .lt]

theorem witness_uniform_words : uniformWords.all may = true := by decide +kernel

def memoryWords : List Instr := [
    .ldI .always .t9 4 4 1, .ldL .always .t9 4 4 ⟨none, 0, 0⟩, .stI .always .t9 4 4 1,
    .stL .always .t9 4 4 ⟨none, 0, 0⟩, .lduI .always .t9 4 4 1, .lduL .always .t9 4 4 1, .stuI .always .t9 4 4 1,
    .stuL .always .t9 4 4 1, .ldsI .always false 4 5 1, .ldsL .always false 4 5 ⟨none, 0, 0⟩,
    .stsI .always false 4 5 1, .stsL .always false 4 5 ⟨none, 0, 0⟩, .ldh .always .i8 .t9 false 4 6 ⟨none, 0, 0⟩,
    .sth .always .i8 .t9 false 4 6 ⟨none, 0, 0⟩, .dpf .always 4 4, .cwb .always 4 4, .cinv .always 4 4]

theorem witness_memory_words : memoryWords.all may = true := by decide +kernel

def orderingWords : List Instr := [
    .atom .always .t9 false 4 4 4 ⟨.add, .rlx, false, .wv, none⟩,
    .atoms .always .t27 false 4 5 4 ⟨.add, .rlx, false, .wv, none⟩,
    .red .always .t9 false 4 4 ⟨.add, .rlx, false, .wv, none⟩, .acq .always .wv false 4 4 4,
    .rel .always .wv false 4 4 4, .bind .always 2 4 4 .wv 2, .unbind .always 4 none, .fence .always .wv,
    .fencex .always .core .core, .waitw .always false 4 4 4, .wake .always .wv false 4, .emit .always 2 4 4,
    .spz .always 1 .remove]

theorem witness_ordering_words : orderingWords.all may = true := by decide +kernel

def engineWords : List Instr := [
    .cpt .always .t9 false 4 4 4 ⟨1, none, none, false, false, none, false⟩,
    .cpm .always .t9 4 4 4 ⟨1, none, none, false, false, none, false⟩,
    .cpg .always .t9 false 4 4 4 ⟨2, .restrict, .zero, [false, false, false], none, false, false, .t9⟩,
    .cpf .always .t9 4 4 4 ⟨1, none, none, false, false, none, false⟩, .cpw .always .wv false 4 4 false,
    .xff .always .f9 false 4 4 ⟨false, false, false, none⟩,
    .xfi .always .f9 false 4 4 ⟨false, false, false, none⟩, .mma .always .f9 4 4 4 .regs .handle,
    .mmc .always .f9 4 4 4 ⟨.regs, .handle, 0, 2, false, 0, 1⟩, .mzr .always 4, .mld .always 4 4 false,
    .mst .always .t9 false 4 4 ⟨9, 9, false,false, none⟩, .mrd .always 4 4 none, .mwr .always 4 4 none,
    .mtag .always 4 4, .thnd .always 4 4 1, .msg .always 4 4 .wv 4]

theorem witness_engine_words : engineWords.all may = true := by decide +kernel

def trapWords : List Instr := [
    .trap .always 1, .tret .always none, .tmsk .always 4 4, .tcmp .always false 4, .brk .always, .ipf .always 4 4,
    .ipin .always 2 4 4, .iunpin .always 4 4, .grow .always 2 4, .shrink .always 4]

theorem witness_trap_words : trapWords.all may = true := by decide +kernel
/-! ### Witnesses: numbers, codes, steps -/

theorem witness_NumbersFit : half 3 < 14 ∧ (-14 : Int) < -half 3 ∧ -half 3 ≤ 13 ∧ (13 : Int) ≤ half 3 ∧ (-2 : Int) ≠ 0 ∧
    2 * (5 - nearestQuot 5 (-2) * -2).natAbs = (-2 : Int).natAbs := by decide

theorem witness_CodesRoundTrip : 9 * [(13 : Int), -13, 5].length ≤ 27 ∧ (∀ x ∈ [(13 : Int), -13, 5], fits 9 x = true) ∧
    fits (9 * 3) (half 27) = true ∧ fits 54 (-half 54) = true ∧ fits 9 (-half 9) = true ∧ fits 27 (half 27) = true ∧
    (∀ t ∈ [half 9, -half 9], fits 9 t = true) ∧ (List.replicate 81 (half 9)).length = 81 ∧
    ∀ t ∈ List.replicate 81 (half 9), fits 9 t = true := by decide

theorem witness_DecodeEncode : WellFormed (.trap (.on 3 .ov) (-9841)) = true ∧ isWord (.trap (.on 3 .ov) (-9841)) = true := by
  decide

theorem witness_DecodeEncode_back :
    let w : Int := litWord [1,1,-1,1,1, 0,0,0, 0,0,0,0, -1,-1,-1,-1,1, 0,0,0,0,0, 0,0,1,-1,-1]
    let x : Int := litWord [1,0,-1,1,0, -1,-1,1, -1,0,-1,-1, -1,-1,-1,-1,-1, -1,-1,-1,-1,-1, -1,-1,0,-1,0]
    fits 27 w = true ∧ decode w 5 = some (.grow .always 2 5) ∧ fits 27 x = true ∧ fits 27 (-3577440795426) = true ∧
      decode x (-3577440795426) = some (.mma (.on 1 .lt) .w9 0 0 10 .regs .handle) := by decide +kernel

/-- A state whose agenda is the word of its strand, and words that stand for an instruction and for none. -/
theorem witness_StepRunsWord :
    let i : Instr := .ldi .always 4 7
    let s : State := { demo i with agenda := [.word 2] }
    (s.agenda = [.word 2] ∧ s.strands.get? 2 = some (strandOf i) ∧ (strandOf i).pick = some (pickOf i) ∧
      wordDue (demo i) (strandOf i) (pickOf i) = true ∧ ((pickOf i).words[(pickOf i).pos]?).isSome = true ∧
      decode ((encode i).getD 0 0) ((encode i).getD 1 0) = some i) ∧
    (decode (litWord [0,1,0,1,1, 0,0,0, 0,0,0,0, 0,0,0,0,0, 0,0,0,0,0, 0,0,0,0,0]) 0 = none ∧
      Enc.guardOf (Enc.guardField (litWord [0,1,0,1,1, 0,0,0, 0,0,0,0, 0,0,0,0,0, 0,0,0,0,0, 0,0,0,0,0])) = some .always ∧
      badGuard (strandOf i) [0, 1] .always = none) ∧
    isWord (.calibration 0 0) = false := by decide +kernel

/-- Strands at a word: an invalid register behind the guard, no active lane, an undeclared tile, too few granules, a tile
still written, an invalid register. -/
theorem witness_WordsBeforeTheirEffect :
    let i : Instr := .mzr .always 3
    let j : Instr := .mov .always .t27 9 10
    let bare := { strandOf i with tiles := [] }
    let small := { strandOf j with granules := 1 }
    let broken := { strandOf j with bad := [⟨clsV, 0, 10⟩] }
    let busy : State := withOps (demo i) [opOf (.mma .always .f9 3 0 0 .regs .handle) .matrix]
    let act (i : Instr) (st : Strand) : List Nat := activeOf i st (pickOf i)
    (badGuard { strandOf i with bad := [⟨clsC, 1, 2⟩] } (pickOf i).lanes (.on 2 .gt)).isSome = true ∧
    (at_ (demo i) (strandOf i) (pickOf i) = true ∧ badGuard (strandOf i) (pickOf i).lanes (.on 0 .gt) = none ∧
      activeOf (.mzr (.on 0 .gt) 3) (strandOf i) (pickOf i) = []) ∧
    (at_ (stateOf bare) bare (pickOf i) = true ∧ activeOf i bare (pickOf i) ≠ [] ∧ tilesOk bare (uses i) = false) ∧
    (at_ (stateOf small) small (pickOf j) = true ∧ tilesOk small (uses j) = true ∧ allocOk small (uses j) = false) ∧
    (at_ busy (strandOf i) (pickOf i) = true ∧ allocOk (strandOf i) (uses i) = true ∧
      waitsFor busy 2 (strandOf i) (act i (strandOf i)) i = true) ∧
    (at_ (stateOf broken) broken (pickOf j) = true ∧ waitsFor (stateOf broken) 2 broken (act j broken) j = false ∧
      (invalidReg broken (act j broken) j).isSome = true) := by decide +kernel

/-- A canonical state whose next step writes host memory. -/
theorem witness_MemoryStaysCanonical :
    Memory.wf { demo (.nop .always) with agenda := [.hostWrite 5 [7, 0, 9]] } = true ∧
    ∃ t, step { demo (.nop .always) with agenda := [.hostWrite 5 [7, 0, 9]] } = .next t := ⟨by decide +kernel, _, rfl⟩

/-! ### Witnesses: words on registers and control. Those with no premise but that of issuing: `witness_…_words` above -/

theorem witness_SgnWritesSigns : Issues (.sgn .always .t9 4 4) (demo (.sgn .always .t9 4 4)) (strandOf (.sgn .always .t9 4 4))
    (pickOf (.sgn .always .t9 4 4)) := may_issue (by decide +kernel)

theorem witness_StrandValuesAndLanes :
    may (.sget .always 4 5) = true ∧ may (.sget .always 4 6) = true ∧
    strandValue (demo (.sget .always 4 6)) hostedWeave (strandOf (.sget .always 4 6)) 6 = some 0 ∧
    (let i : Instr := .sget .always 4 25
     let st := { strandOf i with tiles := [] }
     at_ (stateOf st) st (pickOf i) = true ∧ activeOf i st (pickOf i) ≠ [] ∧ st.tiles.get? (25 - 25) = none) := by decide +kernel

theorem witness_AddressRegisters :
    let far (i : Instr) : Strand := { strandOf i with a := [(4, half 44)] }
    may (.aadd .always 3 4 4) = true ∧ addAddr dataPtr 1 = some (dataPtr + 1) ∧ addAddr dataPtr (1 * 81) = some (dataPtr + 81) ∧
    (issues (.aadd .always 3 4 4) (stateOf (far (.aadd .always 3 4 4))) (far (.aadd .always 3 4 4))
      (pickOf (.aadd .always 3 4 4)) = true ∧ addAddr (half 44) 1 = none) ∧
    (issues (.lea .always .ln 3 4 4) (stateOf (far (.lea .always .ln 3 4 4))) (far (.lea .always .ln 3 4 4))
      (pickOf (.lea .always .ln 3 4 4)) = true ∧ addAddr (half 44) (1 * 81) = none) := by decide +kernel

theorem witness_BranchesAndCalls :
    let i : Instr := .ret .always 4
    let odd := (strandOf i).modThreads [1] fun _ t => t.vput 4 4
    may i = true ∧ (∀ l ∈ activeOf i (strandOf i) (pickOf i), ((strandOf i).thread l).vget 4 % 3 = 0) ∧
    issues i (stateOf odd) odd (pickOf i) = true ∧
    (activeOf i odd (pickOf i)).find? (fun l => (odd.thread l).vget 4 % 3 != 0) = some 1 := by decide +kernel

theorem witness_ThreadsSleepAndEnd :
    let e : Instr := .exit .always
    let flagged := { strandOf e with flags := true :: List.replicate 11 false }
    (may (.sleep .always 5) = true ∧ (strandOf (.sleep .always 5)).sget 5 ≤ 0) ∧
    (may (.sleep .always 4) = true ∧ 0 < (strandOf (.sleep .always 4)).sget 4) ∧
    (issues e (stateOf flagged) flagged (pickOf e) = true ∧ flagged.flags.any id = true) ∧
    (may e = true ∧ (strandOf e).flags.any id = false ∧ 2 < (strandOf e).threads.length ∧
      2 ∉ activeOf e (strandOf e) (pickOf e) ∧ ((strandOf e).thread 2).active = true) := by decide +kernel

/-- R22, R232: a strand whose other threads have ended; beside a strand of its weave, and as the last one, of a launch's last
weave, of a graph's last node. -/
theorem witness_ThreadsSleepAndEnd_ends :
    let e : Instr := .exit .always
    let st : Strand := { strandOf e with threads := (strandOf e).threads.zipIdx.map fun x => if x.2 < 2 then x.1 else { x.1 with status := .ended } }
    let act := activeOf e st (pickOf e)
    let l : Launch := { die := 0, ctx := 0, cmd := some 5, graph := none, recPtr := 0, record := [], level := 0, seq := 0, total := 1, next := 1 }
    let nd : Node := { recPtr := dataPtr, record := [], preds := [], succs := [], open_ := 1, started := true }
    let gr : Graph := { die := 0, ctx := 0, number := 0, nodes := [nd], running := some 5 }
    let wv : Weave := { hostedWeave with launch := 6 }
    let alone : State := { stateOf st with weaves := [(1, wv)], launches := [(6, l)] }
    let beside : State := { stateOf st with strands := [(2, st), (3, st)] }
    (issues e (stateOf st) st (pickOf e) = true ∧ st.flags.any id = false ∧ ((stateOf st).core st.core).growQ = [] ∧
      (∀ l, l < st.threads.length → l ∉ act → (st.thread l).active = false) ∧ (∃ l ∈ act, l < st.threads.length)) ∧
    (issues e beside st (pickOf e) = true ∧ beside.weaves.get? st.weave = some hostedWeave ∧
      (∃ x ∈ beside.strands, x.1 ≠ beside.cursor ∧ x.2.weave = st.weave)) ∧
    (issues e alone st (pickOf e) = true ∧ ¬ (∃ x ∈ alone.strands, x.1 ≠ alone.cursor ∧ x.2.weave = st.weave) ∧
      alone.launches.get? 6 = some l ∧ l.ended + 1 = l.total ∧ ({ l with total := 2 } : Launch).ended + 1 ≠ 2 ∧
      (alone.part wv.die wv.part).phase = .run ∧ isReady alone (alone.part wv.die wv.part).ctx = false ∧
      (∀ y ∈ alone.weaves, y.1 = st.weave)) ∧
    (gr.nodes[0]? = some nd ∧ nd.open_ = 1 ∧ nd.queue = [] ∧ nd.started = true ∧
      (∀ m ∈ List.range 1, ∀ x, gr.nodes[m]? = some x → m ≠ 0 → x.complete = true) ∧ (∀ m ∈ nd.preds, m ≠ 0) ∧ gr.running ≠ none) := by
  decide +kernel

theorem witness_BarrierWords :
    let i : Instr := .bar .always 3 4
    let marked := (strandOf i).modThreads [1] fun _ t => { t with marks := [3] }
    (may i = true ∧ hostedWeave.nstrands = 1 ∧ (strandOf i).sget 4 = 1 ∧ (hostedWeave.barrier 3).expected = none ∧
      ∀ l ∈ [0, 1], 3 ∉ ((strandOf i).thread l).marks) ∧
    (issues i (stateOf marked) marked (pickOf i) = true ∧ activeOf i marked (pickOf i) = [0] ++ 1 :: [] ∧
      3 ∉ (marked.thread 0).marks ∧ 3 ∈ (marked.thread 1).marks) ∧
    may (.barw .always 3) = true := by decide +kernel

theorem witness_BarrierWords_rounds :
    let i : Instr := .bar .always 3 4
    let mark (n : Nat) (x : Nat → TStatus) : Strand := { strandOf i with
      threads := (strandOf i).threads.zipIdx.map fun y => if y.2 < n then { y.1 with marks := [3], status := x y.2 } else { y.1 with status := x y.2 } }
    let done := mark 2 fun l => if l < 2 then TStatus.bar 3 else TStatus.ended
    let half_ := mark 1 fun l => if l < 1 then TStatus.bar 3 else TStatus.ready
    let wv (e a : Nat) : Weave := { hostedWeave with barriers := hostedWeave.barriers.set 3 { expected := some e, arrivals := a } }
    (¬ (∃ th ∈ (strandOf i).threads, th.status ≠ .absent ∧ 3 ∈ th.marks)) ∧
    ((∃ th ∈ done.threads, th.status ≠ .absent ∧ 3 ∈ th.marks) ∧
      (∀ th ∈ done.threads, th.status = .absent ∨ th.status = .ended ∨ 3 ∈ th.marks) ∧ arrivalTrit done 3 = 1) ∧
    ((∃ th ∈ half_.threads, th.status ≠ .absent ∧ 3 ∈ th.marks) ∧
      ¬ (∀ th ∈ half_.threads, th.status = .absent ∨ th.status = .ended ∨ 3 ∈ th.marks) ∧ arrivalTrit half_ 3 ≠ 1) ∧
    ((stateOf done).strands.get? 2 = some done ∧ ((wv 1 1).barrier 3).expected = some 1 ∧ 1 ≤ ((wv 1 1).barrier 3).arrivals ∧
      ((wv 0 0).barrier 3).expected = some 0 ∧ ∀ x ∈ (stateOf done).strands, x.2.weave = 1 → arrivalTrit x.2 3 = 1) ∧
    (¬ 1 ≤ ((wv 1 0).barrier 3).arrivals) := by decide +kernel

theorem witness_GrowAndShrink :
    let small (i : Instr) : Strand := { strandOf i with granules := 20 }
    let idle (i : Instr) : Bool := issues i (stateOf (small i)) (small i) (pickOf i)
    let k : Instr := .shrink .always 4
    let late := { strandOf k with
      threads := (strandOf k).threads.set 5 { status := .waiting { sp := true, locs := [2], ptr := 2, val := 1, dest := 240 } } }
    let full (i : Instr) : State := (stateOf (small i)).setCore 0 { growQ := [⟨5, 1, 0, []⟩] }
    (idle (.grow .always 2 8) = true ∧ 27 < 20 + 8) ∧
    (idle (.grow .always 2 7) = true ∧ 20 + 7 ≤ 27 ∧ ((stateOf (small (.grow .always 2 7))).core 0).growQ = [] ∧
      7 ≤ freeGranules (stateOf (small (.grow .always 2 7))) 0) ∧
    (issues (.grow .always 2 7) (full (.grow .always 2 7)) (small (.grow .always 2 7)) (pickOf (.grow .always 2 7)) = true ∧
      (small (.grow .always 2 7)).handler = false ∧ ((full (.grow .always 2 7)).core 0).growQ ≠ []) ∧
    (may k = true ∧ ∀ t ∈ (strandOf k).threads, t.status = .ready) ∧
    (issues k (stateOf late) late (pickOf k) = true ∧ 9 * max 1 (27 - 4) ≤ 240) := by decide +kernel

theorem witness_TrapsRaisedAndLeft :
    let t : Instr := .trap .always 9
    let b : Instr := .brk .always
    let r : Instr := .tret .always none
    let q : Instr := .tret .always (some 4)
    let growing := (strandOf t).modThreads [5] fun _ x => { x with status := .inGrow }
    let inside (i : Instr) : Strand := { strandOf i with cause := causeWord 2 9, mask := { global := true } }
    let armed := { strandOf b with mask := { brk := true } }
    (may t = true ∧ (strandOf t).mask.global = false ∧ ∀ x ∈ (strandOf t).threads, x.status ≠ .inGrow) ∧
    (issues t (stateOf growing) growing (pickOf t) = true ∧ (growing.threads.any fun x => decide (x.status = .inGrow)) = true) ∧
    (issues t (stateOf (inside t)) (inside t) (pickOf t) = true ∧ (inside t).mask.global = true) ∧
    (issues b (stateOf armed) armed (pickOf b) = true ∧ armed.mask.brk = true ∧ armed.mask.global = false) ∧
    (may b = true ∧ (strandOf b).mask.brk = false) ∧
    (may r = true ∧ causeKind (strandOf r).cause = 0) ∧
    (issues r (stateOf (inside r)) (inside r) (pickOf r) = true ∧ causeKind (inside r).cause ≠ 0 ∧
      ∀ l ∈ [0, 1], ((inside r).thread l).savedPc % 3 = 0) ∧
    (issues q (stateOf (inside q)) (inside q) (pickOf q) = true ∧ ∀ l ∈ [0, 1], ((inside q).thread l).vget 4 % 3 = 0) := by
  decide +kernel

theorem witness_TrapsRaisedAndLeft_odd :
    let inside (i : Instr) : Strand := { strandOf i with cause := causeWord 2 9, mask := { global := true } }
    let r : Instr := .tret .always none
    let odd : Strand := (inside r).modThreads [1] fun _ t => { t with savedPc := 4 }
    let q : Instr := .tret .always (some 4)
    let far : Strand := (inside q).modThreads [0] fun _ t => t.vput 4 5
    (issues r (stateOf odd) odd (pickOf r) = true ∧ causeKind odd.cause ≠ 0 ∧ activeOf r odd (pickOf r) = [0] ++ 1 :: [] ∧
      (odd.thread 0).savedPc % 3 = 0 ∧ (odd.thread 1).savedPc % 3 ≠ 0) ∧
    (issues q (stateOf far) far (pickOf q) = true ∧ causeKind far.cause ≠ 0 ∧
      activeOf q far (pickOf q) = [] ++ 0 :: [1] ∧ (far.thread 0).vget 4 % 3 ≠ 0) := by decide +kernel

/-! ### Witnesses: memory words -/

/-- A device word whose lanes pass their checks and have their homes at hand. -/
def allHere (i : Instr) : Bool :=
  may i && match memOf i with
    | none => false
    | some m => match checkLanes (wordOf i (demo i) (strandOf i) (pickOf i)) m with
      | .ok ls => (ls.all fun q => isHere q && !q.waits) && !ls.isEmpty
      | .error _ => false

def atomTerm (op : AtomOp) : AtomExt := ⟨op, .rlx, false, .cl, none⟩

theorem witness_DeviceWordsAct : [Instr.ldI .always .t9 4 4 1, .ldL .always .t27 4 4 ⟨some 9, 2, 5⟩, .stI .always .p 4 4 0,
    .stL .always .t3 4 4 ⟨none, 0, 7⟩, .lduI .always .t27 4 4 1, .lduL .always .p 4 4 8, .stuI .always .t9 4 4 1,
    .stuL .always .t27 4 4 9, .atom .always .t27 true 4 4 6 (atomTerm .add), .red .always .t9 false 4 4 (atomTerm .min),
    .acq .always .cl false 4 4 9, .rel .always .cl true 4 4 9].all allHere = true ∧
    ((demo (.ldI .always .t9 4 4 1)).core 0).dcache = [] := by decide +kernel

/-- A core that holds the line of the data word, older than its home, and a strand of one lane that loads from it. -/
theorem witness_DeviceWordsAct_hit :
    let i : Instr := .ldI .always .t27 4 4 0
    let p : Pick := { pickOf i with lanes := [0] }
    let st : Strand := { strandOf i with pick := some p }
    let l : DLine := { line := lineOf dataKey, trytes := List.replicate 81 7, keep := false }
    let s : State := (stateOf st).setCore 0 { dcache := [l] }
    issues i s st p = true ∧ (memOf i).any (fun m => decide (m.hint ≠ 3) && match checkLanes (wordOf i s st p) m with
      | .ok [q] => isHere q && !q.waits && (match q.target with
        | .here ks => decide (residentFor s st.core s.cursor m.hint (ks.map Prod.fst) = some [l])
        | .peer .. => false)
      | _ => false) = true := by decide +kernel

theorem witness_DeviceAddresses : allHere (.lduL .always .p 4 4 8) = true ∧ allHere (.stL .always .t3 4 4 ⟨some 9, 0, 7⟩) = true := by
  decide +kernel

/-- The store of lane 0 to the word after a pointer, in its strand and state. -/
def farStore : Instr := .stI .always .t27 4 4 1
def farStrand (p : Int) : Strand := { strandOf farStore with a := [(4, p)] }

/-- Faults of R253 and R275, one of each kind: a sum out of range, the reserved and the host selector, an odd address, a
pointer that translates to nothing, one to code, and a word whose slice holds two trits in error. -/
theorem witness_DeviceAddresses_faults :
    let s (p : Int) : State := stateOf (farStrand p)
    let code {α : Type} : Except Nat α → Nat
      | .error c => c
      | .ok _ => 0
    let pages (p : Int) : List Nat := (List.range 3).map fun (n : Nat) =>
      code (translate (s p) 0 .write (p + 3 + (n : Int)) (.core 0))
    let top : Int := -3 ^ 44 + half 44 - 1
    let b : State := (s dataPtr).modDie 0 fun d => { d with slices := [{ line := lineOf dataKey, set := 0, bad := [(14, 2)] }] }
    ([top, 3 ^ 44, 0, dataPtr + 1, -3 ^ 44 + 3 ^ 20, -3 ^ 44, dataPtr].all fun p =>
      issues farStore (s p) (farStrand p) (pickOf farStore)) = true ∧
    ((memOf farStore).any fun m => decide (m.want = .write ∧ m.size = 3 ∧ m.base = 4 ∧ m.disp (strandOf farStore) 0 = 3)) = true ∧
    fits 44 (addrOf top + 3) = false ∧
    (fits 44 (addrOf (3 ^ 44) + 3) = true ∧ spaceOf (3 ^ 44 + 3) = 1) ∧ spaceOf (0 + 3) = 0 ∧
    (spaceOf (dataPtr + 1 + 3) = -1 ∧ addrOf (dataPtr + 1 + 3) % 3 ≠ 0) ∧
    pages (-3 ^ 44 + 3 ^ 20) = [1, 1, 1] ∧ pages (-3 ^ 44) = [2, 2, 2] ∧ pages dataPtr = [0, 0, 0] ∧
    (issues farStore b (farStrand dataPtr) (pickOf farStore) = true ∧
      ((homeKeys b 0 .write (dataPtr + 3) 3 (.core 0)).toOption.any fun ks => brokenAt b (ks.map Prod.fst)) = true) := by
  decide +kernel

/-- Lanes 0 and 1 of a store that name two words, and one word. -/
theorem witness_StoresChangeTheirTrytes : allHere (.stI .always .t27 4 4 1) = true ∧
    allHere (.rel .always .cl false 4 4 9) = true ∧ Memory.wf (demo (.stI .always .t27 4 4 1)) = true ∧
    (memOf (.stI .always .t27 4 4 1)).all (fun m => decide (m.kind = .store)) = true := by decide +kernel

theorem witness_LoadsAndAtomicsRead :
    let i : Instr := .ldI .always .t27 4 4 1
    let a : Instr := .atom .always .t27 false 4 4 6 (atomTerm .cas)
    let ks : List (Nat × Bool) := [(dataKey, false), (dataKey + 1, false), (dataKey + 2, false)]
    (allHere i = true ∧ (memOf i).all (fun m => decide (m.kind = .load)) = true ∧ ((demo i).core 0).dcache = []) ∧
    (memOf a).all (fun m => decide (m.kind = .atomic) && decide (ks.length = m.size) &&
      decide (m.rmw 5 7 4 = none) && decide (m.rmw 5 7 5 = some 7)) = true ∧
    (ks.map Prod.fst).Nodup ∧ Memory.wf (demo a) = true := by decide +kernel

theorem witness_ScratchpadWords :
    let r : Instr := .ldsI .always true 4 5 3
    let w : Instr := .stsL .always false 4 5 ⟨some 9, 0, 78⟩
    may r = true ∧ may w = true ∧
    (∀ l ∈ ([0, 1] : List Nat), (windowAt hostedWeave 2 (2 * (3 + (l : Int))) 2 l).toOption = some (8 + 2 * l) ∧
      (readWindow [] hostedWeave.slots (8 + 2 * l)).isSome = true ∧ (readWindow [] hostedWeave.slots (9 + 2 * l)).isSome = true) ∧
    (windowAt hostedWeave 2 (1 * (0 + 78)) 1 0).toOption = some 80 ∧ inRegion hostedWeave.slots [] 80 = false ∧
    ((demo w).cluster 0).lostWord 80 = false := by
  decide +kernel

theorem witness_ScratchpadWords_faults :
    let wv := hostedWeave
    let ins (v n : Int) : Bool := fits 44 v && decide (trit 45 v 44 = 0) && decide ((wv.base : Int) ≤ v) &&
      decide (v + n ≤ ((wv.base + wv.len : Nat) : Int))
    let w : Instr := .stsI .always true 4 5 0
    let y : Slot := ⟨0, 2, 40, 50, 1⟩
    let cut : State := { demo w with weaves := [(1, { hostedWeave with slots := [none, some y, none] })] }
    let lost : State := (demo w).setCluster 0 { bad := [(5, 2)] }
    let at_ (l : Nat) : Option Nat := (windowAt hostedWeave 2 (2 * (0 + (l : Int))) 2 l).toOption
    (fits 44 (addrOf 2 + 3 ^ 44) = false) ∧ (fits 44 (addrOf 90 + 0) = true ∧ ins 90 1 = false) ∧
    (fits 44 (addrOf 2 + 78) = true ∧ ins 2 1 = true ∧ ins (2 + 78) 2 = false) ∧ (ins (2 + 77) 2 = true) ∧
    (issues w cut (strandOf w) (pickOf w) = true ∧ at_ 0 = some 2 ∧ at_ 1 = some 4 ∧ inRegion [none, some y, none] [] 2 = true) ∧
    (issues w lost (strandOf w) (pickOf w) = true ∧ activeOf w (strandOf w) (pickOf w) = [0] ++ 1 :: [] ∧
      (∀ n ∈ [0, 1], (lost.cluster 0).lostWord (2 + n) = false) ∧ (lost.cluster 0).lostWord 4 = false ∧
      (lost.cluster 0).lostWord 5 = true) := by decide +kernel

/-- The access of the only lane of an ldh whose bytes are here. -/
def hostAcc : Acc :=
  { group := 7, strand := 2, lane := 1, i := .ldh .always .i8 .t9 false 4 6 ⟨none, 0, 0⟩, w0 := 0, w1 := 0, addr := 64,
    kind := .load, size := 1, phase := .done, result := [200] }

theorem witness_HostWords :
    let i : Instr := .ldh .always .i16 .t9 true 4 6 ⟨none, 1, 4⟩
    let j : Instr := .sth .always .e32 .f27 false 4 6 ⟨some 9, 0, -16⟩
    let ok (i : Instr) : Bool := may i && match hostOf i with
      | none => false
      | some h => match [0, 1].mapM (checkHost (wordOf i (demo i) (strandOf i) (pickOf i)) h) with
        | .ok ls => !ls.isEmpty
        | .error _ => false
    (ok i = true ∧ ok j = true ∧ activeOf i (strandOf i) (pickOf i) = [0, 1]) ∧
    (ioDown (demo i) 0 = false ∧ (demo i).accs = [] ∧ (∀ a ∈ [64, 65, 66, 67], hostGranted
      ((demo j).modDie 0 fun d => { d with ats := [⟨5, 0, 4096, true, true⟩] }) 0 true a 1 = true)) ∧
    ((let s : State := { demo hostAcc.i with accs := [hostAcc] }
      groupOf s 7 = [hostAcc] ∧ s.strands.get? 2 = some (strandOf hostAcc.i)) ∧
      hostAcc.phase = .done ∧ hostAcc.replay = false ∧ hostAcc.strand = 2 ∧
      (strandOf hostAcc.i).pick = some (pickOf hostAcc.i) ∧
      fromHost .i8 .t9 (hostAcc.result.map Int.toNat) = .ok (-56)) ∧
    fromHost .packed .t9 [250, 0] = .bad 0 := by decide +kernel

theorem witness_CacheMaintenance :
    let c : Instr := .cwb .always 4 4
    (may (.dpf .always 4 4) = true ∧ spaceOf dataPtr = -1) ∧ (may (.dpf .always 6 4) = true ∧ spaceOf 64 ≠ -1) ∧
    (may (.cinv .always 6 4) = true ∧ spaceOf 64 = 0) ∧
    (may c = true ∧ 0 < (strandOf c).sget 4 ∧ may (.cinv .always 4 4) = true ∧
      ((linePtrs dataPtr 1).mapM fun q => (lineHome (demo c) 0 0 q).toOption).isSome = true) := by decide +kernel

theorem witness_WindowAtomics :
    let i : Instr := .atoms .always .p true 4 5 6 ⟨.add, .acq, true, .wv, some 9⟩
    may i = true ∧ ∀ l ∈ [0, 1], (windowAt hostedWeave 2 (2 * 0) 2 l).toOption = some 2 ∧
      ∀ k ∈ [0, 1], inRegion hostedWeave.slots [] (2 + k) = false ∧ windowBroken {} hostedWeave.slots (2 + k) = false := by
  decide +kernel

theorem witness_WindowAtomics_faults :
    let i : Instr := .atoms .always .p true 4 5 6 ⟨.add, .acq, true, .wv, some 9⟩
    let y : Slot := ⟨0, 30, 40, 1, 1⟩
    let slots : List (Option Slot) := [some y, none, none]
    let cut : State := { demo i with weaves := [(1, { hostedWeave with slots })] }
    let lost : State := (demo i).setCluster 0 { bad := [(3, 2)], scratch := [] }
    let full : State := (demo i).setCluster 0 { scratch := [(40, 27 * 3 ^ 22)] }
    (issues i lost (strandOf i) (pickOf i) = true ∧ (windowAt hostedWeave 2 0 2 0).toOption = some 2 ∧
      windowBroken (lost.cluster 0) hostedWeave.slots 2 = false ∧ windowBroken (lost.cluster 0) hostedWeave.slots 3 = true) ∧
    (issues i cut (strandOf i) (pickOf i) = true ∧ inRegion slots [] 2 = false ∧ inRegion slots [] 30 = true ∧
      inRegion slots (full.cluster 0).scratch 2 = true) ∧
    (windowAt hostedWeave 90 0 2 0).toOption = none := by decide +kernel

theorem witness_BindingsAndFences :
    let i : Instr := .bind .always 1 4 4 .die 6
    (may i = true ∧ (checkPtr dataPtr 0 false 3).toOption = some dataPtr ∧ spaceOf dataPtr = -1 ∧ (strandOf i).sget 6 = 200) ∧
    may (.bind .always 1 4 4 .die 5) = true ∧ may (.unbind .always 4 (some 4)) = true ∧ may (.unbind .always 4 none) = true ∧
    may (.fence .always .sys) = true ∧ (may (.fencex .always .copy .core) = true ∧ Path.copy ≠ .core) ∧
    may (.fencex .always .core .matrix) = true ∧ may (.fencex .always .core .copy) = true := by decide +kernel

theorem witness_WaitAndWake :
    let i : Instr := .waitw .always true 4 5 9
    let j : Instr := .waitw .always false 4 4 9
    let ks : List (Nat × Bool) := [(dataKey, false), (dataKey + 1, false), (dataKey + 2, false)]
    (may i = true ∧ (windowIndex hostedWeave 2 1).toOption = some 2 ∧ ((demo i).cluster 0).lostWord 2 = false) ∧
    (may j = true ∧ (checkPtr dataPtr 0 false 3).toOption = some dataPtr ∧
      (route (demo j) 0 .read dataPtr 3 (.core 0)).toOption = some (ks, .here ks) ∧
      tierWaits (demo j) (ks.map Prod.fst) = false ∧ brokenAt (demo j) (ks.map Prod.fst) = false) := by decide +kernel

/-- The read of a waitw that waits for its answer, which has come. -/
def waitRead (i : Instr) : Acc :=
  { group := 7, strand := 2, lane := 0, once := true, i, w0 := 0, w1 := 0, addr := dataPtr, kind := .load, size := 3,
    phase := .done, result := [5, 6] }

/-- A strand whose waitw has its answer; one that wakes a wait of another strand; and one on a word that is lost. -/
theorem witness_WaitAndWake_ends :
    let j : Instr := .waitw .always false 4 4 9
    let p : Pick := { pickOf j with busy := some 7 }
    let s : State := { stateOf { strandOf j with pick := some p } with accs := [waitRead j] }
    let w : Instr := .wake .always .cl true 5
    let x : Wait := { sp := true, locs := [2], ptr := 2, val := 1, dest := 4 }
    let q : Strand := { strandOf w with pick := none, threads := (strandOf w).threads.set 0 { status := .waiting x } }
    let lost : State := { (demo w).setCluster 0 { bad := [(2, 2)] } with strands := [(2, strandOf w), (8, q)] }
    (groupOf s 7 = [waitRead j] ∧ (waitRead j).i = j ∧ (waitRead j).phase = .done ∧ (waitRead j).result = 5 :: [6] ∧
      s.strands.get? 2 = some { strandOf j with pick := some p } ∧ p.busy = some 7) ∧
    (issues w lost (strandOf w) (pickOf w) = true ∧ lost.strands.get? 8 = some q ∧ (q.thread 0).status = .waiting x ∧
      x.ptr = (strandOf w).areg 5 ∧ covers lost .cl 2 (strandOf w) 8 q = true ∧ q.weave = (strandOf w).weave ∧
      waitLost lost 0 x = true) ∧
    (may w = true ∧ ∀ q ∈ (demo w).strands, ∀ th ∈ q.2.threads, th.status = .ready) ∧
    may (.wake .always .cl false 4) = true := by decide +kernel

/-- A launch record of 81 zero words but for what a test needs. -/
def recordWith (ws : List (Nat × Int)) : List Int := ws.foldl (fun r x => r.set x.1 x.2) (List.replicate 81 0)

theorem witness_EmitAndRegions :
    let i : Instr := .emit .always 2 4 0
    let nd : Node := { recPtr := dataPtr, record := recordWith [], preds := [], succs := [] }
    let l : Launch := { die := 0, ctx := 0, cmd := none, graph := some (0, 0), recPtr := 0, record := [], level := 0, seq := 0, total := 1 }
    let wv : Weave := { hostedWeave with succ := [1], launch := 6 }
    let s : State := { demo i with weaves := [(1, wv)], launches := [(6, l)],
                                   graphs := [(0, { die := 0, ctx := 0, number := 0, nodes := [nd, nd] })] }
    let at_ (a : Nat) (gs : Nat) : State × Strand :=
      let st := { strandOf (.emit .always 2 a 0) with granules := gs }
      ({ s with strands := [(2, st)] }, st)
    let z : Instr := .spz .always 1 (.configure 5 7 20 1)
    let st := { strandOf z with a := [(5, 2), (7, 40)] }
    (may i = true ∧ successor (demo i) hostedWeave 0 = none ∧ 4 < 9 * (strandOf i).granules) ∧
    ((let x := at_ 240 27
      issues (.emit .always 2 240 0) x.1 x.2 (pickOf (.emit .always 2 240 0)) = true ∧ (successor x.1 wv 0).isSome = true ∧
        243 < 240 + recSize nd.record) ∧
     (let x := at_ 4 1
      issues i x.1 x.2 (pickOf i) = true ∧ (successor x.1 wv 0).isSome = true ∧ 4 + recSize nd.record ≤ 243 ∧
        9 * 1 < 4 + recSize nd.record)) ∧
    (issues i s (strandOf i) (pickOf i) = true ∧ (successor s wv 0).isSome = true ∧
      4 + recSize nd.record ≤ 243 ∧ 4 + recSize nd.record ≤ 9 * (strandOf i).granules ∧ badRead (strandOf i) [0, 1] [rdV 4 (recSize nd.record)] = none) ∧
    may (.spz .always 2 .remove) = true ∧
    (issues z (stateOf st) st (pickOf z) = true ∧ (windowIndex hostedWeave 2 1).toOption = some 2 ∧
      (windowIndex hostedWeave 40 1).toOption = some 40 ∧
      ((stateOf st).cluster 0).lostWord 40 = false ∧ slotOk hostedWeave [] 1 ⟨(encode z).getD 1 0, 2, 40, 20, 1⟩ = true) := by
  decide +kernel

theorem witness_ClearTile : Issues (.mzr .always 8) (demo (.mzr .always 8)) (strandOf (.mzr .always 8))
    (pickOf (.mzr .always 8)) := may_issue (by decide +kernel)

/-- The same word while an mma on its tile is in flight. -/
theorem witness_ClearTile_waits :
    let i : Instr := .mzr .always 8
    let s := withOps (demo i) [opOf (.mma .always .w9 8 4 4 .regs (.map 3)) .matrix]
    (s.strands.get? s.cursor = some (strandOf i) ∧ (strandOf i).pick = some (pickOf i) ∧ (strandOf i).fault = none ∧
      (pickOf i).busy = none) ∧ activeOf i (strandOf i) (pickOf i) ≠ [] ∧ tilesOk (strandOf i) (uses i) = true ∧
    allocOk (strandOf i) (uses i) = true ∧ (s.ops.any fun o => opBlocks s.cursor (uses i) o.2) = true := by decide +kernel

theorem witness_TileMoves :
    let i : Instr := .mtag .always 3 4
    let tag : Int := (0 - 13) * 3 ^ 24 + (0 - 4) * 3 ^ 22 + (0 - 4) * 3 ^ 20
    let st := { strandOf i with s := [(4, tag)] }
    may (.mrd .always 4 3 (some 26)) = true ∧ may (.mrd .always 216 3 none) = true ∧
    (may (.mwr .always 3 4 (some 26)) = true ∧ ((strandOf (.mwr .always 3 4 (some 26))).tiles.get? 3).isSome = true) ∧
    may (.mwr .always 3 216 none) = true ∧
    (issues i (stateOf st) st (pickOf i) = true ∧ idx tag 24 3 = 0 ∧ idx tag 22 2 = 0 ∧ idx tag 20 2 = 0) ∧
    (may i = true ∧ 3 < idx 1 24 3) := by decide +kernel


/-! ### Witnesses: picks, waits, launches -/

/-- A clause of one word: header (both flags 0 and 1, no wait), then a nop. -/
def demoCode : List Int :=
  toTrytes 3 (litWord [-1, -1, -1, -1, -1, 0, 0, 0, 0, 0, 0, 0, 0, 0, 0, 0, 0, 0, 0, -1, 0, 0, -1, -1, -1, 0, 0]) ++
    toTrytes 3 ((encode (.nop .always)).getD 0 0)

/-- Threads 0 to 31 at code address 0, with no pick. -/
def idleStrand : Strand := { strandOf (.nop .always) with pick := none }
def codeState : State := { stateOf idleStrand with mem := demoMem.putRun (3 ^ 18 + (3 ^ 18 - 1) / 2) demoCode }

def clauseOf (s : State) (st : Strand) : Option (Except FaultInfo Clause) :=
  match standing s st with
  | .ready c => some c.clause
  | _ => none

/-- The same code in the second tier, behind a link in retraining. -/
def tierState : State :=
  { codeState with
    mem := (demoMem.putRun (3 * 59049 + 6 * 3280) (toTrytes 6 (entry 2 (3 ^ 50 + 3 ^ 48 + 3 ^ 15)))).putRun (3 ^ 25 + (3 ^ 18 - 1) / 2) demoCode
    links := [(2, { retraining := true })] }

theorem witness_PicksOpen :
    let e : State := stateOf idleStrand
    (leastBy (issuesBefore (rollWindow codeState 0)) (readyStrands (rollWindow codeState 0) 0) = some (2, idleStrand) ∧
      ((rollWindow codeState 0).core 0).issued.length < 2 ∧
      (clauseOf (rollWindow codeState 0) idleStrand).any (fun r => r.toOption.isSome) = true) ∧
    (leastBy (issuesBefore (rollWindow e 0)) (readyStrands (rollWindow e 0) 0) = some (2, idleStrand) ∧
      (clauseOf (rollWindow e 0) idleStrand).any (fun r => r.toOption.isNone) = true) ∧
    ((nextChoice tierState (tierState.weaveOf idleStrand) idleStrand).map fun c => match c.clause with
      | .ok _ => 1
      | .error f => f.code) = some 0 ∧
    (1536 ≤ ({ idleStrand with starve := 1536 } : Strand).starve) ∧
    ((({ codeState with cycle := 81 } : State).core 0).window ≠ windowOf { codeState with cycle := 81 } 0) := by decide +kernel

/-- A strand whose thread 0 stands so. -/
def withThread (t : TStatus) : Strand := { idleStrand with threads := idleStrand.threads.set 0 { status := t } }

theorem witness_WaitsEndAndTrapsAreTaken :
    let w : Wait := { sp := true, locs := [2], ptr := 2, val := 1, dest := 4 }
    let p := { idleStrand with pending := true, cause := 5 }
    let h := { idleStrand with heldTrap := some (5, [0]) }
    let t := { idleStrand with mask := { timer := true }, comparator := 0 }
    let r := { withThread .inTret with threads := List.replicate 32 { status := .inTret, inHandler := true } }
    ((withThread (.asleep 7)).thread 0).status = .asleep 7 ∧
    (7 : Int) ≤ counter { stateOf (withThread (.asleep 7)) with cycle := 7 } 0 ∧
    ((withThread (.waiting w)).thread 0).status = .waiting w ∧
    (w.asks = false ∧ w.places = [] ∧ waitLost (stateOf (withThread (.waiting w))) 0 w = false ∧
      waitValue (stateOf (withThread (.waiting w))) (withThread (.waiting w)) w ≠ w.val) ∧
    (let i : Instr := .waitw .always false 4 4 9
     let a : Wait := { w with asks := true, word := (encode i).headD 0 }
     ((withThread (.waiting a)).thread 0).status = .waiting a ∧ a.asks = true ∧ decode a.word 0 = some i) ∧
    ([p, h, t].all fun x => (lostWait (stateOf x) x).isNone && strandLive (stateOf x) x && atBoundary x && !x.mask.global &&
      x.threads.any Thread.active) = true ∧
    (p.pending = true ∧ p.heldTrap = none ∧ h.pending = false ∧ h.heldTrap = some (5, [0])) ∧
    (t.pending = false ∧ t.heldTrap = none ∧ t.mask.timer = true ∧ t.comparator ≤ counter (stateOf t) t.core) ∧
    (∃ th ∈ r.threads, th.status = .inTret) ∧
    (∀ th ∈ r.threads, th.inHandler = true → th.live = true → th.status = .inTret) := by decide +kernel

/-- A launch record of one weave of one thread, on the demo code, with no window. -/
def demoRecord : List Int :=
  recordWith ([(0, litWord ([-1, -1, -1, -1, -1, -1, -1, -1, -1, -1, -1, -1, -1, -1, -1, -1, -1, -1, -1] ++ List.replicate 8 0)),
    (1, loWord (-3 ^ 44)), (2, hiWord (-3 ^ 44)), (3, 81),
    (7, 1), (8, 1), (9, 1), (10, 1), (11, 1), (12, 1),
    (13, litWord ([-1, -1, -1] ++ List.replicate 24 0))])

/-- A context with that launch, holding partition 0, and nothing resident. -/
def launchState : State :=
  { codeState with
    strands := [], weaves := [],
    launches := [(6, { die := 0, ctx := 0, cmd := none, recPtr := dataPtr, record := demoRecord, level := 0, seq := 0, total := 1 })] }

/-- A binding entry: a cpf of no dimension, its register fields and guard 0. -/
def bindingTrytes : List Int :=
  let ws := encode (.cpf .always .t9 0 0 0 ⟨1, none, none, false, false, none, false⟩)
  let w := setField 27 (setField 27 (setField 27 (ws.getD 0 0) 10 5 0) 5 5 0) 0 5 0
  [w, ws.getD 1 0, loWord dataPtr, hiWord dataPtr].flatMap (toTrytes 3)

theorem witness_WeavesStart_prologue :
    let wv : Weave := { hostedWeave with ready := false, bindings := [dataPtr] }
    let b : State := { codeState with weaves := [(1, wv)], strands := [], mem := codeState.mem.putRun dataKey bindingTrytes }
    prologueRuns b wv = true ∧ prologueOp b 1 = none ∧
      (ctxWords b 0 dataPtr 27).toOption.map (fun ws => (bindingOp b 1 wv ws).2) = some none ∧
      (ctxWords codeState 0 (dataPtr + 81) 27).toOption.map (fun ws => (bindingOp b 1 wv ws).2) = some (some 12) ∧
      (ctxWords b 0 (3 ^ 40) 27).toOption.isNone = true := by
  decide +kernel

theorem witness_WeavesStart :
    let f : State := launchState.modPart 0 0 fun x => { x with phase := .free }
    let x : Launch := { die := 0, ctx := 1, cmd := none, recPtr := dataPtr, record := demoRecord, level := -13, seq := 0, total := 1 }
    let q : State := { launchState with cycle := 8000000, contexts := [(0, demoContext), (1, demoContext)], launches := [(6, x)] }
    let l : Launch := { die := 0, ctx := 0, cmd := none, recPtr := dataPtr, record := demoRecord, level := 0, seq := 0, total := 1 }
    let bad : Launch := { l with record := demoRecord.set 24 1 }
    let nd : Node := { recPtr := dataPtr, record := recordWith [(22, 5)], preds := [], succs := [], queue := [(0, [1])] }
    (partFree f 0 0 = true ∧ nextContext f 0 0 = some 0) ∧
    ((q.part 0 0).phase = .run ∧ (q.part 0 0).since + us (q.die 0).quantumUs ≤ q.cycle ∧
      (1 ∈ q.contexts.keys ∧ 1 / 256 = 0 ∧ 1 ≠ (q.part 0 0).ctx ∧ isReady q 1 = true ∧
        levelOf q 1 0 = levelOf q (q.part 0 0).ctx 0)) ∧
    (nd.queue = [(0, [1])] ∧ 0 + 2 * (recWord nd.record 22).toNat ≤ q.cycle) ∧
    (headLaunch launchState 0 = some (6, l) ∧ demoContext.status = .alive ∧ demoContext.images = [] ∧
      demoContext.stored = [] ∧ 0 ∈ partsOf launchState 0 ∧ (launchState.part 0 0).phase = .run ∧
      staggerOver launchState l = true ∧ reservedClear l.record = true ∧
      (chooseCluster launchState 0 (List.replicate (recStrands l.record) (recGranules l.record)) (recTiles l.record).length
        (recWindow l.record)).isSome = true) ∧
    (headLaunch { launchState with launches := [(6, bad)] } 0 = some (6, bad) ∧ bad.next = 0 ∧
      staggerOver launchState bad = true ∧ reservedClear bad.record = false) := by
  decide +kernel

theorem witness_WeavesStart_contents :
    let l : Launch := { die := 0, ctx := 0, cmd := none, recPtr := dataPtr, record := demoRecord, level := 0, seq := 0, total := 1 }
    ([0, 3] : List Nat)[1]? = some 3 ∧ l.graph = none ∧ ({ l with graph := some (0, 0) } : Launch).graph ≠ none ∧
      (launchState.cluster (16 * l.die + 0)).scratch.wf = true := by decide +kernel

/-! ### Witnesses: engines -/

/-- A 9 by 1 tile of T27F values with blocks of 9 points, in time order. -/
def demoDesc : Desc := { fmt := 5, spectral := false, block := 2, scale := 0, half_ := false, rows := 9, cols := 1 }
def otherPtr : Int := dataPtr + 810
def tileMem : Cells := demoMem.putRun dataKey (toTrytes 3 (descWord demoDesc))

/-- A pointer that the tables of `peerState` map to die 1's export 0, and the tables of both dies. -/
def peerPtr : Int := -3 ^ 44 + 2 * 3 ^ 18 + 81
def peerMem : Cells :=
  (demoMem.putRun (3 * 59049 + 6 * 3282) (toTrytes 6 (entry 3 (3 ^ 50 + 3 ^ 49)))).putRun (3 ^ 18 + (3 ^ 18 - 1) / 2 + 6 * 3280)
    (toTrytes 6 (handleEntry 1 1 true true 0 6561)) ++ demoMem.map fun x => (x.1 + 3 ^ 27, x.2)
def peerState : State :=
  { (stateOf idleStrand).modDie 1 fun d => { d with exports := [(0, (256, -3 ^ 44 + 3 ^ 18 - (3 ^ 18 - 1) / 2, 6561))] } with
    mem := peerMem, contexts := [(0, demoContext), (256, demoContext)] }

/-- A waitw on a word of another die. -/
theorem witness_WaitAndWake_peer :
    let i : Instr := .waitw .always false 4 4 9
    let st : Strand := { strandOf i with a := [(4, peerPtr)] }
    let s : State := { peerState with strands := [(2, st)] }
    issues i s st (pickOf i) = true ∧ (checkPtr peerPtr 0 false 3).toOption = some peerPtr ∧
      (route s 0 .read peerPtr 3 (.core 0)).toOption.any (fun r => !brokenAt s (r.1.map Prod.fst) &&
        !tierWaits s (r.1.map Prod.fst) && (match r.2 with | .peer .. => true | .here _ => false)) = true := by decide +kernel

theorem witness_CacheMaintenance_lines :
    let c : Instr := .cwb .always 4 4
    let st (p : Int) : Strand := { strandOf c with a := [(4, p)] }
    let bad : Int := -3 ^ 44 + 3 ^ 20
    (match translate (demo c) 0 .read dataPtr (.core 0) with | .ok (.home k _) => k == dataKey | _ => false) = true ∧
    (translate (demo c) 0 .read bad (.core 0)).toOption.isNone = true ∧ fits 44 (bad + 3 ^ 44) = true ∧
    (match translate peerState 0 .read peerPtr (.core 0) with | .ok (.peer o _ _) => o == 1 | _ => false) = true ∧
    fits 44 (half 44 + 3 ^ 44) = false ∧
    (issues c (stateOf (st (3 ^ 44))) (st (3 ^ 44)) (pickOf c) = true ∧ spaceOf (3 ^ 44) = 1 ∧ 0 < (st (3 ^ 44)).sget 4) ∧
    (issues c (stateOf (st bad)) (st bad) (pickOf c) = true ∧ spaceOf bad = -1 ∧ linePtrs bad 1 = [] ++ bad :: [] ∧
      (homeKeys (stateOf (st bad)) 0 .read bad 1 (.core 0)).toOption.isNone = true) := by decide +kernel

/-- An operation under 3, over the stored tile. -/
def engState (o : EngOp) : State := withOps { stateOf idleStrand with mem := tileMem } [o]

theorem witness_CopiesProceed :
    let f : Instr := .cpf .always .t9 4 4 4 ⟨1, none, none, false, false, none, false⟩
    let o : EngOp := { opOf f .copy with vd := dataPtr, block := [4, 1, 1] }
    let c : EngOp := { opOf (.cpt .always .t9 true 4 4 4 ⟨1, some .i8, none, false, false, none, false⟩) .copy with
      vd := dataPtr, va := 64, block := [4, 1, 1] }
    let m : EngOp := { opOf (.mld .always 4 4 false) .copy with va := dataPtr }
    let h : EngOp := { opOf (.thnd .always 4 4 0) .copy with va := dataPtr }
    let w : EngOp := { opOf (.cpw .always .wv false 4 4 false) .copy with vd := otherPtr, waits := [9] }
    let done : EngOp := { o with phase := .written }
    let down : State := { engState c with links := [(2, { down := true })] }
    (hasLine (engState o) 3 o = true ∧ copyTurn (engState o) 3 o = true ∧ usesHost o = false) ∧
    (hasLine down 3 c = true ∧ copyTurn down 3 c = true ∧ usesHost c = true ∧ ioWaits down 0 = false ∧ ioDown down 0 = true) ∧
    (hasLine (engState m) 3 m = true ∧ copyTurn (engState m) 3 m = true ∧ (mldRow (engState m) 3 m 4 false).toOption.isSome = true) ∧
    (opRuns (engState done) 3 done = true ∧ done.phase = .written ∧ (signalStep (engState done) 3 done).toOption.isSome = true) ∧
    (opRuns (engState w) 3 w = true ∧ w.phase ≠ .signalling ∧ (∀ n ∈ w.waits, (engState w).ops.get? n = none) ∧
      (writeSignal (engState w) 3 w false false w.vd w.sval).toOption.map Prod.snd = some true ∧
      (writeSignal (withOps peerState [w]) 3 w false false peerPtr w.sval).toOption.map Prod.snd = some false) ∧
    (opRuns (engState h) 3 h = true ∧ copyTurn (engState h) 3 h = true ∧ h.strand = some 2 ∧ lostReads (engState h) 3 = [] ∧
      h.got = [] ∧ (match (opDevice (engState h) h .read h.va (3 * 0) 3).toOption with
        | some (.dev _ ks ps) => (ps.all fun q => !isPeer q) &&
          (checkDesc (ofTrytes (readKeys (engState h) (ks.map Prod.fst)))).toOption.isSome
        | _ => false) = true) ∧
    (o.strand = some 2 ∧ (engState o).strands.get? 2 = some idleStrand ∧ ∀ th ∈ idleStrand.threads, th.status ≠ .exiting) := by
  decide +kernel

/-- What the next line of an operation under 3 comes to. -/
def demoRun (s : State) (o : EngOp) : Option Run :=
  (copyDst s o o.prog).toOption.map fun l =>
    runLine o (copyTotal s o) (lineKey o o.prog l) false (copyTotal s o - o.prog) []
      { out := LineOut.of s 3 o, e := o.prog, hit := o.hit, common := o.common }

def demoFill : EngOp :=
  { opOf (.cpf .always .t9 4 4 4 ⟨1, none, none, false, false, none, false⟩) .copy with vd := dataPtr, va := 5, block := [4, 1, 1] }

/-- A copy from a host address, or to one. -/
def hostCopy (to_ : Bool) (x : CopyCtl) : EngOp :=
  { opOf (.cpt .always .t9 false 4 4 4 x) .copy with
    vd := if to_ then 64 else dataPtr, va := if to_ then dataPtr else 64, block := [2, 2, 2], trapOk := true }

theorem witness_CopiesProceed_places :
    let s := engState demoFill
    let wv := hostedWeave
    let map : Int := 40 * 3 ^ 15 + 27 * 3 ^ 7 + (0 - 13) * 3 ^ 4
    let m : EngOp := { opOf (.cpm .always .t9 4 4 4 ⟨1, none, none, false, false, none, false⟩) .copy with
      vd := dataPtr, va := otherPtr, block := [2, 1, 1, 2, 0, 81, 0] }
    (s.weaves.get? demoFill.weave = some wv ∧ wv.base + wv.len ≤ 177147) ∧
    (fits 44 (2 + 5) = true ∧ (wv.base : Int) ≤ 2 + 5 ∧ (2 : Int) + 5 + 1 ≤ wv.base + wv.len) ∧ (fits 44 (2 + 100) = true ∧ (wv.base : Int) + wv.len < 2 + 100 + 1) ∧
    (readMap map (5 * 3 ^ 15)).isSome = true ∧ (demoFill.i = .cpf .always .t9 4 4 4 ⟨1, none, none, false, false, none, false⟩) ∧
    (m.i = .cpm .always .t9 4 4 4 ⟨1, none, none, false, false, none, false⟩ ∧ 2 ≤ 3 % 4 ∧ ¬ 2 ≤ 1 % 4 ∧ 1 / 4 = 0 ∧ 5 / 4 ≠ 0) := by
  decide +kernel

theorem witness_CopiesProceed_host :
    let i16 (o : EngOp) (bs : List (BitVec 8)) : State :=
      { (engState o).modDie 0 fun d => { d with ats := [⟨5, 0, 4096, true, true⟩] } with
        host := bs.zipIdx.map fun b => (64 + b.2, b.1) }
    let c : EngOp := hostCopy false ⟨1, some .i16, none, false, false, none, false⟩
    let p : EngOp := hostCopy false ⟨1, some .packed, none, false, false, none, true⟩
    let t : EngOp := hostCopy true ⟨1, some .i8, none, false, false, none, false⟩
    let y : State := i16 c [0x38, 0xFF, 0xE0, 0x2E]
    c.trapOk = true ∧ spaceOf c.va = 0 ∧ spaceOf c.vd ≠ 0 ∧ spaceOf t.vd = 0 ∧ spaceOf t.va ≠ 0 ∧
    (opHost y c c.va (2 * 0) 2 2).toOption = some 64 ∧ (opHost y c c.va (2 * 1 * 2) 2 2).toOption = some 68 ∧
    fromHost .i16 .t9 ((List.range 2).map fun n => hostByte y (64 + n)) = .ok (-200) ∧
    fromHost .i16 .t9 ((List.range 2).map fun n => hostByte y (66 + n)) = .range 9841 ∧
    fromHost .packed .t9 [250, 0] = .bad 0 ∧
    (∀ b ∈ (List.range 3).map (fun n => hostByte (i16 p [1, 2, 0x58]) (64 + n)), b ≤ 242) ∧
    (opHost y t t.vd 0 1 1).toOption = some 64 ∧ toHost .i8 .t9 100 = .ok [100] ∧ toHost .i8 .t9 200 = .range [127] ∧
    fits 9 (100 : Int) = true := by decide +kernel

theorem witness_CopiesProceed_grids :
    let i : Instr := .cpg .always .t9 false 4 4 4 ⟨2, .restrict, .zero, [false, false], none, false, false, .t9⟩
    let o : EngOp := { opOf i .copy with vd := dataPtr, va := otherPtr, block := [3, 3, 1, 1, 1, 3, 3, 3, 3] }
    let taps : Int := (0 - 13) * 3 ^ 19 + (0 - 13) * 3 ^ 16
    let s : State := (engState o).setCluster 0 { scratch := [(3, taps), (4, 5), (7, taps), (8, 2)] }
    let j : Nat := 3
    ((opWindow s o (o.block.getD 8 0) 0 12).toOption = some j ∧
      (∀ n ∈ List.range 2, (readTaps ((opWord s o (j + 4 * n)).toOption.getD 1) ((opWord s o (j + 4 * n + 1)).toOption.getD 1)
        ((opWord s o (j + 4 * n + 2)).toOption.getD 1) ((opWord s o (j + 4 * n + 3)).toOption.getD 1)).isSome = true)) ∧
    ((tableOf s o 2).toOption.map fun ts => ts.map fun y => (y.exp, y.centre, y.nums)) = some [(0, 0, [5]), (0, 0, [2])] ∧
    (match cpgTerms s o ⟨2, .restrict, .zero, [false, false], none, false, false, .t9⟩ 0 with
      | .ok [(y, .dev ..)] => y == FVal.fin 10 0
      | _ => false) = true ∧
    sumGroup [[.fin 10 0, .fin 7 (-1)]] = .val (.fin 70 (-1)) ∧ sumGroup [[.inf 1, .fin 2 0]] = .val (.inf 1) ∧
    sumGroup [[.inf 1, .fin 0 0]] = .invalid ∧ fits 9 (-5 : Int) = true ∧ (3 ^ 9 * 2 - 5 - (-5) : Int) % 3 ^ 9 = 0 := by decide +kernel

theorem witness_CopiesProceed_tiles :
    let st (x : MoveCtl) : EngOp := opOf (.mst .always .t27 false 4 4 x) .copy
    let x : MoveCtl := ⟨2, 2, false, false, none⟩
    let tag : Int := (0 - 13) * 3 ^ 24 + (0 - 4) * 3 ^ 22 + (0 - 4) * 3 ^ 20
    let strand : Strand := { idleStrand with tiles := idleStrand.tiles.map fun y => (y.1, { y.2 with attr := tag }) }
    let m : EngOp := { opOf (.mld .always 4 4 false) .copy with va := dataPtr, common := [descWord demoDesc] }
    let s : State := engState m
    ((tileOf (withOps (stateOf strand) [st x]) (st x) 4).any fun y =>
      decide (idx y.attr 22 2 ≤ 1 ∧ idx y.attr 20 2 ≤ 4 ∧ (idx y.attr 24 3, EType.t27, 3) ∈ [(0, EType.t27, 3)])) = true ∧
    (checkDesc (descWord { demoDesc with fmt := 3, block := 0, rows := 2, cols := 2 })).toOption.isSome = true ∧
    (checkDesc (descWord { demoDesc with fmt := 3, block := 4, half_ := true, rows := 2, cols := 2 })).toOption.isNone = true ∧
    (s.ops.get? 3 = some m ∧ m.common = [descWord demoDesc] ∧ (checkDesc (descWord demoDesc)).toOption = some demoDesc ∧
      demoDesc.cols ≤ 27 ∧ m.strand = some 2 ∧ s.strands.get? 2 = some idleStrand ∧
      (idleStrand.tiles.get? 4).any (fun y => y.w.wf) = true ∧
      (∀ j ∈ List.range demoDesc.cols, (mldElem (LineOut.of s 3 m) m false demoDesc 0 0 j).toOption = some 0) ∧
      (wantsPull s 3 m ((beforeStop ((rowWords demoDesc 0).map fun e => sideLoc s m .read false m.va e)).1)).isNone = true) := by
  decide +kernel

theorem witness_CopiesProceed_lines :
    let s := engState demoFill
    let r : Run := { out := LineOut.of s 3 demoFill, e := 0, hit := none, common := [] }
    let w : EngOp := { opOf (.cpf .always .t27 4 4 4 ⟨1, none, none, false, true, none, false⟩) .copy with vd := 2, va := 5, block := [4, 1, 1] }
    let far : EngOp := { demoFill with vd := -3 ^ 44 + 3 ^ 18 + (3 ^ 18 - 1) / 2 - 1 }
    let c : EngOp := hostCopy false ⟨1, some .i16, none, false, false, none, false⟩
    let high : State := { (engState c).modDie 0 fun d => { d with ats := [⟨5, 0, 4096, true, true⟩] } with host := [(64, 0xE0), (65, 0x2E)] }
    (s.ops.get? 3 = some demoFill ∧ (copyCheck s demoFill).toOption.isSome = true ∧ demoFill.buffer = none ∧ hostWants s demoFill 0 = none ∧
      0 < copyTotal s demoFill ∧ 0 < bufferRoom (elemType demoFill.i)) ∧
    (copySrc s demoFill 0).toOption = some [] ∧ Memory.wf s = true ∧ (s.cluster 0).scratch.wf = true ∧
    (match copyVal s demoFill r.common 0 [] with | .ok (.val y) => decide (y = 5) | _ => false) = true ∧
    (match (copyDst s demoFill 0).toOption with
      | some (.dev p ks ps) => decide (lostAt s demoFill (.dev p ks ps) = none) && !ps.any isPeer && decide (ks.map Prod.fst).Nodup
      | _ => false) = true ∧
    ((copyDst (engState w) w 0).toOption = some (.win 2) ∧ viewOf w.slots 2 = none ∧ lostAt (engState w) w (.win 2) = none) ∧
    (match copyVal high c [] 0 [] with | .ok (.keep a) => decide (a = 64) | _ => false) = true ∧
    ((demoRun s demoFill).any fun r => r.needs.isEmpty && (r.out.flush demoFill).2.isNone && (r.out.stores 3 demoFill).isEmpty &&
      (match r.stop with | .done => true | _ => false)) = true ∧
    ((demoRun (engState far) far).any fun r => r.needs.isEmpty && (r.out.flush far).2.isNone && (r.out.stores 3 far).isEmpty &&
      decide (0 < r.e) && r.out.sent.isEmpty && (match r.stop with | .stopped c _ => c != 0 | _ => false)) = true ∧
    far.fault = none := by decide +kernel

/-- How a transform that has taken its stages ends: its words are written, with this many requests to other dies, and
where there are none its signal follows. -/
def transformEnd (s : State) (o : EngOp) : Option Nat :=
  (transformDesc (LineOut.of s 3 o) o).toOption.bind fun d =>
    let r := writeWords o false o.vd 0 ((List.range d.2.words).map (outWord 1 demoDesc d.2 o.z)) { s }
    if r.2.isSome then none
    else if (r.1.flush o).2.isSome then none
    else (signalStep (fillPages (r.1.flush o).1 o 3 r.1.ptrs.eraseDups) 3 o).toOption.map fun _ => (r.1.stores 3 o).length

theorem witness_TransformsProceed_peer :
    let i : Instr := .xff .always .f9 false 4 4 ⟨true, false, false, none⟩
    let far : EngOp := { opOf i .transform with
      va := dataPtr, vd := peerPtr, prog := 3, block := [descWord demoDesc], z := List.replicate 18 0 }
    transformEnd { withOps peerState [far] with mem := peerMem.putRun dataKey (toTrytes 3 (descWord demoDesc)) } far =
      some 1 := by decide +kernel

/-- The second output word lies beyond the mapped page. -/
theorem witness_TransformsProceed_fault :
    let i : Instr := .xff .always .f9 false 4 4 ⟨false, false, false, none⟩
    let o : EngOp := { opOf i .transform with va := dataPtr, vd := -3 ^ 44 + 3 ^ 18 + (3 ^ 18 - 1) / 2 - 4, prog := 3,
                                              block := [descWord demoDesc], z := List.replicate 18 0 }
    let s := engState o
    ((transformDesc (LineOut.of s 3 o) o).toOption.any fun d =>
      let r := writeWords o false o.vd 0 ((List.range d.2.words).map (outWord 1 demoDesc d.2 o.z)) { s }
      opRuns s 3 o && (r.1.flush o).2.isNone && (r.1.stores 3 o).isEmpty &&
        r.2.any fun b => b.1 == 1 && b.2.1 != 0) = true := by decide +kernel

theorem witness_TransformsProceed :
    let i : Instr := .xff .always .f9 false 4 4 ⟨false, false, false, none⟩
    let o : EngOp := { opOf i .transform with va := dataPtr, vd := otherPtr }
    let p (n : Nat) : EngOp := { o with prog := n, block := [descWord demoDesc], z := List.replicate 18 0 }
    let w : EngOp := { p 3 with phase := .written }
    let locs (n : Nat) : Option (List Loc) := ((List.range n).mapM fun e => sideLoc (engState o) o .read false o.va e).toOption
    ([o, p 1, p 2, p 3].all (fun o => (transformOf o.i).isSome && opRuns (engState o) 3 o && decide (o.phase ≠ .signalling) &&
        transformTurn (engState o) o.cluster 3 &&
        decide ((transformDesc (LineOut.of (engState o) 3 o) o).toOption.map Prod.fst = some demoDesc))) = true ∧
    ((transformLoad (engState o) 3 o 1 ⟨false, false, false, none⟩).toOption.isSome = true ∧
      (locs 1).map (fun ls => (wantsPull (engState o) 3 o ls).isNone) = some true ∧
      (locs demoDesc.words).map (fun ls => (wantsPull (engState o) 3 o ls).isNone) = some true ∧
      (loadStore (LineOut.of (engState o) 3 o) o 1 false demoDesc).toOption.isSome = true) ∧
    demoDesc.block = 2 ∧ transformEnd (engState (p 3)) (p 3) = some 0 ∧
    (w.phase = .written ∧ (signalStep (engState w) 3 w).toOption.isSome = true) := by decide +kernel

theorem witness_ArrayProceeds :
    let i : Instr := .mma .always .f27 4 4 4 .regs (.map 0)
    let b : List Int := [0, 0, 27 * 3 ^ 7 - 13 * 3 ^ 4, 27 * 3 ^ 15]
    let o : EngOp := { opOf i .matrix with lanes := [0], regs := List.replicate 32 [0, 0, 0], block := b }
    let x : MmcCtl := ⟨.regs, .map 0, 0, 2, false, 0, 1⟩
    let m : EngOp := opOf (.mmc .always .f27 4 4 4 x) .matrix
    let c : EngOp := { m with lanes := [0], regs := List.replicate 32 [0, 0], block := b }
    let at_ (o : EngOp) : State := withOps (stateOf idleStrand) [o]
    let run (o : EngOp) : EngOp := { o with phase := .active }
    let held : State := (at_ o).setCore 0
      { latch := some ⟨1, .map 0, pairOf (b.getD 2 0) (b.getD 3 0), false, List.replicate 3 (List.replicate 27 0)⟩ }
    let late : State := { at_ o with cycle := 59049 }
    (matrixRuns (at_ o) o = true ∧ inFlight (at_ o) 3 = false ∧ matrixNext (at_ o) 0 3 = true ∧
      (startMma (at_ o) 3 o .f27 4 .regs (.map 0)).toOption.isSome = true) ∧
    (matrixRuns held o = true ∧ matrixNext held 0 3 = true ∧ (latchRows held o .f27 (.map 0)).isSome = true ∧
      (tileOf held o 4).any (fun t => (mmaAttr t.attr .f27).isSome) = true) ∧
    (matrixRuns (at_ c) c = true ∧ inFlight (at_ c) 3 = false ∧ matrixNext (at_ c) 0 3 = true ∧
      (startMmc (at_ c) 3 c .f27 4 x).toOption.isSome = true) ∧
    ((run o).unit = .matrix ∧ (run o).phase = .active ∧ (run o).strand = some 2 ∧ matrixRuns (at_ (run o)) (run o) = true ∧
      (tileOf (at_ (run o)) (run o) 4).any (fun t => (mmaAttr t.attr .f27).isSome) = true) ∧
    (let sum (errs : List SumError) := runPasses (at_ (run o)) (run o) errs
     (sum [] = true ∧ sum [⟨0, 0, 3, 1⟩] = false ∧ sum [⟨0, 0, 3, 13⟩] = true) ∧
      (tileOf (at_ (run o)) (run o) 4).isSome = true ∧ 1 ∉ (run o).lanes) ∧
    (let m : MmcIn := { lanes := [(0, [(([0], [0]), (List.replicate 27 0, List.replicate 27 0))])], cols := 27, scale := 0,
                        wptr := none, xptr := none }
     let e : EngOp := { run c with z := flatMmc m }
     runPasses (at_ e) e [⟨1, 0, 3, 1⟩] = false ∧ runPasses (at_ e) e [] = true) ∧
    (matrixRuns (at_ (run c)) (run c) = true ∧
      (tileOf (at_ (run c)) (run c) 4).any (fun t => (mmcAttr t.attr 0 x 0).isSome) = true ∧
      (tileOf (at_ (run c)) (run c) 5).any (fun t => (mmcAttr t.attr 1 x 0).isSome) = true) ∧
    ((3, o) ∈ late.ops ∧ o.fault = none ∧ o.issuedAt + 59049 ≤ (counter late 0).toNat ∧
      (2, idleStrand) ∈ late.strands ∧ idleStrand.core = 0 ∧ late.weaves.get? 1 = some hostedWeave ∧
      late.contexts.get? 0 = some demoContext ∧ demoContext.status = .alive) := by decide +kernel

theorem witness_MmaAddsProducts :
    let o : EngOp := { opOf (.mma .always .w9 4 4 4 .regs (.map 3)) .matrix with
      lanes := [0], z := List.replicate (32 * WF.aWords .w9 + formK .w9 * bWords .w9) 0 }
    let p : List Int := List.replicate 27 0
    let m : MmcIn := { lanes := [(0, [(([0], [0]), (p, p))])], cols := 27, scale := 0, wptr := none, xptr := none }
    (o.z.length = 32 * WF.aWords .w9 + formK .w9 * bWords .w9 ∧ ({} : Tile).w.wf = true ∧ 0 ∈ o.lanes ∧ 1 ∉ o.lanes ∧
      o.lanes.Nodup) ∧
    (m.cols ≤ 27 ∧ (m.lanes.map Prod.fst).Nodup ∧ m.lanes.map Prod.fst = [0]) := by decide +kernel

/-! ### Records in the demo tables -/

/-- Two pointers of one page. -/
def samePage (p q : Int) : Bool :=
  [(42, 2), (34, 8), (26, 8), (18, 8), (10, 8)].all fun x : Nat × Nat => field 45 p x.1 x.2 == field 45 q x.1 x.2

theorem walk_congr {s : State} {die : Nat} {root : List Int} {p q : Int} (h : samePage p q = true) :
    walk s die root q = walk s die root p := by
  simp [samePage] at h
  simp [walk, walkFields, h]

/-- Where a page with a leaf holds a pointer's tryte. -/
def pageKey (l : Leaf) (die : Nat) (q : Int) : Nat := memKey die (l.frame * 3 ^ 10 + pageOffset l q)

theorem translate_page {s : State} {ctx : Nat} {c : Context} {l : Leaf} {p q : Int} (hc : s.contexts.get? ctx = some c)
    (hw : walk s (ctx / 256) c.root p = .ok l) (h1 : l.peer = false) (h2 : l.r = true) (hp : samePage p q = true)
    (hb : backed s (ctx / 256) (l.frame * 3 ^ 10 + pageOffset l q) = true) :
    translate s ctx .read q = .ok (.home (pageKey l (ctx / 256) q) l.comp) := by
  simp [Sys2Proof.Machine.translate, leafFor, placeOf, tlbOf, walk_congr hp, hc, hw, h1, h2, pageKey, -Nat.reducePow, hb, Except.bind]

theorem mapM_except {α β ε : Type} {f : α → Except ε β} {g : α → β} {l : List α} (h : ∀ x ∈ l, f x = .ok (g x)) :
    l.mapM f = .ok (l.map g) := by
  induction l with
  | nil => simp [pure, Except.pure]
  | cons a l ih =>
    simp [List.mapM_cons, h a (by simp), ih fun x hx => h x (by simp [hx]), bind, Except.bind, pure, Except.pure]

/-- With no span stored, no line in a slice and every link up, no access is to a broken line. -/
theorem brokenAt_none {s : State} (hl : s.links = []) (hd : s.dies.all (fun d => d.spans.isEmpty && d.slices.isEmpty) = true)
    (ks : List Nat) : brokenAt s ks = false := by
  have h (n : Nat) : (s.die n).spans = [] ∧ (s.die n).slices = [] := by
    unfold State.die
    rw [List.getD_eq_getElem?_getD]
    cases h : s.dies[n]? with
    | none => exact ⟨rfl, rfl⟩
    | some d =>
      have := List.all_eq_true.mp hd d (List.mem_of_getElem? h)
      simpa using this
  simp [brokenAt, brokenKey, held, spanBroken, ioDown, State.link, hl, (h _).1, (h _).2, Tbl.get?]

/-- The words of a run within one readable page. -/
def pageWords (s : State) (l : Leaf) (die : Nat) (p : Int) (n : Nat) : List Int :=
  (List.range n).map fun (i : Nat) => ofTrytes ((List.range 3).map fun (j : Nat) => s.mem.get (pageKey l die (p + 3 * (i : Int) + (j : Int))))

theorem ctxWords_page {s : State} {ctx : Nat} {c : Context} {l : Leaf} {p : Int} {n : Nat}
    (hc : s.contexts.get? ctx = some c) (hw : walk s (ctx / 256) c.root p = .ok l) (h1 : l.peer = false) (h2 : l.r = true)
    (hb : ∀ ks, brokenAt s ks = false) (hp : ((List.range n).all fun (i : Nat) => (List.range 3).all fun (j : Nat) =>
      samePage p (p + 3 * (i : Int) + (j : Int)) &&
        backed s (ctx / 256) (l.frame * 3 ^ 10 + pageOffset l (p + 3 * (i : Int) + (j : Int)))) = true) :
    ctxWords s ctx p n = .ok (pageWords s l (ctx / 256) p n) := by
  unfold ctxWords pageWords
  refine mapM_except fun i hi => ?_
  have key : homeKeys s ctx .read (p + 3 * (i : Int)) 3 =
      .ok ((List.range 3).map fun (j : Nat) => (pageKey l (ctx / 256) (p + 3 * (i : Int) + (j : Int)), l.comp)) := by
    have ts : ((List.range 3).map fun (j : Nat) => translate s ctx .read (p + 3 * (i : Int) + (j : Int))) =
        (List.range 3).map fun (j : Nat) => .ok (.home (pageKey l (ctx / 256) (p + 3 * (i : Int) + (j : Int))) l.comp) := by
      refine List.map_congr_left fun j hj => ?_
      have := List.all_eq_true.mp (List.all_eq_true.mp hp i hi) j hj
      simp only [Bool.and_eq_true] at this
      exact translate_page hc hw h1 h2 this.1 this.2
    unfold homeKeys
    rw [ts]
    rfl
  rw [key]
  simp [readKeys, Function.comp_def, hb]

/-- The leaf of the data page, and where the words of a record under `dataPtr` lie. -/
def dataLeaf : Leaf :=
  { peer := false, big := true, r := true, w := true, x := false, comp := false, tiled := false, handle := 3280, frame := 13122 }

theorem ok_of_toOption {α ε : Type} {x : Except ε α} {a : α} (h : x.toOption = some a) : x = .ok a := by
  cases x with
  | error e => cases h
  | ok b => cases h; rfl

theorem toOption_of_ok {α ε : Type} {x : Except ε α} {a : α} (h : x = .ok a) : x.toOption = some a := by
  rw [h]; rfl

theorem demo_walk : walk { State.reset with mem := demoMem } 0 demoContext.root dataPtr = .ok dataLeaf :=
  ok_of_toOption (by decide +kernel)

/-- A record at `dataPtr` within the demo tables. -/
def recordMem (r : List Int) : Cells := demoMem.putRun dataKey (r.flatMap (toTrytes 3))

theorem data_page : ((List.range 81).all fun (i : Nat) => (List.range 3).all fun (j : Nat) =>
    samePage dataPtr (dataPtr + 3 * (i : Int) + (j : Int)) &&
      backed State.reset (0 / 256) (dataLeaf.frame * 3 ^ 10 + pageOffset dataLeaf (dataPtr + 3 * (i : Int) + (j : Int)))) = true := by
  decide +kernel

/-- A context with the demo tables reads the record that stands at `dataPtr`. -/
theorem reads_record {s : State} {c : Context} {r : List Int} (hr : s.record = State.reset.record)
    (hc : s.contexts.get? 0 = some c) (hw : walk s (0 / 256) c.root dataPtr = .ok dataLeaf)
    (hd : s.links = [] ∧ s.dies.all (fun d => d.spans.isEmpty && d.slices.isEmpty) = true)
    (h : pageWords s dataLeaf 0 dataPtr 81 = r) : ctxWords s 0 dataPtr 81 = .ok r := by
  have e (p : Nat) : backed s (0 / 256) p = backed State.reset (0 / 256) p := by
    unfold backed homeOf enabledSlices sliceEnabled shareOf; rw [hr]
  rw [ctxWords_page hc hw rfl rfl (brokenAt_none hd.1 hd.2) (by simp only [e]; exact data_page)]
  exact congrArg Except.ok h

/-! ### Witnesses: messages and halts -/

/-- The record of a handler of one thread. -/
def handlerRec : List Int :=
  demoRecord.set 0 (litWord ([-1, -1, 1, -1, -1, -1, -1, -1, -1, -1, -1, -1, -1, -1, -1, -1, -1, -1, -1] ++ List.replicate 8 0))

/-- Device memory with the record and a handler table, as it stands tryte by tryte. -/
def handlerMem : Cells :=
  [(78729, 2), (78734, -8748), (137778, 3), (137783, -8748), (196827, 6561), (196832, -7749), (196833, -6561),
   (196834, 1), (196838, -7695), (968551303, -6561), (968551304, -9841), (968551305, -8383), (968551310, -6561),
   (968551312, 81), (968551324, 1), (968551327, 1), (968551330, 1), (968551333, 1), (968551336, 1), (968551339, 1),
   (968551344, -9477), (968552113, 81), (968552115, 1), (968552117, -6561)]

theorem test_handlerMem : handlerMem =
    (demoMem.putRun dataKey (handlerRec.flatMap (toTrytes 3))).putRun (dataKey + 810) (toTrytes 6 dataPtr) := by decide +kernel

/-- Handler 0 of cluster 0 of die 0; its words as a strand on die 0 or, by handle 0, on die 1 names them. -/
def targetWord : Int := litWord (List.replicate 19 (-1) ++ List.replicate 8 0)

/-- Context 0 has that table; context 256, on die 1, imports its message handle, export 0 of die 0. -/
def messageState : State :=
  let far : Cells := (demoMem.putRun dataKey (toTrytes 6 (handleEntry 2 0 false false 0 0))).map fun x => (x.1 + 3 ^ 27, x.2)
  let s : State := stateOf idleStrand
  let c : Context := { demoContext with handlerTab := dataPtr + 810 }
  { s.modDie 0 fun d => { d with exports := [(0, (0, dataPtr, 1))] } with
    mem := handlerMem ++ far, contexts := [(0, c), (256, { demoContext with handleTab := dataPtr })],
    weaves := [(1, hostedWeave), (11, { hostedWeave with die := 1, ctx := 256 })] }

def nearMsg : EngOp := { opOf (.msg .always 4 4 .pkg 4) .message with sval := targetWord, block := [1, 2, 3, 4] }
def farMsg : EngOp := { nearMsg with die := 1, ctx := 256, weave := 11, cluster := 16, core := 64, strand := none }

/-- A packet that has come to its end at a die. -/
def pktAt (type : PktType) (src dst : Nat) : Packet :=
  { type, src, dst, at_ := dst, serves := 3, offset := leNat (wordBytes targetWord) }

/-- A handler's table and record are read by the tables of its context alone. -/
theorem handlerEntry_congr {s t : State} (ctx h : Nat) (h1 : t.contexts = s.contexts) (h2 : t.mem = s.mem)
    (h3 : t.dies = s.dies) (h4 : t.record = s.record) (h5 : t.links = s.links) :
    handlerEntry t ctx h = handlerEntry s ctx h := by
  cases s; cases t
  simp only at h1 h2 h3 h4 h5
  subst h1 h2 h3 h4 h5
  rfl

theorem messageState_context : messageState.contexts.get? 0 = some { demoContext with handlerTab := dataPtr + 810 } := rfl
theorem messageState_walk : walk messageState (0 / 256) demoContext.root dataPtr = .ok dataLeaf :=
  ok_of_toOption (by decide +kernel)
theorem messageState_words : pageWords messageState dataLeaf 0 dataPtr 81 = handlerRec := by decide +kernel
theorem messageState_table : ctxPair messageState (0 / 256) demoContext.root (dataPtr + 810 + 6 * (0 : Nat)) = .ok dataPtr :=
  ok_of_toOption (by decide +kernel)
theorem handlerRec_ok : devicePair dataPtr = true ∧ handlerRecord handlerRec = true ∧ dataPtr + 810 ≠ 0 := by decide +kernel

theorem messageState_record : ctxWords messageState 0 dataPtr 81 = .ok handlerRec :=
  reads_record (c := { demoContext with handlerTab := dataPtr + 810 }) rfl messageState_context messageState_walk
    ⟨rfl, by decide +kernel⟩ messageState_words

theorem handlerEntry_some {s : State} {ctx h : Nat} {c : Context} {p : Int} {r : List Int} (h1 : s.contexts.get? ctx = some c)
    (h2 : c.handlerTab ≠ 0) (h3 : ctxPair s (ctx / 256) c.root (c.handlerTab + 6 * h) = .ok p) (h4 : devicePair p = true)
    (h5 : ctxWords s ctx p 81 = .ok r) (h6 : handlerRecord r = true) : handlerEntry s ctx h = some (p, r) := by
  simp [handlerEntry, h1, h2, h3, h4, h5, h6, Except.toOption]

theorem messageState_handler : handlerEntry messageState 0 0 = some (dataPtr, handlerRec) :=
  handlerEntry_some messageState_context handlerRec_ok.2.2 messageState_table handlerRec_ok.1 messageState_record
    handlerRec_ok.2.1

theorem checkTarget_some {s : State} {o : EngOp} {sc : Scope} {t : Target} {ctx : Nat} (h1 : readTarget o.sval = some t)
    (h2 : targetCtx s o.ctx t = some ctx) (h3 : (handlerEntry s ctx t.handler).isSome = true)
    (h4 : ((enabledCores s (16 * t.die + t.cluster)).isEmpty || !scopeReaches sc o.die (o.cluster % 16) t) = false) :
    checkTarget s o sc = some (t, ctx) := by
  obtain ⟨e, he⟩ := Option.isSome_iff_exists.mp h3
  simp [checkTarget, h1, h2, he]
  simpa using h4

def msgState (o : EngOp) : State := withOps messageState [o]
def demoTarget : Target := ⟨0, 0, 0, 0⟩
def sentMsg : EngOp := { nearMsg with phase := .sent 0 }
def gotState (type : PktType) : State := { msgState { farMsg with phase := .sent 9 } with packets := [(9, pktAt type 1 0)] }
def noSlots (s : State) : State := s.modDie 0 fun d => { d with handlers := 0 }

/-- A message for handler 0 waits in the receive buffer of cluster 0. -/
def demoLetter : Letter := ⟨0, 0, [1, 2], 5⟩
def letterState (mem : Cells) : State := { messageState with mem }.setCluster 0 { inbox := [demoLetter] }
/-- The handler's record with a nonzero reserved word. -/
def brokenRec : List Int := handlerRec.set 24 1
def brokenMem : Cells := handlerMem.put (dataKey + 72) 1

theorem letter_words : pageWords (letterState brokenMem) dataLeaf 0 dataPtr 81 = brokenRec := by decide +kernel
theorem letter_table : ctxPair (letterState brokenMem) (0 / 256) demoContext.root (dataPtr + 810 + 6 * (0 : Nat)) = .ok dataPtr :=
  ok_of_toOption (by decide +kernel)
theorem letter_walk : walk (letterState brokenMem) (0 / 256) demoContext.root dataPtr = .ok dataLeaf :=
  ok_of_toOption (by decide +kernel)
theorem letter_handler : handlerEntry (letterState brokenMem) 0 0 = some (dataPtr, brokenRec) :=
  handlerEntry_some messageState_context handlerRec_ok.2.2 letter_table handlerRec_ok.1
    (reads_record (c := { demoContext with handlerTab := dataPtr + 810 }) rfl messageState_context letter_walk
      ⟨rfl, by decide +kernel⟩ letter_words) (by decide +kernel)

theorem witness_MessagesProceed_sent :
    ([nearMsg, farMsg, { nearMsg with sval := 1 }].all fun o =>
      opRuns (msgState o) 3 o && messageTurn (msgState o) 3 o && mayRetry (msgState o) o) = true ∧
    checkTarget (msgState nearMsg) nearMsg .pkg = some (demoTarget, 0) ∧ demoTarget.die = nearMsg.die ∧
    checkTarget (msgState farMsg) farMsg .pkg = some (demoTarget, 0) ∧ demoTarget.die ≠ farMsg.die ∧
    checkTarget (msgState { nearMsg with sval := 1 }) { nearMsg with sval := 1 } .pkg = none :=
  have h (o : EngOp) : (handlerEntry (msgState o) 0 0).isSome = true := by
    rw [handlerEntry_congr (s := messageState) (t := msgState o) 0 0 rfl rfl rfl rfl rfl, messageState_handler]; rfl
  ⟨by decide +kernel, checkTarget_some (by decide +kernel) (by decide +kernel) (h _) (by decide +kernel), by decide +kernel,
    checkTarget_some (by decide +kernel) (by decide +kernel) (h _) (by decide +kernel), by decide +kernel, by decide +kernel⟩

theorem witness_MessagesProceed_taken :
    let open_ (s : State) : Bool := decide ((s.cluster 0).inbox.length < 27) && decide (handlersOn s 0 < (s.die 0).handlers) &&
      (s.contexts.get? 0).any fun c => c.status == .alive
    (opRuns (msgState sentMsg) 3 sentMsg = true ∧ readTarget sentMsg.sval = some demoTarget ∧ demoTarget.die = sentMsg.die ∧
      open_ (msgState sentMsg) = true ∧ open_ (noSlots (msgState sentMsg)) = false) ∧
    ((arrived (gotState .message) 9 .message).isSome = true ∧
      (bytesWord (leBytes 6 (pktAt .message 1 0).offset)).bind readTarget = some demoTarget ∧
      open_ (dropPacket (gotState .message) 9) = true ∧ open_ (dropPacket (noSlots (gotState .message)) 9) = false) ∧
    ((arrived (gotState .messageAccepted) 9 .messageAccepted).isSome = true ∧
      ((dropPacket (gotState .messageAccepted) 9).ops.get? 3).isSome = true) ∧
    (arrived (gotState .messageRefused) 9 .messageRefused).isSome = true := by decide +kernel

theorem witness_MessagesProceed_opened :
    let s := letterState handlerMem
    ((s.cluster 0).inbox = [demoLetter] ∧ handlerPart s 0 0 0 = some 0 ∧ (handlerCore s 0).isSome = true ∧
      reservedClear handlerRec = true ∧ demoLetter.payload.length ≤ 80 ∧ (s.contexts.get? 0).any (fun c => c.status == .alive) = true) ∧
    (handlerPart (letterState brokenMem) 0 0 0 = some 0 ∧ (handlerCore (letterState brokenMem) 0).isSome = true ∧
      reservedClear brokenRec = false) ∧
    handlerPart (s.modPart 0 0 fun x => { x with phase := .halt 0 0 0 }) 0 0 0 = none := by decide +kernel

/-- The message handle behind a sender's target, in its context and in one without an import; and an export that has gone. -/
theorem witness_MessagesProceed_exports :
    let s := messageState
    let entryAt (ctx : Nat) (c : Context) : Option Int := (ctxPair s (ctx / 256) c.root (c.handleTab + 6 * 0)).toOption
    let far : Context := { demoContext with handleTab := dataPtr }
    (s.contexts.get? 256 = some far ∧ (entryAt 256 far).any (fun x => decide (field 54 x 51 3 = 2 ∧ field 54 x 48 3 = 0 ∧ sfield 54 x 0 8 = 0)) = true) ∧
    ((entryAt 0 { demoContext with handleTab := dataPtr }).any fun x => decide (field 54 x 51 3 ≠ 2)) = true ∧
    (entryAt 0 { demoContext with handleTab := 3 ^ 40 }).isNone = true ∧
    (((dropPacket (gotState .message) 9).die 0).exports.get? 0).isSome = true ∧
    ((((dropPacket (gotState .message) 9).modDie 0 fun d => { d with exports := [] }).die 0).exports.get? 0) = none := by decide +kernel

theorem witness_FaultHaltsContext :
    let s := codeState
    s.contexts.get? 0 = some demoContext ∧ demoContext.status = .alive ∧ halting (s.part (0 / 256) 0) = false ∧
    0 / 256 < s.dies.length ∧ (s.die (0 / 256)).parts.length = 3 ∧ s.strands.get? 2 = some idleStrand ∧ 0 ∈ partsOf s 0 ∧
    halting ((s.modPart 0 0 fun x => { x with phase := .halt 0 0 2 }).part 0 0) = true ∧
    (withOps s [nearMsg]).ops.get? 3 = some nearMsg := by decide +kernel

/-- A context header record with a nonzero reserved word. -/
def strangeImage : Image := { ctx := 0, words := (81 - 13 * 3 ^ 24 - 13 * 3 ^ 21) :: List.replicate 80 1, kept := [] }

theorem witness_HaltsProceed :
    let at_ (ph : PartPhase) (cycle : Nat) : State := { codeState.modPart 0 0 (fun x => { x with phase := ph }) with cycle }
    let ended (s : State) : Bool := !matrixPending s ((residents s 0 0).map Prod.fst)
    let o : EngOp := opOf (.cpf .always .t9 4 4 4 ⟨1, none, none, false, false, none, false⟩) .copy
    let c : Context := { demoContext with images := [.shadow 0] }
    let r : State := { codeState with contexts := [(0, c)], strands := [], weaves := [] }
    let late : State := withOps { codeState with cycle := 1594323 } [o]
    let wild : State := r.modPart 0 0 fun x => { x with shadow := some strangeImage }
    0 < codeState.dies.length ∧ 0 < (codeState.die 0).parts.length ∧
    ((at_ (.drain 7) 7).part 0 0).phase = .drain 7 ∧
    ([0, 2, 4].all fun q => decide (((at_ (.halt 5 9 q) 12005).part 0 0).phase = .halt 5 9 q) && ended (at_ (.halt 5 9 q) 12005) &&
      decide (5 + 12000 ≤ clockTime (at_ (.halt 5 9 q) 12005) ((at_ (.halt 5 9 q) 12005).part 0 0).clock)) = true ∧
    ((partsOf (at_ (.halt 5 9 0) 12005) 0).filter fun p => match ((at_ (.halt 5 9 0) 12005).part 0 p).phase with
      | .halt _ _ 0 => true
      | _ => false) = [0] ∧
    ((at_ (.imaging 5 9) 5).part 0 0).phase = .imaging 5 9 ∧ ((at_ (.imaging 9 5) 5).part 0 0).phase = .imaging 9 5 ∧
    (r.contexts.get? 0 = some c ∧ c.status = .alive ∧ c.images ≠ [] ∧ 0 ∈ partsOf r 0 ∧ (r.part 0 0).phase = .run ∧
      reservedSet r 0 c = false ∧ (readImages r 0 c).isNone = true) ∧
    (wild.contexts.get? 0 = some c ∧ 0 ∈ partsOf wild 0 ∧ (wild.part 0 0).phase = .run ∧ reservedSet wild 0 c = true) ∧
    (readImages { r with contexts := [(0, { demoContext with stored := [⟨hostedWeave, [], [], []⟩] })] } 0
      { demoContext with stored := [⟨hostedWeave, [], [], []⟩] }).isSome = true ∧
    (codeState.contexts.get? 0 = some demoContext ∧ demoContext.watchdog = some 4000000000 ∧
      demoContext.progress + 4000000000 ≤ ({ codeState with cycle := 4000000000 } : State).cycle ∧
      ∃ w ∈ codeState.weaves, w.2.ctx = 0) ∧
    (late.ops.get? 3 = some o ∧ o.unit = .copy ∧ isCpw o.i = false ∧ o.phase = .queued ∧ late.accs = [] ∧
      opLives late o = true ∧ o.movedAt + 1594323 ≤ (counter late o.core).toNat) := by decide +kernel

theorem witness_HaltsProceed_records :
    let o : EngOp := opOf (.cpf .always .t9 4 4 4 ⟨1, none, none, false, false, none, false⟩) .copy
    let s : State := withOps codeState [o]
    let x : FaultInfo := { code := 4, addr := some 7 }
    let c : Context := { demoContext with fault := some x, faultStrand := some 2, stopSize := 6000 }
    let f : Strand := { idleStrand with fault := some x, replay := [{ lane := 0, once := false, w0 := 0, w1 := 0, addr := 0, data := 0, expect := 0 }] }
    let h : Halted := { id := 1, weave := hostedWeave, strands := [(2, f)], ops := [(3, o)] }
    let r : State := { s with contexts := [(0, c)], strands := [(2, f)] }
    (hostedWeave.failed = false ∧ f.fault = some x ∧ ({ hostedWeave with failed := true } : Weave).failed = true ∧
      idleStrand.fault = none ∧ c.fault = some x) ∧
    (fits 27 idleStrand.stall = true ∧ hostedWeave.slots.length = 3 ∧ hostedWeave.exts.length = 3) ∧
    ((([h].flatMap fun h => h.strands.map Prod.fst)).Nodup ∧ h.strands[0]? = some (2, f) ∧ o.strand = some 2 ∧
      c.faultOp = none ∧ c.faultStrand = some 2 ∧ faultIn demoContext [{ h with strands := [(2, idleStrand)] }] = false) ∧
    ((settleHalt r ([0].flatMap fun p => (residents r 0 p).map Prod.fst)).contexts.get? 0).isSome = true ∧
    (0 < s.dies.length ∧ 0 < (s.die 0).parts.length ∧
      ((settleHalt s ((residents s 0 0).map Prod.fst)).contexts.get? 0).isSome = true) ∧
    (ctxWrite s 0 dataPtr [1, 2]).isSome = true ∧ (ctxWrite s 0 (3 ^ 40) [1, 2]).isNone = true ∧
    (retries s o = false ∧ s.accs = [] ∧ o.phase = .queued) := by decide +kernel

/-! ### Witnesses: the rim and peers -/

theorem witness_RimMoves :
    let p : Packet := { type := .acknowledgement, src := 0, dst := 1, at_ := 0, port := some 0, beats := 1 }
    let x : Link := { queue := [9] }
    let at_ (x : Link) (p : Packet) : State := { demo (.nop .always) with links := [(0, x)], packets := [(9, p)] }
    let q : Packet := { p with port := none }
    let full : State :=
      { at_ {} q with packets := [(9, q), (10, { p with at_ := 1, beats := 54 }), (11, { p with at_ := 1, beats := 6, channel := .e0 })] }
    (x.queue = [9] ∧ x.retraining = false ∧ x.down = false ∧ x.attempts < 8 ∧ beatGood [1] = false ∧
      (∀ b ∈ [0, 0], b = 0) ∧ x.beat + 1 < { p with beats := 2 }.beats ∧ p.beats ≤ x.beat + 1) ∧
    (((at_ x p).link 2).queue = [] ∧ 2 ≤ 2 % 4 ∧ beatGood [] = true) ∧ ({ x with attempts := 8 } : Link).attempts = 8 ∧
    ({ x with retraining := true } : Link).retraining = true ∧
    (q.at_ ≠ q.dst ∧ firstInOrder (at_ {} q) 9 q = true ∧ crossing (at_ {} q) q = false ∧
      nextChannel (at_ {} q) q (nextLink (at_ {} q) 0 0 1) = some .adaptive ∧
      crossing (at_ { down := true } q) q = true ∧ firstInOrder (at_ { down := true } q) 9 q = true) ∧
    (firstInOrder full 9 q = true ∧ crossing full q = false ∧ nextChannel full q (nextLink full 0 0 1) = none ∧
      q.channel = .adaptive ∧ { q with waits := true }.waits = true) := by decide +kernel

theorem witness_PeerRequestsServed :
    let w := encode (.ldI .always .t27 4 4 1)
    let p : Packet :=
      { type := .read, src := 1, dst := 0, at_ := 0, requester := 128, w0 := w.getD 0 0, w1 := w.getD 1 0, size := 3 }
    let at_ (p : Packet) (t : Tracker) : State := (({ demo (.nop .always) with packets := [(9, p)] } : State).modDie 0 fun d =>
      { d with tracker := t, exports := [(0, (0, dataPtr - 81, 1))] })
    let taken (p : Packet) : State := (dropPacket (at_ p {}) 9).modDie 0 fun x => { x with tracker := x.tracker.decide_ 128 10 .accept }
    let full : Tracker := { entries := List.range 256 }
    let engine : Packet := { p with requester := 128 + 64 }
    ([p, { p with type := .write }, { p with type := .atomic }].all (fun p => decide (arrived (at_ p {}) 9 p.type = some p) &&
      (requestKeys (taken p) p).toOption.isSome && (requestKeys (taken p) { p with export_ := 5 }).toOption.isNone)) = true ∧
    (verdict {} 128 1 = .order ∧ verdict full 128 0 = .full ∧ verdict { full with recorded := [128] } 128 0 = .ticket 0 ∧
      verdict {} 128 0 = .accept ∧ p.requester % 128 < 64 ∧ ((decode p.w0 p.w1).bind requestOf).isSome = true ∧
      ((decode ((encode (.waitw .always false 4 4 9)).headD 0) 0).bind requestOf).isSome = true) ∧
    (arrived (at_ engine {}) 9 .read = some engine ∧ 64 ≤ engine.requester % 128 ∧
      (requestKeys (taken engine) engine).toOption.isSome = true) ∧
    ([.dataResponse, .acknowledgement, .refusal, .slotReady].all fun t =>
      (arrived (at_ { p with type := t } {}) 9 t).isSome) = true ∧
    (({ reserved := [(128, 0)] } : Tracker).reserved.find? (fun r => r.1 == 128) = some (128, 0) ∧
      0 + 6561 ≤ fabricCycle { demo (.nop .always) with cycle := 13122 }) := by decide +kernel

/-! ### Witnesses: the host interface -/

/-- A command of an opcode with its operand bytes from byte 24, at index 0 of a queue of die 0. -/
def cmdOf (op : Nat) (queue : Nat) (operands : List Nat) : Cmd :=
  let bytes := leBytes 2 op ++ [1, 0] ++ List.replicate 20 0 ++ operands
  { die := 0, queue, index := 0, bytes := bytes ++ List.replicate (64 - bytes.length) 0 }

def demoQueue : Queue := { ctx := 0, size := 64, ring := 4096, doneAddr := 64, pasid := 5, vector := 0, head := 1, tail := 2 }

/-- The data state with one command under 3: user queue 0 of die 0, or its admin ring, queue 1024. -/
def cmdState (c : Cmd) : State :=
  { stateOf idleStrand with queues := [(0, demoQueue)], cmds := [(3, c)] }

/-- A translation of the first host page for PASID 5, read and write. -/
def withAts (s : State) : State := s.modDie 0 fun d => { d with ats := [⟨5, 0, 8192, true, true⟩] }
/-- The I/O link of die 0 is down, or in retraining. -/
def ioCut (s : State) : State := { s with links := [(2, { down := true })] }
def ioBusy (s : State) : State := { s with links := [(2, { retraining := true })] }

def starts (s : State) (c : Cmd) : Bool :=
  mayStart s c && (headerFault c).isNone && (ctxFault s c).isNone && decide (s.cmds.get? 3 = some c) && decide (c.phase = .fetched)

theorem witness_RegistersAndKicks :
    let on : Bar := { ready := true, ctl := 1, sizeNow := 64 }
    let good : Bar := { size := 64 }
    let err : Queue := demoQueue
    (on.ctl.testBit 0 = true ∧ on.error = false ∧ on.ready = true ∧ kickOf on.sizeNow on.head on.tail 64 = .raise 64 ∧
      kickOf on.sizeNow on.head on.tail 0 = .ignore ∧ kickOf on.sizeNow on.head on.tail 65 = .error) ∧
    (({} : Bar).ctl.testBit 0 = false ∧ { on with error := true }.error = true ∧ { on with ready := false }.ready = false) ∧
    (3 % 2 = 1 ∧ good.ctl.testBit 0 = false ∧
      (ringSize 64 4096 good.size && good.ring % 64 == 0 && good.doneAddr % 8 == 0) = true ∧
      (ringSize 64 4096 ({} : Bar).size && ({} : Bar).ring % 64 == 0 && ({} : Bar).doneAddr % 8 == 0) = false ∧
      0 < State.reset.dies.length) ∧
    (0x58 ∉ [0x10, 0x18, 0x20, 0x38, 0x40, 0x48, 0x50] ∧ 0 % 8 = 0 ∧ 0 < 0x100000 ∧ 0xFFFF8 % 8 = 0 ∧ 0xFFFF8 < 0x100000) ∧
    ((cmdState (cmdOf 0 0 [])).queues.get? (1025 * 0 + 0) = some err ∧ err.error = false ∧ err.closing = false ∧
      kickOf err.size err.head err.tail 65 = .raise 65 ∧
      kickOf err.size err.head err.tail 2 = .ignore ∧ kickOf err.size err.head err.tail 66 = .error ∧
      (cmdState (cmdOf 0 0 [])).queues.get? (1025 * 0 + 7) = none) ∧
    (1023 < 1024 ∧ 4 % 4096 ≠ 0) ∧
    (sub32 3 (2 ^ 32 - 1) = 4 ∧ kickOf 64 (2 ^ 32 - 1) 3 63 = .raise 63 ∧ kickOf 64 (2 ^ 32 - 1) 3 64 = .error ∧
      kickOf 64 (2 ^ 32 - 1) 3 2 = .ignore) := by decide +kernel

theorem witness_CommandsFetchedAndCompleted :
    let c := cmdOf 0 0 []
    let e : Cmd := { c with phase := .ended 0 0, bytes := c.bytes.set 8 64 }
    let two : State := { cmdState c with cmds := [(2, cmdOf 6 0 []), (3, { c with index := 1 })] }
    let lost : State := { cmdState c with contexts := [(0, { demoContext with status := .lost })] }
    let ring : Bar := { ready := true, ctl := 1, sizeNow := 64, tail := 1 }
    ((cmdState c).queues.get? 0 = some demoQueue ∧ demoQueue.error = false ∧ demoQueue.closing = false ∧
      sub32 demoQueue.tail demoQueue.head ≠ 0 ∧ demoQueue.io = .queued ∧ ioWaits (cmdState c) 0 = false ∧
      ioDown (cmdState c) 0 = false ∧ atsGrants (cmdState c) 0 5 false (4096 + 64) = false ∧
      atsGrants (withAts (cmdState c)) 0 5 false (4096 + 64) = true ∧ (cmdState c).mgmt.capture.armed = none) ∧
    (ring.ctl.testBit 0 = true ∧ ring.error = false ∧ sub32 ring.tail ring.head ≠ 0) ∧
    (mayStart (cmdState (cmdOf 9 0 [])) (cmdOf 9 0 []) = true ∧ headerFault (cmdOf 9 0 []) = some 5) ∧
    ((cmdState e).cmds = [(3, e)] ∧ e.phase = .ended 0 0 ∧ e.queue % 1025 ≠ 1024 ∧ e.io = .queued ∧ e.lost = [] ∧
      completionWants (cmdState e) e = some 64 ∧ completionWants (withAts (cmdState e)) e = none ∧
      (cmdState e).queues.get? e.queue = some demoQueue ∧ demoQueue.done = e.index ∧ e.index < 2 ^ 32 ∧ cmdStatus e = 64 ∧
      cmdInterrupt e = false ∧ cmdInterrupt { e with bytes := e.bytes.set 3 1 } = true) ∧
    (cmdOp c = 0 ∧ c.phase = .fetched ∧ starts (cmdState c) c = true) ∧
    mayStart two { c with index := 1 } = false ∧
    (headerFault c = none ∧ userOp 0 = true ∧ ctxFault lost c = some 3 ∧ mayStart lost c = true) := by decide +kernel

/-! ### Witnesses: commands -/

/-- Bytes 24 to 31 that name a device address. -/
def addrBytes (p : Int) : List Nat := leBytes 8 (p + 3 ^ 44).toNat

/-- A command meets what `CommandRuns` asks for, and `ok` holds as its body sees it. -/
def runs (op : Nat) (s : State) (c : Cmd) (ok : Cmd → State → Bool) : Bool :=
  decide (s.cmds.get? 3 = some c) && decide (cmdOp c = op) &&
    (decide (c.phase = .started) || (decide (c.phase = .fetched) && mayStart s c && (headerFault c).isNone &&
      (!userOp op || (ctxFault s c).isNone))) &&
    ok (startedCmd op c) (begun op 3 s c)

theorem runs_sound {op : Nat} {s : State} {c : Cmd} {ok : Cmd → State → Bool} (h : runs op s c ok = true) :
    Starts op 3 s c ∧ ok (startedCmd op c) (begun op 3 s c) = true := by
  simp only [runs, Bool.and_eq_true, decide_eq_true_eq, Bool.or_eq_true, Bool.not_eq_true', Option.isNone_iff_eq_none] at h
  obtain ⟨⟨⟨h1, h2⟩, h3⟩, h4⟩ := h
  refine ⟨⟨h1, h2, h3.imp id fun h => ⟨h.1.1.1, h.1.1.2, h.1.2, fun hu => ?_⟩⟩, h4⟩
  rcases h.2 with h | h
  · rw [hu] at h; cases h
  · exact h

/-- A record of a graph's node: one record per weave, queue of one, a window word for it. -/
def nodeRec : List Int :=
  (((demoRecord.set 0 (litWord ([-1, -1, 0] ++ List.replicate 16 (-1) ++ List.replicate 8 0))).set 14 1).set 21 (3 ^ 18 + 3 ^ 9)).set 22 1
    |>.set 23 (3 ^ 9 - 13 * 3 ^ 24)

/-- The launch state's command: LAUNCH or GRAPH_CREATE of the record at `dataPtr`. -/
def launchCmd : Cmd := cmdOf 1 0 (addrBytes dataPtr)
def createCmd : Cmd := cmdOf 2 0 (addrBytes otherPtr ++ [1, 0])
def recordState (c : Cmd) (r : List Int) : State :=
  { cmdState c with mem := (recordMem r).putRun (dataKey + 810) (toTrytes 6 dataPtr) }

theorem launch_record : recordAt (begun 1 3 (recordState launchCmd demoRecord) launchCmd) 0 dataPtr = some demoRecord := by
  rw [recordAt, if_neg (by decide +kernel)]
  exact toOption_of_ok (reads_record (c := demoContext) rfl (by decide +kernel) (ok_of_toOption (by decide +kernel))
    ⟨rfl, by decide +kernel⟩ (by decide +kernel))
theorem launch_handler : recordAt (begun 1 3 (recordState launchCmd handlerRec) launchCmd) 0 dataPtr = some handlerRec := by
  rw [recordAt, if_neg (by decide +kernel)]
  exact toOption_of_ok (reads_record (c := demoContext) rfl (by decide +kernel) (ok_of_toOption (by decide +kernel))
    ⟨rfl, by decide +kernel⟩ (by decide +kernel))
theorem create_record : recordAt (begun 2 3 (recordState createCmd nodeRec) createCmd) 0 dataPtr = some nodeRec := by
  rw [recordAt, if_neg (by decide +kernel)]
  exact toOption_of_ok (reads_record (c := demoContext) rfl (by decide +kernel) (ok_of_toOption (by decide +kernel))
    ⟨rfl, by decide +kernel⟩ (by decide +kernel))

theorem buildNodes_one {s : State} {ctx : Nat} {p : Int} {r : List Int} (h1 : recordAt s ctx p = some r)
    (h2 : recordStatus s ctx 1 r = none) (h3 : recW r * recSize r ≤ recWindow r) (h4 : recSuccs r = 0) :
    buildNodes s ctx [p] = .ok [{ recPtr := p, record := r, preds := [], succs := [] }] := by
  have h5 : ¬ recWindow r < recW r * recSize r := Nat.not_lt.mpr h3
  simp [buildNodes, h1, h2, h5, h4, succNodes, List.range_succ, bind, Except.bind, pure, Except.pure]

def waitCmd : Cmd := cmdOf 6 0 (addrBytes dataPtr ++ leBytes 8 0)
def copyCmd (queue count : Nat) (dev : Int) : Cmd :=
  cmdOf 5 queue ([0, 1, 2, 0] ++ List.replicate 4 0 ++ leBytes 8 64 ++ addrBytes dev ++ leBytes 8 count)
def copyOk (f : CopyArgs → Bool) (c : Cmd) (s : State) (down : Bool := false) : Bool :=
  (copyArgs c).any f && (c.io == .queued || c.io == .active) && !ioWaits s c.die && ioDown s c.die == down
def graphCmd (op : Nat) : Cmd := cmdOf op 0 [0, 0]
def graphState (c : Cmd) (running : Option Nat) : State :=
  { cmdState c with graphs := [(0, { die := 0, ctx := 0, number := 0, nodes := [], running })] }
/-- A SIGNAL behind another command of its queue. -/
def signalCmd : Cmd := { cmdOf 7 0 (addrBytes dataPtr ++ leBytes 8 0) with index := 1 }
def signalState (p : CmdPhase) : State := { cmdState signalCmd with cmds := [(2, { cmdOf 0 0 [] with phase := p }), (3, signalCmd)] }
def mayLaunch (c : Cmd) (s : State) : Bool := !c.taken && !codeHeld s (actsFor c) && firstTaken s c

theorem witness_UserCommands_launch :
    runs 0 (cmdState (cmdOf 0 0 [])) (cmdOf 0 0 []) (fun _ _ => true) = true ∧
    (runs 1 (recordState launchCmd demoRecord) launchCmd (fun c s => mayLaunch c s && operandPtr (cmdInt c 24) == some dataPtr &&
        (recordStatus s (actsFor c) 0 demoRecord).isNone && actsFor c == 0) = true ∧
      recordAt (begun 1 3 (recordState launchCmd demoRecord) launchCmd) 0 dataPtr = some demoRecord) ∧
    (runs 1 (recordState launchCmd handlerRec) launchCmd (fun c s => mayLaunch c s && operandPtr (cmdInt c 24) == some dataPtr &&
        recordStatus s (actsFor c) 0 handlerRec == some 1) = true ∧
      recordAt (begun 1 3 (recordState launchCmd handlerRec) launchCmd) 0 dataPtr = some handlerRec) ∧
    (runs 2 (recordState createCmd nodeRec) createCmd (fun c s => cmdNat c 32 2 == 1 && operandPtr (cmdInt c 24) == some otherPtr &&
        pairTable s (actsFor c) otherPtr 1 == some [dataPtr] && actsFor c == 0 && s.mgmt.capture.armed.isNone &&
        ((List.range 4096).find? fun k => (s.graphs.get? (4096 * c.die + k)).isNone) == some 0) = true ∧
      buildNodes (begun 2 3 (recordState createCmd nodeRec) createCmd) 0 [dataPtr] =
        .ok [{ recPtr := dataPtr, record := nodeRec, preds := [], succs := [] }]) :=
  ⟨by decide +kernel, ⟨by decide +kernel, launch_record⟩, ⟨by decide +kernel, launch_handler⟩, by decide +kernel,
    buildNodes_one create_record (by decide +kernel) (by decide +kernel) (by decide +kernel)⟩

/-- Launches that an earlier one of their queue, or a CODE_LOAD of their context, holds back. -/
theorem witness_UserCommands_held :
    let first : Cmd := { launchCmd with phase := .started }
    let load : Cmd := { cmdOf 0x10C 1024 [0, 0] with phase := .started }
    let l : Cmd := { launchCmd with index := 1 }
    let g : Cmd := { graphCmd 3 with index := 1 }
    (runs 1 { cmdState l with cmds := [(2, first), (3, l)] } l fun c s => (operandPtr (cmdInt c 24)).isSome && !mayLaunch c s) = true ∧
    (runs 1 { cmdState launchCmd with cmds := [(2, load), (3, launchCmd)] } launchCmd fun c s =>
      (operandPtr (cmdInt c 24)).isSome && !mayLaunch c s) = true ∧
    (runs 3 { graphState g none with cmds := [(2, first), (3, g)] } g fun c s => decide (cmdNat c 24 2 < 4096) && !mayLaunch c s) =
      true := by decide +kernel

theorem witness_UserCommands :
    (runs 3 (graphState (graphCmd 3) none) (graphCmd 3) fun c s => mayLaunch c s &&
      (graphOf s c).toOption.any fun g => g.2.running.isNone) = true ∧
    (runs 3 (graphState (graphCmd 3) (some 2)) (graphCmd 3) fun c s => mayLaunch c s &&
      (graphOf s c).toOption.any fun g => g.2.running.isSome) = true ∧
    (runs 4 (graphState (graphCmd 4) none) (graphCmd 4) fun c s =>
      (graphOf s c).toOption.any fun g => g.2.running.isNone) = true ∧
    (runs 3 (graphState (cmdOf 3 0 [0, 16]) none) (cmdOf 3 0 [0, 16]) fun c _ => decide (4096 ≤ cmdNat c 24 2)) = true ∧
    (runs 6 (cmdState waitCmd) waitCmd fun c s => (wordKeys s (actsFor c) .read (cmdInt c 24)).any fun ks =>
      !tierWaits s (ks.map Prod.fst)) = true ∧
    (runs 6 (cmdState (cmdOf 6 0 [1])) (cmdOf 6 0 [1]) fun c s => (wordKeys s (actsFor c) .read (cmdInt c 24)).isNone) = true ∧
    (runs 7 (cmdState { waitCmd with bytes := waitCmd.bytes.set 0 7 }) { waitCmd with bytes := waitCmd.bytes.set 0 7 } fun c s =>
      fits 27 (cmdInt c 32) && (operandPtr (cmdInt c 24)).isSome && (earlier s c).all cmdOver &&
        (wordKeys s (actsFor c) .write (cmdInt c 24)).any fun ks => !tierWaits s (ks.map Prod.fst)) = true ∧
    (runs 7 (signalState .started) signalCmd fun c s =>
      fits 27 (cmdInt c 32) && (operandPtr (cmdInt c 24)).isSome && !(earlier s c).all cmdOver) = true ∧
    (runs 7 (cmdState (cmdOf 7 0 [1])) (cmdOf 7 0 [1]) fun c s => (earlier s c).all cmdOver &&
      (wordKeys s (actsFor c) .write (cmdInt c 24)).isNone) = true ∧
    (runs 7 (cmdState (cmdOf 7 0 (leBytes 8 0 ++ leBytes 8 (3 ^ 27)))) (cmdOf 7 0 (leBytes 8 0 ++ leBytes 8 (3 ^ 27))) fun c _ =>
      !fits 27 (cmdInt c 32)) = true ∧
    (runs 5 (cmdState (cmdOf 5 0 [9])) (cmdOf 5 0 [9]) fun c _ => (copyArgs c).isNone) = true ∧
    (runs 5 (cmdState (copyCmd 0 0 dataPtr)) (copyCmd 0 0 dataPtr) fun c s => copyOk (fun a => decide (a.count ≤ c.prog)) c s) = true ∧
    (runs 5 (cmdState (copyCmd 0 1 dataPtr)) (copyCmd 0 1 dataPtr) fun c s =>
      copyOk (fun a => decide (c.prog < a.count) && (copyWants s c a c.prog).isSome) c s) = true ∧
    (runs 5 (ioCut (cmdState (copyCmd 0 1 dataPtr))) (copyCmd 0 1 dataPtr) fun c s => copyOk (fun _ => true) c s true) = true ∧
    (runs 5 (cmdState (copyCmd 1024 1 0)) (copyCmd 1024 1 0) fun c s => copyOk (fun a => decide (c.prog < a.count) &&
      (copyWants s c a c.prog).isNone && !copyWaits s (actsFor c) a c.prog && (copyElem s (actsFor c) a c.prog).2.isNone) c s) = true ∧
    (runs 5 (cmdState (copyCmd 1024 2 dataPtr)) (copyCmd 1024 2 dataPtr) fun c s => copyOk (fun a => decide (c.prog + 1 < a.count) &&
      (copyWants s c a c.prog).isNone && !copyWaits s (actsFor c) a c.prog && (copyElem s (actsFor c) a c.prog).2.isSome) c s) = true ∧
    (runs 5 (cmdState (copyCmd 1024 1 dataPtr)) (copyCmd 1024 1 dataPtr) fun c s => copyOk (fun a => decide (c.prog + 1 = a.count) &&
      (copyWants s c a c.prog).isNone && !copyWaits s (actsFor c) a c.prog && (copyElem s (actsFor c) a c.prog).2.isSome) c s) = true := by
  decide +kernel

theorem witness_UserCommands_destroy :
    let c := graphCmd 4
    let run : Cmd := { graphCmd 3 with phase := .started }
    let held : State := { graphState c none with cmds := [(2, run), (3, { c with index := 1 })] }
    (runs 4 (graphState c none) c fun _ s => s.cmds.all fun x => cmdOp x.2 != 3) = true ∧
    (runs 4 held { c with index := 1 } fun c s => s.cmds.any fun x => cmdOp x.2 == 3 && x.2.phase == .started && !x.2.taken &&
      x.2.die == c.die && actsFor x.2 == actsFor c && cmdNat x.2 24 2 == cmdNat c 24 2) = true := by decide +kernel

/-- The admin state: a command of an opcode in the admin ring, and user queue 0 of context 0. -/
def adminOk (op : Nat) (operands : List Nat) (f : State → State) (ok : Cmd → State → Bool) : Bool :=
  runs op (f (cmdState (cmdOf op 1024 operands))) (cmdOf op 1024 operands) ok

def setCtx (c : Context) (s : State) : State := { s with contexts := [(0, c)] }
def live (c : Cmd) (s : State) : Bool := (liveCtx s c).toOption.isSome
def demoExport (s : State) : State := s.modDie 0 fun d => { d with exports := [(0, (0, dataPtr, 1))] }
def quiet (s : State) : State := { s with weaves := [], strands := [] }
/-- A context descriptor at physical address 0. -/
def descTrytes : List Int :=
  (List.replicate 18 0 ++ [loWord (-3 ^ 44), hiWord (-3 ^ 44), 27, 0, 0, loWord (-3 ^ 44), hiWord (-3 ^ 44), 0, 0]).flatMap (toTrytes 3)
def withDesc (s : State) : State := { s with mem := Cells.putRun [] 0 descTrytes ++ s.mem }

theorem witness_AdminCommands :
    let faulted : Context := { demoContext with status := .faulted }
    let spill : Cmd := { cmdOf 0x10D 1024 [0, 0] with phase := .started, taken := true }
    adminOk 0x100 (leBytes 8 64) id (fun _ _ => true) = true ∧
    adminOk 0x101 (leBytes 8 0) withDesc (fun c s => ((descriptorWords s c.die (cmdInt c 24)).bind fun ws =>
      (readContext s ws).map fun x => handlersOk s c.die x) == some true &&
      ((List.range 256).find? fun k => ctxFree s (256 * c.die + k)) == some 1) = true ∧
    adminOk 0x102 [0, 0] id (fun c s => decide (cmdNat c 24 2 ≤ 255) &&
      (s.contexts.get? (namedCtx c)).any fun x => x.status != .destroyed) = true ∧
    adminOk 0x103 [0, 0] (fun s => setCtx faulted (quiet s)) (fun c s => live c s && decide (cmdInt c 32 = 0) &&
      (partsOf s 0).all fun p => !halting (s.part c.die p)) = true ∧
    adminOk 0x103 [0, 0] id (fun c s => (liveCtx s c).toOption.any fun x =>
      x.2.status == .alive && x.2.images.isEmpty && x.2.stored.isEmpty && decide (cmdInt c 32 = 0)) = true ∧
    adminOk 0x103 [0, 0, 0, 0, 0, 0, 0, 0, 1] (setCtx { demoContext with images := [.shadow 0] }) (fun c s =>
      (liveCtx s c).toOption.any fun x => x.2.status == .alive && !x.2.images.isEmpty && (operandPtr (cmdInt c 32)).isSome) = true ∧
    adminOk 0x10D [0, 0] id (fun c s => live c s && !c.taken) = true ∧
    runs 0x10D (cmdState spill) spill (fun c s => live c s && c.taken && ((partsOf s 0).all fun p => !halting (s.part c.die p)) &&
      (List.range 3).all fun p => (s.part c.die p).shadow.isNone) = true ∧
    adminOk 0x104 ([0, 0, 6, 0] ++ List.replicate 4 0 ++ leBytes 8 64 ++ leBytes 8 8 ++ [5, 0, 0, 0, 0, 0]) id (fun c s =>
      live c s && cmdNat c 26 2 == 6 && cmdNat c 48 4 == 5 &&
        ((List.range 1024).find? fun k => (s.queues.get? (1025 * c.die + k)).isNone) == some 1) = true ∧
    adminOk 0x105 [0, 0] id (fun c s => (s.queues.get? (1025 * c.die + cmdNat c 24 2)).isSome &&
      s.cmds.all fun y => y.2.queue != 1025 * c.die + cmdNat c 24 2) = true ∧
    adminOk 0x106 ([0, 0] ++ List.replicate 6 0 ++ addrBytes dataPtr ++ leBytes 8 1) id (fun c s => live c s &&
      (operandPtr (cmdInt c 32)).any (fun b => fits 44 (addrOf b + cmdNat c 40 8 * 3 ^ 10 - 1)) && cmdNat c 40 8 == 1 &&
        ((List.range 6561).find? fun k => ((s.die c.die).exports.get? k).isNone) == some 0) = true ∧
    ([1, 2].all fun k => adminOk 0x107 [0, 0, k, 0, 3, 0, 0, 0, 0, 0]
      (fun s => setCtx { demoContext with handleTab := dataPtr } (demoExport s)) (fun c s => live c s && cmdNat c 26 1 == k &&
      ((s.die (cmdNat c 27 1)).exports.get? (cmdNat c 30 2)).any (fun e => e.2.2 == 1) &&
        (bqiWrite s 0 (dataPtr + 6 * (cmdNat c 32 2 : Int)) (toTrytes 6
          (if k = 1 then handleEntry 1 0 true true 0 1 else handleEntry 2 0 false false 0 0))).isSome)) = true ∧
    adminOk 0x108 [0, 0] demoExport (fun c s => ((s.die c.die).exports.get? (cmdNat c 24 2)).isSome) = true ∧
    ([0, 9].all fun n => adminOk 0x109 ([0, 0] ++ List.replicate 6 0 ++ addrBytes dataPtr ++ leBytes 8 n) id (fun c s =>
      live c s && (operandPtr (cmdInt c 32)).any (fun p => fits 44 (addrOf p + cmdNat c 40 8 - 1)) && cmdNat c 40 8 == n)) = true ∧
    adminOk 0x10A [0] id (fun c s => (maskParts s c.die (cmdNat c 24 1)).isEmpty) = true ∧
    adminOk 0x10A [1] id (fun c s => !(maskParts s c.die (cmdNat c 24 1)).isEmpty && !c.taken) = true ∧
    adminOk 0x10C ([0, 0] ++ List.replicate 6 0 ++ leBytes 8 64 ++ addrBytes (-3 ^ 44) ++ leBytes 8 5) quiet (fun c s => live c s &&
      ctxQuiet s 0 demoContext && ((operandPtr (cmdInt c 40)).bind fun p => codeKeys s 0 p (cmdNat c 48 8)).any (fun ks => !brokenAt s (ks.map Prod.fst)) &&
        (operandPtr (cmdInt c 40)).any (fun p => fits 44 (addrOf p + cmdNat c 48 8 - 1)) &&
        (streamTrytes (cmdNat c 48 8) (hostBytes s (cmdNat c 32 8) (streamLength (cmdNat c 48 8)))).toOption.isSome) = true ∧
    adminOk 0x10C ([0, 0] ++ List.replicate 6 0 ++ leBytes 8 64 ++ addrBytes (-3 ^ 44) ++ leBytes 8 5) id (fun c s => live c s &&
      !ctxQuiet s 0 demoContext && (operandPtr (cmdInt c 40)).any (fun p => fits 44 (addrOf p + cmdNat c 48 8 - 1))) = true := by
  decide +kernel

theorem witness_SetCommands :
    let set_ (p v : Nat) : List Nat := leBytes 2 p ++ List.replicate 6 0 ++ leBytes 8 v
    let at_ (p v : Nat) : Bool := adminOk 0x10B (set_ p v) id fun c _ => cmdNat c 24 2 == p && cmdNat c 32 8 == v
    ([(1, 0, 1), (3, 0, 81000000), (4, 20, 81000000), (5, 1, 81000000), (6, 0, 9), (7, 1, 81)].all fun x =>
      at_ x.1 x.2.1 && at_ x.1 x.2.2 && at_ x.1 (x.2.2 + 1)) = true ∧
    (at_ 4 19 && at_ 5 0 && at_ 7 0 && at_ 0 1 && at_ 8 1) = true ∧
    ((List.range 16).all fun k => handlersOn (cmdState (cmdOf 0x10B 1024 (set_ 6 0))) k == 0) = true ∧
    adminOk 0x10B (set_ 2 81000000) id (fun c s => cmdNat c 32 8 % 2 ^ 48 == 81000000 &&
      (s.contexts.get? (256 * c.die + cmdNat c 32 8 / 2 ^ 48)).isSome) = true := by decide +kernel

theorem witness_SetCommands_refused :
    let set_ (p v : Nat) : List Nat := leBytes 2 p ++ List.replicate 6 0 ++ leBytes 8 v
    let busy (s : State) : State := { s with strands := s.strands.map fun x => (x.1, { x.2 with handler := true }) }
    adminOk 0x10B (set_ 2 81000001) id (fun c _ => decide (81000000 < cmdNat c 32 8 % 2 ^ 48)) = true ∧
    adminOk 0x10B (set_ 2 (2 ^ 56)) id (fun c _ => decide (255 < cmdNat c 32 8 / 2 ^ 48)) = true ∧
    adminOk 0x10B (set_ 2 (2 ^ 48)) id (fun c s => (s.contexts.get? (256 * c.die + cmdNat c 32 8 / 2 ^ 48)).isNone) = true ∧
    adminOk 0x10B (set_ 6 0) busy (fun c s => cmdNat c 24 2 == 6 && decide (cmdNat c 32 8 < handlersOn s 0)) = true := by
  decide +kernel

/-! ### Witnesses: host translation, upkeep and management -/

theorem witness_HostTranslationProceeds :
    let c (p : Phase) : Cmd := { copyCmd 0 1 dataPtr with phase := .started, io := p }
    let at_ (p : Phase) : State := cmdState (c p)
    let acc : Acc := { hostAcc with phase := .ready }
    let s : State := { stateOf (strandOf hostAcc.i) with accs := [acc] }
    let asked : State := { at_ (.hostPri 64 false) with pageRequests := [(3, 0)] }
    (∀ again ∈ [false, true], waiterOf (at_ (.host 64 false again)) 3 0 = some (.cmd (c (.host 64 false again))) ∧
      wantOf (at_ (.host 64 false again)) (.cmd (c (.host 64 false again))) = some ⟨0, 5, 64, false, again, false⟩ ∧
      ioWaits (at_ (.host 64 false again)) 0 = false ∧ ioDown (at_ (.host 64 false again)) 0 = false) ∧
    (waiterOf (ioCut (at_ (.host 64 false false))) 3 0 = some (.cmd (c (.host 64 false false))) ∧
      ioDown (ioCut (at_ (.host 64 false false))) 0 = true ∧ ioWaits (ioCut (at_ (.host 64 false false))) 0 = false ∧
      ioWaits (ioBusy (at_ (.host 64 false false))) 0 = true) ∧
    (waiterOf asked 3 0 = some (.cmd (c (.hostPri 64 false))) ∧
      wantOf asked (.cmd (c (.hostPri 64 false))) = some ⟨0, 5, 64, false, false, true⟩ ∧
      (3, 0) ∈ outstanding asked 0 5 ∧ (3, 0) ∉ outstanding (at_ (.hostPri 64 false)) 0 5) ∧
    (waiterOf { at_ (.host 64 false false) with queues := [(0, { demoQueue with io := .host 4160 false false })] } 0 32 =
      some (.queue { demoQueue with io := .host 4160 false false })) ∧
    (0 < s.dies.length ∧ (s.die 0).invals = [] ∧ usersOf s 0 5 0 4096 = [(7, 1)] ∧ usersOf s 0 6 0 4096 = []) ∧
    (waiterOf s 7 1 = some (.acc acc) ∧ acc.phase = .ready ∧ acc.kind = .load ∧
      s.strands.get? acc.strand = some (strandOf hostAcc.i) ∧ ioWaits s 0 = false ∧ ioDown s 0 = false ∧
      ioDown (ioCut s) 0 = true ∧ ioWaits (ioCut s) 0 = false) := by decide +kernel

theorem witness_UpkeepKeepsMemory :
    let full : List SliceLine := (List.range 27).map fun k => { line := 16 * 729 * k, set := 0, dirty := true }
    let s : State := State.reset.modDie 0 fun d =>
      { d with slices := full, vectors := [3], spans := [(5, ⟨4, [], []⟩)], summary := Cells.put [] 0 1 }
    let x : SliceLine := { line := 5, set := 5, bad := [(2, 1)] }
    let one : State := State.reset.modDie 0 fun d => { d with slices := [x] }
    (State.reset.core 0).stretch = 0 ∧ 0 < s.dies.length ∧ (∀ y ∈ full, ∀ b ∈ y.bad, b.2 < 2) ∧
    victimOf (s.die 0) (setOf s 0 (16 * 729 * 26)) = some (16 * 729 * 26) ∧ (held s 0 (16 * 729 * 26)).any (·.dirty) = true ∧
    victimOf (s.die 0) (setOf s 0 0) ≠ some 0 ∧ (s.die 0).bar.ready = true ∧
    spanBroken (s.modDie 0 fun d => { d with summary := (List.range 60).foldl (fun c k => c.put (k * 2 ^ 32) 2) [] }) 0 5 = true ∧
    held one 0 5 = some x ∧ x.bad.get? 2 = some 1 ∧ 3 ∈ (s.die 0).vectors := by decide +kernel

theorem witness_Resets :
    let tooBig : ConfigRecord := { Config.factoryRecord with shares := List.replicate 8 (2 ^ 40) }
    (recordFits (State.reset.mgmt.staged.getD State.reset.record) = true ∧ State.reset.mgmt.staged = none ∧
      State.reset.mgmt.staged.getD State.reset.record = Config.factoryRecord ∧
      State.reset.mgmt.counter ≤ (State.reset.mgmt.staged.getD State.reset.record).rollback ∧
      0 < State.reset.dies.length) ∧
    recordFits tooBig = false := by decide +kernel

theorem witness_Resets_stop :
    let tooBig : ConfigRecord := { Config.factoryRecord with shares := List.replicate 8 (2 ^ 40) }
    let s : State := { State.reset with mgmt := { staged := some tooBig } }
    s.mgmt.staged.getD s.record = tooBig ∧ recordFits tooBig = false := by decide +kernel

/-- The bytes of a record. -/
def recordFile (r : ConfigRecord) : List Nat := recordBytes r ++ r.signatures

theorem witness_ManagementCommands :
    let armed : State := { State.reset with mgmt := { capture := { armed := some (0, 0) } } }
    let hot : State := State.reset.modDie 3 fun d => { d with temp := 115 }
    let opened : State := { demo (.nop .always) with mgmt := { session := some (demo (.nop .always)).record.ownerDigest } }
    (opened.mgmt.session = some opened.record.ownerDigest ∧ State.reset.mgmt.session ≠ some State.reset.record.ownerDigest) ∧
    (256 ≤ (recordFile Config.factoryRecord).length ∧ recordRanges (readRecord (recordFile Config.factoryRecord)) = true ∧
      State.reset.mgmt.counter ≤ (readRecord (recordFile Config.factoryRecord)).rollback) ∧
    recordRanges (readRecord (List.replicate 256 0)) = false ∧
    (opened.contexts.get? (256 * 0 + 0) = some demoContext ∧ opened.mgmt.capture.armed = none) ∧
    armed.mgmt.capture.armed ≠ none ∧ (∃ d ∈ hot.dies, 115 ≤ d.temp) ∧ (∀ d ∈ State.reset.dies, d.temp < 115) ∧
    ((demo (.nop .always)).contexts.get? 0 = some demoContext ∧ demoContext.status ≠ .destroyed) := by decide +kernel

/-! ### Statements whose words may issue in the small states above -/

theorem witness_IntegerSumsFit : integerWords.all may = true ∧ shiftWords.all may = true :=
  ⟨witness_integer_words, witness_shift_words⟩
theorem witness_IntegerPlainResults : integerWords.all may = true ∧ shiftWords.all may = true :=
  ⟨witness_integer_words, witness_shift_words⟩
theorem witness_TritwiseResults : shiftWords.all may = true := witness_shift_words
theorem witness_LimitsDivisionCompare : integerWords.all may = true ∧ floatWords.all may = true :=
  ⟨witness_integer_words, witness_float_words⟩
theorem witness_PackingAndLaneMoves : shiftWords.all may = true := witness_shift_words
theorem witness_FloatSumsAndFunctions : floatWords.all may = true := witness_float_words
theorem witness_FloatOrderAndConversion : floatWords.all may = true := witness_float_words
theorem witness_UniformArithmetic : uniformWords.all may = true := witness_uniform_words
theorem witness_MaskComparatorAndCode : trapWords.all may = true := witness_trap_words
theorem witness_EngineWordsQueue : engineWords.all may = true := witness_engine_words

/-- Encodings of 1/3, whose power of three has a fraction, and of 2, 0, −1 and 9; and groups of every kind. -/
theorem witness_FloatSumsAndFunctions_values :
    let third : Int := fencode fmt9 (-1) 243
    let two : Int := fencode fmt9 1 162
    let ts : List (List (Int × Int)) := [[(2, 0), (5, -1)], [(-3, -2)]]
    let groups : List (List FVal) := [[.fin 1 0], [.inf 1, .fin (-2) 1]]
    0 < (⟨7, 2, -3⟩ : Exact).den ∧ 2 * ((5 : Int) - 0 * 3 ^ 16).natAbs < 3 ^ 16 ∧
    ((-3 : Int) ≤ 0 ∧ ∀ t ∈ ts, -3 ≤ (t.map (·.2)).sum) ∧
    [[FVal.fin 1 0, .nan 6 4], [FVal.nan 6 5]].flatten = [FVal.fin 1 0] ++ FVal.nan 6 4 :: [FVal.nan 6 5] ∧
    (∀ x ∈ groups.flatten, x = .fin 1 0 ∨ x = .inf 1 ∨ x = .fin (-2) 1) ∧
    (fdecode fmt9 third = .fin 243 (-6) ∧ (243 : Int) % 3 ^ 6 ≠ 0 ∧ (exp3At fmt9 false 243 6 60).isSome = true) ∧
    (fdecode fmt9 two = .fin 162 (-4) ∧ ¬ (162 : Nat) ∈ [1, 3, 9, 27, 81, 243] ∧ (log3At fmt9 162 (-4) 80).isSome = true) ∧
    (fdecode fmt9 0 = .fin 0 0 ∧ fdecode fmt9 (fencode fmt9 0 (-243)) = .fin (-243) (-5)) ∧
    (fdecode fmt9 (fencode fmt9 2 243) = .fin 243 (-3) ∧ (243 : Int) = 3 ^ 5 ∧
      (243 : Int) * 3 ^ (-3 : Int).toNat = 9 * 3 ^ (3 : Int).toNat) := by decide +kernel

/-! ### Code objects -/

/-- The procedure of R177 without its label, and its third clause's label left to the branch before it. -/
def sum9 : List Item :=
  let item (i : Instr) (label : Bool := false) : Item := { words := encode i, label }
  [item (.movi .always .t27 0 0), item (.movi .always .t27 1 0), item (.addV .always .t27 .wrap 0 0 1) true,
    item (.addI .always .t27 .wrap 1 1 1), item (.cmpI .always .t27 1 1 9), item (.brI (.on 1 .lt) 0), item (.exit .always)]

/-- R177: headers stand at trytes 0, 9 and 24, and every header's flag fields are empty. -/
theorem test_clauses_of_a_procedure :
    (splitClauses [] sum9).map List.length = [2, 4, 1] ∧
    (procWords sum9).map (fun ws => ws.map fun w => (readHeader w).isSome) =
      some [true, false, false, true, false, false, false, false, true, false] := by decide +kernel

/-- R424's example: a call at 303 under the header at 300 to 600 gets the offset 100. -/
theorem test_call_relocation :
    let text : List Int := toTrytes 3 (clauseHeader { waits := [], flagA := none, flagB := none, length := 1, yield := false }) ++
      toTrytes 3 ((encode (.callI .always 3 0)).headD 0)
    clauseHolding (text ++ text) 9 5 0 = some 6 ∧
    (patch text true { target := 0, kind := 4, sym := 0, at_ := 3, addend := 0 } 300).map (fun ts => ofTrytes (ts.drop 3)) =
      (encode (.callI .always 3 100)).head? := by decide +kernel

end Sys2Proof.Tests
end

section
/-!
PROOFS. What scheduling leaves of a state: one equation for each function, on the outline of the state.
-/
namespace Sys2Proof.Machine

/-! ### What scheduling leaves: the outline of a state -/

/-- The part of a state that scheduling never writes: how many partitions each die has, device memory, and the status of
each context. -/
structure Outline where
  shape : List Nat
  mem : Cells
  status : Nat → Option CtxStatus

/-- The outline of a state. -/
def State.outline (s : State) : Outline :=
  ⟨s.dies.map fun d => d.parts.length, s.mem, fun c => (s.contexts.get? c).map (·.status)⟩

@[simp] theorem outline_mem (s : State) : s.outline.mem = s.mem := rfl

theorem outline_of_fields {s t : State} (hd : t.dies = s.dies) (hm : t.mem = s.mem) (hc : t.contexts = s.contexts) :
    t.outline = s.outline := by
  simp [State.outline, hd, hm, hc]

@[simp] theorem outline_mk (record : ConfigRecord) (cycle nextId free : Nat) (agenda : List Turn) (cursor : Nat)
    (strands : Tbl Strand) (weaves : Tbl Weave) (contexts : Tbl Context) (launches : Tbl Launch) (graphs : Tbl Graph)
    (queues : Tbl Queue) (cmds : Tbl Cmd) (ops : Tbl EngOp) (accs : List Acc) (pageRequests : List (Nat × Nat))
    (packets : Tbl Packet) (links : Tbl Link) (seqs : Tbl Nat) (dies : List Die) (cores : Tbl Core)
    (clusters : Tbl Cluster) (mem : Cells) (host : List Host.Cell) (mgmt : Mgmt) (msix : List (Nat × Nat))
    (reply : List Nat) :
    (State.mk record cycle nextId free agenda cursor strands weaves contexts launches graphs queues cmds ops accs
      pageRequests packets links seqs dies cores clusters mem host mgmt msix reply).outline =
      ⟨dies.map fun d => d.parts.length, mem, fun c => (contexts.get? c).map (·.status)⟩ := rfl

@[simp] theorem outline_eta (s : State) :
    (⟨s.dies.map fun d => d.parts.length, s.mem, fun c => (s.contexts.get? c).map (·.status)⟩ : Outline) = s.outline := rfl

theorem outline_ite {c : Prop} [Decidable c] {a b : State} {o : Outline} (ha : a.outline = o) (hb : b.outline = o) :
    (if c then a else b).outline = o := by
  split <;> assumption

theorem shape_ite {c : Prop} [Decidable c] {a b : State} {n : List Nat} (ha : a.outline.shape = n)
    (hb : b.outline.shape = n) : (if c then a else b).outline.shape = n := by
  split <;> assumption

@[simp] theorem outline_foldl {α : Type} {f : State → α → State} (h : ∀ s a, (f s a).outline = s.outline) (l : List α)
    (s : State) : (l.foldl f s).outline = s.outline := by
  induction l generalizing s with
  | nil => rfl
  | cons a r ih => rw [List.foldl_cons, ih, h]

@[simp] theorem shape_foldl {α : Type} {f : State → α → State} (h : ∀ s a, (f s a).outline.shape = s.outline.shape)
    (l : List α) (s : State) : (l.foldl f s).outline.shape = s.outline.shape := by
  induction l generalizing s with
  | nil => rfl
  | cons a r ih => rw [List.foldl_cons, ih, h]

/-! #### The updates of one part -/

section
variable (s : State) (n : Nat)

@[simp] theorem outline_setCore (x : Core) : (s.setCore n x).outline = s.outline :=
  outline_of_fields rfl rfl rfl
@[simp] theorem outline_modCore (f : Core → Core) : (s.modCore n f).outline = s.outline :=
  outline_of_fields rfl rfl rfl
@[simp] theorem outline_setCluster (x : Cluster) : (s.setCluster n x).outline = s.outline :=
  outline_of_fields rfl rfl rfl
@[simp] theorem outline_setStrand (x : Strand) : (s.setStrand n x).outline = s.outline :=
  outline_of_fields rfl rfl rfl
@[simp] theorem outline_modStrand (f : Strand → Strand) : (s.modStrand n f).outline = s.outline :=
  outline_of_fields rfl rfl rfl
@[simp] theorem outline_modWeave (f : Weave → Weave) : (s.modWeave n f).outline = s.outline :=
  outline_of_fields rfl rfl rfl
@[simp] theorem outline_modOp (f : EngOp → EngOp) : (s.modOp n f).outline = s.outline :=
  outline_of_fields rfl rfl rfl
@[simp] theorem outline_setLink (x : Link) : (s.setLink n x).outline = s.outline :=
  outline_of_fields rfl rfl rfl
@[simp] theorem outline_modCmd (f : Cmd → Cmd) : (s.modCmd n f).outline = s.outline :=
  outline_of_fields rfl rfl rfl

theorem set_map_of_same {α β : Type} (g : α → β) (l : List α) (x : α) (h : ∀ y, l[n]? = some y → g x = g y) :
    (l.set n x).map g = l.map g := by
  apply List.ext_getElem?
  intro i
  simp only [List.getElem?_map, List.getElem?_set]
  split
  case isFalse => rfl
  case isTrue hi =>
    subst hi
    cases hl : l[n]? with
    | none => simp_all
    | some y => simp [h y hl, (List.getElem?_eq_some_iff.mp hl).1]

/-- A die may change in all but the number of its partitions. -/
@[simp] theorem outline_setDie (x : Die) (h : x.parts.length = (s.die n).parts.length) : (s.setDie n x).outline = s.outline := by
  have hd : (s.dies.set n x).map (fun d => d.parts.length) = s.dies.map fun d => d.parts.length :=
    set_map_of_same n _ _ _ fun y hy => by simp [h, State.die, List.getD_eq_getElem?_getD, hy]
  simp only [State.outline, State.setDie, hd]

@[simp] theorem outline_modDie (f : Die → Die) (h : (f (s.die n)).parts.length = (s.die n).parts.length) :
    (s.modDie n f).outline = s.outline := outline_setDie _ _ _ h

@[simp] theorem outline_setPart (p : Nat) (x : Part) : (s.setPart n p x).outline = s.outline :=
  outline_modDie _ _ _ (by simp)

@[simp] theorem outline_modPart (p : Nat) (f : Part → Part) : (s.modPart n p f).outline = s.outline := outline_setPart _ _ _ _

/-- A context may change in all but its status. -/
@[simp] theorem outline_modCtx (f : Context → Context) (h : ∀ c, (f c).status = c.status) : (s.modCtx n f).outline = s.outline := by
  have hc : (fun c => ((s.contexts.upd n f).get? c).map (·.status)) = fun c => (s.contexts.get? c).map (·.status) := by
    funext c
    cases hn : s.contexts.get? n with
    | none => rw [Tbl.upd_none f hn]
    | some x =>
      rw [Tbl.upd_some f hn]
      by_cases hcn : c = n
      · rw [hcn, Tbl.get?_put_self, hn]; simp [h]
      · rw [Tbl.get?_put_other _ _ hcn]
  simp only [State.outline, State.modCtx, hc]

@[simp] theorem shape_modCtx (f : Context → Context) : (s.modCtx n f).outline.shape = s.outline.shape := rfl

end

/-! #### Memory's upkeep and the caches -/

@[simp] theorem outline_capture (s : State) (ctx : Nat) (x : Captured) : (capture s ctx x).outline = s.outline := by
  unfold capture; dsimp only; split <;> rfl

@[simp] theorem outline_writeHost (s : State) (a : Nat) (bs : List Nat) : (writeHost s a bs).outline = s.outline := by
  rw [writeHost_eq]; rfl

@[simp] theorem outline_countCorrected (s : State) (die kind : Nat) : (countCorrected s die kind).outline = s.outline := by
  simp [countCorrected]

@[simp] theorem outline_writeBack (s : State) (die line : Nat) : (writeBack s die line).outline = s.outline := by
  unfold writeBack
  split
  · rfl
  · split
    · rfl
    · dsimp only
      split
      · simp
      · apply outline_modDie; dsimp only; split <;> split <;> rfl

@[simp] theorem outline_evictLine (s : State) (die line : Nat) : (evictLine s die line).outline = s.outline := by
  simp [evictLine]

@[simp] theorem outline_touchLine (s : State) (die line : Nat) (w : Option Bool) :
    (touchLine s die line w).outline = s.outline := by
  unfold touchLine
  dsimp only
  split
  · simp
  · rw [outline_modDie _ _ _ (by rfl)]
    split <;> split <;> simp

@[simp] theorem outline_countMany (s : State) (die kind n : Nat) : (countMany s die kind n).outline = s.outline := by
  induction n generalizing s with
  | zero => rfl
  | succ n ih => simp [countMany, ih]

@[simp] theorem outline_countWords (s : State) (ks : List Nat) : (countWords s ks).outline = s.outline := by
  refine outline_foldl (fun s n => ?_) _ s
  split <;> simp

@[simp] theorem outline_touchReads (s : State) (ks : List Nat) : (touchReads s ks).outline = s.outline := by
  simp [touchReads]

@[simp] theorem outline_touchWrites (s : State) (ks : List (Nat × Bool)) : (touchWrites s ks).outline = s.outline := by
  simp [touchWrites]

@[simp] theorem outline_mendWords (s : State) (ks : List Nat) : (mendWords s ks).outline = s.outline := by
  refine outline_foldl (fun s n => ?_) _ s
  dsimp only
  split
  · rfl
  · split
    · rfl
    · rw [outline_modDie _ _ _ (by rfl), outline_countMany]

@[simp] theorem outline_fillTlb (s : State) (via : Via) (ctx : Nat) (ptr : Int) : (fillTlb s via ctx ptr).outline = s.outline := by
  unfold fillTlb touchXlate
  split
  · rfl
  · dsimp only
    split
    · simp
    · split <;> simp

@[simp] theorem outline_fillRun (s : State) (via : Via) (ctx : Nat) (ptr : Int) (n : Nat) :
    (fillRun s via ctx ptr n).outline = s.outline := by
  unfold fillRun; dsimp only; split <;> simp

@[simp] theorem outline_touchPages (s : State) (ctx : Nat) (ptr : Int) (n : Nat) : (touchPages s ctx ptr n).outline = s.outline := by
  simp [touchPages, touchXlate]

@[simp] theorem outline_noticeWrite (s : State) (sp : Bool) (ks : List Nat) : (noticeWrite s sp ks).outline = s.outline :=
  outline_of_fields rfl rfl rfl

/-- A write at homes leaves all but memory. -/
theorem outline_writeKeys (s : State) (ks : List (Nat × Bool)) (xs : List Int) :
    (writeKeys s ks xs).outline = { s.outline with mem := (writeKeys s ks xs).mem } := by
  have h : (mendWords (touchWrites s ks) (ks.map Prod.fst)).outline = s.outline := by simp
  rw [← h]; rfl

@[simp] theorem shape_writeKeys (s : State) (ks : List (Nat × Bool)) (xs : List Int) :
    (writeKeys s ks xs).outline.shape = s.outline.shape := by rw [outline_writeKeys]

@[simp] theorem outline_dropLines (s : State) (core : Nat) (p : Nat → Bool) : (dropLines s core p).outline = s.outline := by
  unfold dropLines; split <;> rfl

@[simp] theorem outline_dropAll (s : State) (core : Nat) : (dropAll s core).outline = s.outline := by simp [dropAll]

@[simp] theorem outline_markBehind (s : State) (core k : Nat) (ks : List Nat) (xs : List Int) :
    (markBehind s core k ks xs).outline = s.outline := by
  unfold markBehind; split <;> rfl

@[simp] theorem outline_cachedWrite (s : State) (core : Nat) (ks : List Nat) (xs : List Int) :
    (cachedWrite s core ks xs).outline = s.outline := by
  unfold cachedWrite; split <;> rfl

@[simp] theorem outline_homeRead (s : State) (core k : Nat) (ks : List Nat) : (homeRead s core k ks).1.outline = s.outline := by
  simp [homeRead]

@[simp] theorem outline_fetchLine (s : State) (core line : Nat) (keep : Bool) : (fetchLine s core line keep).outline = s.outline := by
  simp [fetchLine]

@[simp] theorem outline_cachedRead (s : State) (core k hint : Nat) (ks : List Nat) :
    (cachedRead s core k hint ks).1.outline = s.outline := by
  unfold cachedRead
  split
  · rfl
  · split <;> simp

@[simp] theorem outline_acquire (s : State) (core ctx : Nat) (all : Bool) (bs : List Binding) :
    (acquire s core ctx all bs).outline = s.outline := by
  unfold acquire; split <;> (try split) <;> simp

/-! #### Faults and halts -/

@[simp] theorem outline_denyGrows (s : State) (core : Nat) (p : Nat → Bool) : (denyGrows s core p).outline = s.outline := by
  unfold denyGrows; dsimp only; split <;> simp

@[simp] theorem outline_beginHalt (s : State) (die p reason : Nat) (clock : Option Nat) :
    (beginHalt s die p reason clock).outline = s.outline := by
  simp [beginHalt]

/-- A fault changes no die's partitions in number. -/
@[simp] theorem shape_raiseFault (s : State) (ctx : Nat) (strand op : Option Nat) (f : FaultInfo) (core : Option Nat) :
    (raiseFault s ctx strand op f core).outline.shape = s.outline.shape := by
  have halts (s : State) (ps : List Nat) (clock : Option Nat) :
      (ps.foldl (fun s p => if halting (s.part (ctx / 256) p) then s else beginHalt s (ctx / 256) p 0 clock) s).outline.shape =
        s.outline.shape := by
    refine shape_foldl (fun s p => ?_) ps s
    split <;> simp
  unfold raiseFault
  cases strand <;> cases op <;> dsimp only <;> split <;> (try split) <;> simp [halts]

/-! #### Commands, events, packets -/

@[simp] theorem outline_endCmd (s : State) (c : Option Nat) (code result : Nat) : (endCmd s c code result).outline = s.outline := by
  unfold endCmd; split <;> rfl

@[simp] theorem outline_sendMsix (s : State) (die v : Nat) : (sendMsix s die v).outline = s.outline := by
  unfold sendMsix; dsimp only; split
  · rfl
  · split <;> simp

@[simp] theorem outline_postEvent (s : State) (die type ctx queue : Nat) (cause : Int) :
    (postEvent s die type ctx queue cause).outline = s.outline := by
  unfold postEvent; dsimp only; split <;> simp

@[simp] theorem outline_addPacket (s : State) (p : Packet) : (addPacket s p).outline = s.outline :=
  outline_of_fields rfl rfl rfl

@[simp] theorem outline_serveTickets (s : State) (d : Nat) : (serveTickets s d).outline = s.outline := by
  unfold serveTickets; dsimp only
  split
  · rfl
  · split <;> simp

@[simp] theorem outline_freeEntry (s : State) (d id : Nat) : (freeEntry s d id).outline = s.outline := by
  unfold freeEntry; split <;> simp

@[simp] theorem outline_dropPacket (s : State) (id : Nat) : (dropPacket s id).outline = s.outline := by
  unfold dropPacket
  split
  · rfl
  · dsimp only; split <;> rw [outline_freeEntry] <;> rfl

/-! #### Launches, partitions, graphs, weaves (R36 to R45, R235, R236, R348, R349) -/

@[simp] theorem outline_releasePart (s : State) (die p : Nat) : (releasePart s die p).outline = s.outline := by
  unfold releasePart
  dsimp only
  rw [outline_foldl (fun s c => by split <;> simp)]
  simp

@[simp] theorem outline_beginPreempt (s : State) (die p : Nat) (forCtx : Option Nat) :
    (beginPreempt s die p forCtx).outline = s.outline := by
  unfold beginPreempt
  split
  · dsimp only
    split
    · simp
    · split <;> simp
  · rfl

theorem outline_triggerOnce {again : State → State} (h : ∀ s, (again s).outline = s.outline) (s : State) (ctx : Nat) :
    (triggerOnce again s ctx).outline = s.outline := by
  unfold triggerOnce
  dsimp only
  split
  · rfl
  · split
    · split <;> simp [h]
    · rfl

@[simp] theorem outline_triggersFor (die n : Nat) (s : State) : (triggersFor die n s).outline = s.outline := by
  induction n generalizing s with
  | zero => rfl
  | succ n ih => exact outline_foldl (fun s c => outline_triggerOnce ih s c) _ s

@[simp] theorem outline_trigger (s : State) (ctx : Nat) : (trigger s ctx).outline = s.outline :=
  outline_triggerOnce (outline_triggersFor _ _) s ctx

@[simp] theorem outline_triggers (s : State) (die : Nat) : (triggers s die).outline = s.outline := outline_triggersFor _ _ s

@[simp] theorem outline_freePart (s : State) (die p : Nat) : (freePart s die p).outline = s.outline := by simp [freePart]

@[simp] theorem outline_leaveCheck (s : State) (die p : Nat) : (leaveCheck s die p).outline = s.outline := by
  unfold leaveCheck
  dsimp only
  split
  · rfl
  · split
    · split <;> simp
    · simp
    · rfl

@[simp] theorem outline_becomeReady (s : State) (ctx : Nat) : (becomeReady s ctx).outline = s.outline := by
  unfold becomeReady; split <;> simp

@[simp] theorem outline_formGroup (s : State) (g node n : Nat) : (formGroup s g node n).outline = s.outline := by
  unfold formGroup
  split
  · rfl
  · split
    · rfl
    · dsimp only
      rw [outline_trigger]
      exact outline_becomeReady _ _

@[simp] theorem outline_nodePass (s : State) (g : Nat) : (nodePass s g).outline = s.outline := by
  unfold nodePass
  split
  · rfl
  · refine outline_foldl (fun s n => ?_) _ s
    split
    · rfl
    · split
      · rfl
      · split
        · rfl
        · split
          · simp
          · split <;> rfl

@[simp] theorem outline_graphProgress (s : State) (g : Nat) : (graphProgress s g).outline = s.outline := by
  unfold graphProgress
  split
  · rfl
  · dsimp only
    split
    · simp
    · split
      · rw [outline_endCmd]; exact outline_foldl (fun s _ => outline_nodePass s g) _ s
      · simp

@[simp] theorem outline_endLaunch (s : State) (n : Nat) (l : Launch) : (endLaunch s n l).outline = s.outline := by
  unfold endLaunch
  dsimp only
  split
  · rw [outline_endCmd]; rfl
  · rw [outline_graphProgress]; split <;> rfl

@[simp] theorem outline_endWeave (s : State) (w : Nat) : (endWeave s w).outline = s.outline := by
  unfold endWeave
  split
  · rfl
  · dsimp only
    rw [outline_leaveCheck]
    split
    · rfl
    · split
      · rw [outline_endLaunch]; rfl
      · rfl

@[simp] theorem outline_grants (s : State) (core n : Nat) : (grants s core n).outline = s.outline := by
  induction n generalizing s with
  | zero => rfl
  | succ n ih =>
    unfold grants
    split
    · rfl
    · dsimp only
      split
      · simp [ih]
      · split
        · simp [ih]
        · split <;> simp [ih]

@[simp] theorem outline_denyTest (s : State) (core : Nat) : (denyTest s core).outline = s.outline := by
  unfold denyTest
  dsimp only
  split
  · rfl
  · split
    · rfl
    · split <;> simp

@[simp] theorem outline_allocate (s : State) (core : Nat) : (allocate s core).outline = s.outline := by simp [allocate]

@[simp] theorem outline_completeRound (s : State) (w n : Nat) : (completeRound s w n).outline = s.outline := by
  unfold completeRound
  dsimp only
  rw [outline_foldl (fun s c => outline_dropAll s c)]
  rfl

@[simp] theorem outline_roundTest (s : State) (w n : Nat) : (roundTest s w n).outline = s.outline := by
  unfold roundTest
  split
  · rfl
  · dsimp only
    split
    · rfl
    · split <;> simp
    · split <;> simp

@[simp] theorem outline_arrive (s : State) (w k n : Nat) (before : Int) : (arrive s w k n before).outline = s.outline := by
  unfold arrive
  split
  · rfl
  · dsimp only; split <;> simp

@[simp] theorem outline_endStrand (s : State) (k : Nat) : (endStrand s k).outline = s.outline := by
  unfold endStrand
  split
  · rfl
  · dsimp only
    generalize hs : List.foldl _ s _ = s0
    have h0 : s0.outline = s.outline := hs ▸ outline_foldl (fun s n => by split <;> simp) _ s
    refine outline_ite ?_ ?_
    · rw [outline_endWeave, outline_allocate]
      exact outline_ite h0 ((outline_modCore _ _ _).trans h0)
    · rw [outline_foldl (fun s n => outline_roundTest s _ n), outline_allocate]
      exact outline_ite h0 ((outline_modCore _ _ _).trans h0)

@[simp] theorem outline_afterEnd (s : State) (k : Nat) (before : List Int) : (afterEnd s k before).outline = s.outline := by
  unfold afterEnd
  split
  · rfl
  · dsimp only
    split
    · split <;> simp
    · simp

@[simp] theorem outline_finishExits (s : State) (k : Nat) : (finishExits s k).outline = s.outline := by
  unfold finishExits
  split
  · rfl
  · split <;> simp

@[simp] theorem outline_clearFlag (s : State) (k f : Nat) : (clearFlag s k f).outline = s.outline := by
  unfold clearFlag; dsimp only; split <;> simp

end Sys2Proof.Machine
end

section
/-!
PROOFS. What a weave or a context leaves as it goes from its die, and what the words in progress leave.
-/
namespace Sys2Proof.Machine

/-! #### Leaving the die (R323, R333) -/

@[simp] theorem outline_withdrawPackets (s : State) (rs gs : List Nat) : (withdrawPackets s rs gs).outline = s.outline := by
  unfold withdrawPackets
  dsimp only
  rw [outline_foldl fun s r => outline_foldl (fun s o => by split <;> rfl) _ s]
  refine Eq.trans ?_ (outline_foldl outline_dropPacket
    ((s.packets.filter fun x => gs.contains x.2.serves && x.2.type != .message && x.2.type != .messageAccepted &&
      x.2.type != .messageRefused).map Prod.fst) s)
  simp only [outline_mk, List.map_map, Function.comp_def, outline_eta]

@[simp] theorem outline_removeWeaves (s : State) (ws : List Nat) : (removeWeaves s ws).outline = s.outline := by
  unfold removeWeaves
  dsimp only
  rw [outline_foldl fun s c => by rw [outline_allocate, outline_modCore], outline_foldl fun s c => outline_modCore s c _]
  refine Eq.trans (outline_of_fields rfl rfl rfl) ((outline_foldl outline_dropPacket _ _).trans (outline_withdrawPackets _ _ _))

@[simp] theorem outline_clearHalted (s : State) (hs : List Halted) : (clearHalted s hs).outline = s.outline := by
  unfold clearHalted
  dsimp only
  rw [outline_foldl fun s w => ?_, outline_removeWeaves]
  split
  · rw [outline_endWeave]; exact outline_removeWeaves _ _
  · exact outline_removeWeaves _ _

@[simp] theorem outline_captureHalt (s : State) (ctx : Nat) (rs : List (List Int)) : (captureHalt s ctx rs).outline = s.outline := by
  simp [captureHalt]

/-- A context that is lost stands at the status given; device memory, the dies' partitions in number and the status of every
other context stay (R333). -/
theorem outline_loseContext {s : State} {ctx : Nat} (status : CtxStatus) (event : Bool) (h : (s.contexts.get? ctx).isSome = true) :
    (loseContext s ctx status event).outline =
      { s.outline with status := fun k => if k = ctx then some status else s.outline.status k } := by
  obtain ⟨c, hc⟩ := Option.isSome_iff_exists.mp h
  unfold loseContext
  rw [hc]
  dsimp only
  refine Eq.trans (outline_ite (outline_postEvent _ _ _ _ _ _) rfl) ?_
  rw [outline_foldl fun s p => outline_freePart s _ p, outline_foldl fun s n => outline_endCmd s _ _ _,
    outline_modDie _ _ _ (by simp)]
  have hr := outline_removeWeaves s ((s.weaves.filter fun x => x.2.ctx == ctx).map Prod.fst)
  generalize removeWeaves s _ = s1 at hr ⊢
  rw [← hr, outline_mk]
  simp only [State.outline, Outline.mk.injEq, true_and]
  funext k
  by_cases hk : k = ctx
  · subst hk; rw [Tbl.get?_put_self]; simp
  · rw [Tbl.get?_put_other _ _ hk]; simp [hk]

@[simp] theorem shape_loseContext (s : State) (ctx : Nat) (status : CtxStatus) (event : Bool) :
    (loseContext s ctx status event).outline.shape = s.outline.shape := by
  cases h : s.contexts.get? ctx with
  | none => simp [loseContext, h]
  | some c => rw [outline_loseContext _ _ (by simp [h])]

@[simp] theorem mem_loseContext (s : State) (ctx : Nat) (status : CtxStatus) (event : Bool) :
    (loseContext s ctx status event).mem = s.mem := by
  cases h : s.contexts.get? ctx with
  | none => simp [loseContext, h]
  | some c => rw [← outline_mem, outline_loseContext _ _ (by simp [h])]; rfl

/-! #### Records in memory (R324) -/

/-- Words written into a context's space leave all but memory. -/
theorem outline_ctxWrite {s t : State} {ctx : Nat} {ptr : Int} {ws : List Int} (h : ctxWrite s ctx ptr ws = some t) :
    t.outline = { s.outline with mem := t.mem } := by
  induction ws generalizing s ptr with
  | nil => cases h; rfl
  | cons w ws ih =>
    unfold ctxWrite at h
    split at h
    · split at h
      · cases h
      · rw [ih h, outline_writeKeys]
    · cases h

/-- Records written leave all but memory. -/
theorem outline_writeRecords (s : State) (ctx : Nat) (ptr : Int) (room : Nat) (rs : List (List Int)) :
    (writeRecords s ctx ptr room rs).1.outline = { s.outline with mem := (writeRecords s ctx ptr room rs).1.mem } := by
  induction rs generalizing s ptr room with
  | nil => rfl
  | cons r rs ih =>
    unfold writeRecords
    split
    · rfl
    · split
      · rfl
      · rename_i h
        rw [ih, outline_ctxWrite h, outline_touchPages]

theorem outline_toArea (s : State) (ctx : Nat) (c : Context) (rs : List (List Int)) (kept : List Kept) :
    (toArea s ctx c rs kept).1.outline = { s.outline with mem := (toArea s ctx c rs kept).1.mem } := by
  unfold toArea
  dsimp only
  rw [outline_modCtx _ _ _ (by intro; rfl), outline_writeRecords]
  rfl

@[simp] theorem shape_toArea (s : State) (ctx : Nat) (c : Context) (rs : List (List Int)) (kept : List Kept) :
    (toArea s ctx c rs kept).1.outline.shape = s.outline.shape := by rw [outline_toArea]

@[simp] theorem shape_spillShadow (s : State) (die part : Nat) : (spillShadow s die part).1.outline.shape = s.outline.shape := by
  unfold spillShadow
  split
  · rfl
  · dsimp only
    split
    · exact congrArg Outline.shape (outline_modPart _ _ _ _)
    · have hp := congrArg Outline.shape (outline_modPart s die part fun p => { p with shadow := none })
      exact shape_ite ((shape_toArea _ _ _ _ _).trans hp)
        ((shape_loseContext _ _ _ _).trans ((shape_toArea _ _ _ _ _).trans hp))

/-! #### The end of the skid: the dies' partitions stay in number -/

@[simp] theorem shape_opFault (s : State) (n : Nat) (o : EngOp) (code : Nat) (addr : Option Int) :
    (opFault s n o code addr).outline.shape = s.outline.shape := by simp [opFault]

@[simp] theorem shape_groupFault (s : State) (k g : Nat) (a : Acc) (code : Nat) :
    (groupFault s k g a code).outline.shape = s.outline.shape := by
  unfold groupFault
  split
  · rfl
  · exact shape_raiseFault _ _ _ _ _ _

@[simp] theorem shape_replayFault (s : State) (k : Nat) (st : Strand) (e : Replay) (code : Nat) :
    (replayFault s k st e code).outline.shape = s.outline.shape := by simp [replayFault]

@[simp] theorem outline_endWait (s : State) (k : Nat) (st : Strand) (w : Wait) : (endWait s k st w).outline = s.outline := by
  unfold endWait; split <;> simp

@[simp] theorem outline_finishWait (s : State) (k lane : Nat) : (finishWait s k lane).outline = s.outline := by
  unfold finishWait
  split
  · rfl
  · dsimp only
    split
    · split <;> simp
    · rfl

@[simp] theorem outline_settleWaits (s : State) (ks : List Nat) : (settleWaits s ks).outline = s.outline :=
  outline_foldl (fun s k => outline_foldl (fun s l => outline_finishWait s k l) _ s) _ s

@[simp] theorem outline_settleGrows (s : State) (ws ks : List Nat) : (settleGrows s ws ks).outline = s.outline :=
  outline_foldl (fun s c => outline_denyGrows s c _) _ s

@[simp] theorem outline_captureLanes (s : State) (ctx : Nat) (as : List Acc) : (captureLanes s ctx as).outline = s.outline :=
  outline_foldl (fun _ _ => outline_ite (outline_capture _ _ _) rfl) _ s

@[simp] theorem outline_settleMem (s : State) (k : Nat) (m : Mem) (outs : List (Nat × Int)) (bs : List Binding) :
    (settleMem s k m outs bs).outline = s.outline := by
  unfold settleMem
  dsimp only
  split <;> simp

@[simp] theorem outline_closeGroup (s : State) (k g : Nat) (i : Instr) (lanes : List Nat) :
    (closeGroup s k g i lanes).outline = s.outline := outline_of_fields rfl rfl rfl

@[simp] theorem outline_closeReplay (s : State) (k g : Nat) (i : Instr) (lanes : List Nat) :
    (closeReplay s k g i lanes).outline = s.outline := outline_of_fields rfl rfl rfl

@[simp] theorem outline_sthLanes (s : State) (k : Nat) (st : Strand) (h : HostMem) (as : List Acc) :
    (sthLanes s k st h as).outline = s.outline := by
  unfold sthLanes
  dsimp only
  have hw (cs : List (Acc × Conv (List Nat))) : (cs.foldl (fun s (c : Acc × Conv (List Nat)) =>
      match c.2 with
      | .ok bs => writeHost s c.1.addr.toNat bs
      | .range bs => if rangeTraps st h.sat then s else writeHost s c.1.addr.toNat bs
      | .bad _ => s) s).outline = s.outline := by
    refine outline_foldl (fun s c => ?_) cs s
    split
    · simp
    · split <;> simp
    · rfl
  exact outline_ite (hw _) ((outline_modStrand _ _ _).trans (hw _))

/-- A lane's act at its home changes no die's partitions in number. -/
@[simp] theorem shape_perform (s : State) (core k : Nat) (m : Mem) (ks : List (Nat × Bool)) (data expect : Int) :
    (perform s core k m ks data expect).1.outline.shape = s.outline.shape := by
  unfold perform
  dsimp only
  split
  · split <;> simp
  · simp
  · split <;> simp

/-! #### Requests to other dies -/

@[simp] theorem outline_takeSeq (s : State) (requester owner : Nat) : (takeSeq s requester owner).1.outline = s.outline := rfl

@[simp] theorem outline_sendAcc (s : State) (requester : Nat) (a : Acc) : (sendAcc s requester a).outline = s.outline := by
  unfold sendAcc
  dsimp only
  rw [outline_addPacket]
  split
  · exact outline_foldl (fun s n => outline_modOp s n _) _ s
  · exact outline_takeSeq s requester ((a.peer.map fun p => p.1).getD 0)

@[simp] theorem outline_pump (s : State) (requester owner n : Nat) : (pump s requester owner n).outline = s.outline := by
  induction n generalizing s with
  | zero => rfl
  | succ n ih =>
    unfold pump
    split
    · rfl
    · split
      · rfl
      · rw [ih, outline_sendAcc]

@[simp] theorem outline_sendRequests (s : State) (requester owner : Nat) : (sendRequests s requester owner).outline = s.outline :=
  outline_pump _ _ _ _

@[simp] theorem outline_sendAll (s : State) (r : Nat) : (sendAll s r).outline = s.outline :=
  outline_foldl (fun s d => outline_sendRequests s r d) _ s

@[simp] theorem outline_request (s : State) (n : Nat) (o : EngOp) (as : List Acc) : (request s n o as).outline = s.outline := by
  unfold request
  dsimp only
  rw [outline_sendAll]
  rfl

@[simp] theorem outline_pull (s : State) (n : Nat) (o : EngOp) (xs : List (Int × List Place)) : (pull s n o xs).outline = s.outline := by
  simp [pull]

theorem outline_wantsPull {s t : State} {n : Nat} {o : EngOp} {ls : List Loc} (h : wantsPull s n o ls = some t) :
    t.outline = s.outline := by
  unfold wantsPull at h
  dsimp only at h
  split at h
  · cases h
  · rw [← Option.some.inj h, outline_pull]

/-! #### Words in progress -/

@[simp] theorem shape_finishHost (s : State) (g : Nat) : (finishHost s g).outline.shape = s.outline.shape := by
  unfold finishHost
  dsimp only
  split
  · rfl
  · split
    · split
      · simp
      · split
        · rfl
        · split
          · simp
          · split <;> split <;> simp
    · rfl

@[simp] theorem shape_finishMem (s : State) (g : Nat) : (finishMem s g).outline.shape = s.outline.shape := by
  unfold finishMem
  dsimp only
  split
  · rfl
  · split
    · rfl
    · split
      · simp
      · split
        · rfl
        · split <;> simp

@[simp] theorem shape_landWait (s : State) (g : Nat) : (landWait s g).outline.shape = s.outline.shape := by
  unfold landWait
  split
  · rfl
  · dsimp only
    split
    · split
      · rfl
      · split
        · split
          · simp
          · simp
          · rfl
        · split
          · split
            · simp
            · rfl
          · split
            · simp
            · rfl
          · rfl
    · rfl
    · rfl

@[simp] theorem shape_replayNext (s : State) (k n : Nat) : (replayNext s k n).outline.shape = s.outline.shape := by
  induction n generalizing s with
  | zero => rfl
  | succ n ih =>
    unfold replayNext
    split
    · rfl
    · split
      · rfl
      · split
        · rfl
        · dsimp only
          split
          · simp
          · split
            · split
              · simp
              · split
                · simp
                · split
                  · rfl
                  · simp [ih]
              · simp
            · simp [ih]
            · simp

@[simp] theorem shape_thenReplay (s : State) (k : Option Nat) : (thenReplay s k).outline.shape = s.outline.shape := by
  unfold thenReplay; split <;> simp

end Sys2Proof.Machine
end

section
/-!
PROOFS. What the copy engine leaves, line by line.
-/
namespace Sys2Proof.Machine

/-! #### Lines of the copy engine -/

@[simp] theorem outline_opDone (s : State) (n : Nat) (o : EngOp) : (opDone s n o).outline = s.outline := by
  have h : (s.modCtx o.ctx fun c => { c with progress := s.cycle }).outline = s.outline := outline_modCtx _ _ _ fun _ => rfl
  unfold opDone
  dsimp only
  split
  · rw [outline_clearFlag]; exact h
  · exact h

@[simp] theorem outline_opEnd (s : State) (n : Nat) (o : EngOp) : (opEnd s n o).outline = s.outline := by
  unfold opEnd cptTrap
  rw [outline_opDone]
  split <;> rfl

@[simp] theorem outline_noteMove (s : State) (n : Nat) (o : EngOp) : (noteMove s n o).outline = s.outline := outline_modOp _ _ _

@[simp] theorem outline_endLine (s : State) (n : Nat) (o : EngOp) (next total : Nat) :
    (endLine s n o next total).outline = s.outline := by
  simp [endLine]

@[simp] theorem outline_keepLine (s : State) (n : Nat) (o : EngOp) (r : Run) : (keepLine s n o r).outline = s.outline :=
  outline_modOp _ _ _

@[simp] theorem outline_saveLine (s : State) (n : Nat) (o : EngOp) : (saveLine s n o).outline = s.outline := by
  unfold saveLine
  dsimp only
  split
  · rfl
  · split
    · rfl
    · exact outline_ite rfl (outline_keepLine _ _ _ _)

@[simp] theorem outline_clearGot (s : State) (n : Nat) : (clearGot s n).outline = s.outline := rfl

@[simp] theorem outline_fillPages (s : State) (o : EngOp) (z : Nat) (ptrs : List Int) : (fillPages s o z ptrs).outline = s.outline := by
  simp [fillPages]

@[simp] theorem outline_countScratch (s : State) (cl : Nat) (js : List Nat) : (countScratch s cl js).outline = s.outline := by
  simp [countScratch]

@[simp] theorem outline_writeScratch (s : State) (cl : Nat) (xs : List (Nat × Int)) : (writeScratch s cl xs).outline = s.outline :=
  outline_of_fields rfl rfl rfl

@[simp] theorem outline_noteReads (s : State) (o : EngOp) (ls : List Loc) : (noteReads s o ls).outline = s.outline := by
  unfold noteReads
  dsimp only
  rw [outline_touchReads]
  exact outline_ite rfl (outline_countScratch _ _ _)

@[simp] theorem outline_captureElem (s : State) (o : EngOp) (e : Nat) : (captureElem s o e).outline = s.outline := by
  unfold captureElem
  split
  · split
    · split
      · split <;> simp
      · rfl
    · rfl
  · rfl

@[simp] theorem outline_put (r : LineOut) (o : EngOp) (j : Nat) (xs : List (Nat × Int)) :
    (r.put o j xs).s.outline = r.s.outline := by
  unfold LineOut.put
  split
  · rfl
  · dsimp only
    rw [outline_writeScratch]
    exact outline_ite (outline_countScratch _ _ _) rfl

@[simp] theorem shape_write (r : LineOut) (o : EngOp) (l : Loc) (x : Int) :
    (r.write o l x).s.outline.shape = r.s.outline.shape := by
  unfold LineOut.write
  split
  · dsimp only
    split
    · rfl
    · split
      · rfl
      · simp
  all_goals simp

theorem outline_flushTile {r : LineOut} {o : EngOp} {s t : State} {key : Nat × Nat} (h : r.flushTile o s key = .ok t) :
    t.outline = s.outline := by
  unfold LineOut.flushTile at h
  dsimp only at h
  split at h
  · cases h
  · split at h
    · cases h
    · split at h
      · cases h
      · rw [← Except.ok.inj h]; simp

@[simp] theorem outline_flush (r : LineOut) (o : EngOp) : (r.flush o).1.outline = r.s.outline := by
  have h (ks : List (Nat × Nat)) (a : State × Option (Nat × Option Int)) : (ks.foldl (fun a key =>
      match a.2 with
      | some _ => a
      | none => match r.flushTile o a.1 key with
        | .ok s => (s, none)
        | .error e => (a.1, some e)) a).1.outline = a.1.outline := by
    induction ks generalizing a with
    | nil => rfl
    | cons k ks ih =>
      rw [List.foldl_cons, ih]
      split
      · rfl
      · split
        · rename_i ht; exact outline_flushTile ht
        · rfl
  exact h _ _

@[simp] theorem shape_runElem (o : EngOp) (r : Run) (l : Loc) (buf : Option Int) :
    (runElem o r l buf).out.s.outline.shape = r.out.s.outline.shape := by
  unfold runElem
  split
  · split
    · rfl
    · split
      · rfl
      · split
        · split <;> simp
        · simp
  · split
    · rfl
    · dsimp only
      split
      · rfl
      · split
        · simp
        · split <;> simp
        · simp
        · simp

@[simp] theorem shape_runLine (o : EngOp) (total : Nat) (key : Nat × Nat) (dry : Bool) (n : Nat) (buf : List Int) (r : Run) :
    (runLine o total key dry n buf r).out.s.outline.shape = r.out.s.outline.shape := by
  induction n generalizing buf r with
  | zero => rfl
  | succ n ih =>
    unfold runLine
    split
    · rfl
    · split
      · rfl
      · dsimp only
        split
        · rfl
        · split
          · rfl
          · split <;> simp [ih]

@[simp] theorem shape_commitLine (n : Nat) (o : EngOp) (r : Run) (total : Nat) :
    (commitLine n o r total).1.outline.shape = r.out.s.outline.shape := by
  have hf := outline_flush r.out o
  unfold commitLine
  split
  · rename_i s0 e h
    rw [h] at hf
    exact congrArg _ hf
  · rename_i s0 h
    rw [h] at hf
    dsimp only
    split <;> simp [hf]

@[simp] theorem outline_faultWalk (s : State) (o : EngOp) (code : Nat) (addr : Option Int) :
    (faultWalk s o code addr).outline = s.outline := by
  unfold faultWalk
  split
  · exact outline_ite (outline_fillTlb _ _ _ _) rfl
  · rfl

@[simp] theorem shape_opStop (s : State) (n : Nat) (o : EngOp) (e : Nat × Option Int) :
    (opStop s n o e).outline.shape = s.outline.shape := by
  unfold opStop; split <;> simp

@[simp] theorem shape_lineStep (s : State) (n : Nat) (o : EngOp) : (lineStep s n o).outline.shape = s.outline.shape := by
  have hc (r : Run) (total : Nat) (h : r.out.s.outline.shape = s.outline.shape) (s1 : State) (e : Option (Nat × Option Int))
      (hr : commitLine n o r total = (s1, e)) : s1.outline.shape = s.outline.shape := by
    have := shape_commitLine n o r total
    rw [hr] at this
    exact this.trans h
  unfold lineStep
  dsimp only
  split
  · simp
  · generalize hr : runLine o _ _ _ _ _ _ = r
    have hs : r.out.s.outline.shape = s.outline.shape := by rw [← hr]; simp [LineOut.of]
    split
    · simp
    · split
      · split
        · simp
        · split <;> rename_i h <;> simp [hc r _ hs _ _ h]
      · split <;> rename_i h <;> simp [hc r _ hs _ _ h]
      · split
        · rfl
        · split
          · simp [hs]
          · split
            · rename_i h; simp [hc r _ hs _ _ h]
            · rename_i h
              exact shape_ite ((shape_opStop _ _ _ _).trans (hc r _ hs _ _ h)) (hc r _ hs _ _ h)

@[simp] theorem outline_putRow (s : State) (o : EngOp) (d : Nat) (ds : Desc) (i : Nat) (rows : List (List Int)) :
    (putRow s o d ds i rows).outline = s.outline := by
  have hp (f : State → Nat → State) (hf : ∀ s pl, (f s pl).outline = s.outline) :
      (match o.strand with
        | some k => ((List.range ds.planes).foldl f s).modStrand k fun st =>
            { st with bad := st.bad.filter fun b => b.cls != clsM || !(List.range ds.planes).any fun pl => b.idx == d + pl }
        | none => (List.range ds.planes).foldl f s).outline = s.outline := by
    split
    · rw [outline_modStrand, outline_foldl hf]
    · rw [outline_foldl hf]
  unfold putRow
  dsimp only
  refine hp _ fun s pl => ?_
  split
  · exact outline_ite (outline_modStrand _ _ _) (outline_modStrand _ _ _)
  · rfl

end Sys2Proof.Machine
end

section
/-!
PROOFS. The end of the skid: no die gains or loses a partition.
-/
namespace Sys2Proof.Machine

/-- A row of an mld changes no die's partitions in number. -/
theorem shape_mldRow {s t : State} {n : Nat} {o : EngOp} {d : Nat} {sp : Bool} (h : mldRow s n o d sp = .ok t) :
    t.outline.shape = s.outline.shape := by
  unfold mldRow at h
  simp only [bind, Except.bind, pure, Except.pure, throw, throwThe, MonadExceptOf.throw] at h
  split at h
  · split at h
    · cases h
    · split at h
      · rename_i hp; rw [← Except.ok.inj h, outline_wantsPull hp]
      · split at h
        · cases h
        · split at h
          · cases h
          · rw [← Except.ok.inj h]; simp
  · split at h
    · cases h
    · split at h
      · rename_i hp; rw [← Except.ok.inj h, outline_wantsPull hp]
      · split at h
        · cases h
        · rw [← Except.ok.inj h]; simp
        · rw [← Except.ok.inj h]; simp

@[simp] theorem shape_copyLine (s : State) (n : Nat) (o : EngOp) : (copyLine s n o).outline.shape = s.outline.shape := by
  unfold copyLine
  split
  · simp
  · split
    · rfl
    · split
      · simp
      · rename_i h; simp [tookTurn, shape_mldRow h]
    · simp [tookTurn]

@[simp] theorem shape_finishLine (s : State) (n : Nat) : (finishLine s n).outline.shape = s.outline.shape := by
  unfold finishLine
  split
  · rfl
  · exact shape_ite (shape_copyLine _ _ _) rfl

/-! #### Answers and withdrawals -/

@[simp] theorem shape_engineLand (s : State) (n : Nat) : (engineLand s n).outline.shape = s.outline.shape := by
  unfold engineLand
  split
  · rfl
  · dsimp only
    split
    · rfl
    · split
      · split
        · simp
        · split <;> simp
      · split <;> simp
      · simp

@[simp] theorem shape_finishServed (s : State) (g : Nat) : (finishServed s g).outline.shape = s.outline.shape := by
  unfold finishServed
  split
  · simp
  · split
    · rfl
    · rw [shape_thenReplay]
      exact shape_ite (shape_landWait _ _) (shape_finishMem _ _)

@[simp] theorem shape_afterAnswer (s : State) (p : Packet) (owner : Nat) :
    (afterAnswer s p owner).outline.shape = s.outline.shape := by simp [afterAnswer]

@[simp] theorem shape_landAnswer (s : State) (pkt : Nat) (p : Packet) : (landAnswer s pkt p).outline.shape = s.outline.shape := by
  unfold landAnswer
  rw [shape_afterAnswer, outline_foldl (by intros; rfl), outline_dropPacket]

@[simp] theorem shape_landAnswers (s : State) (groups : List Nat) : (landAnswers s groups).outline.shape = s.outline.shape := by
  refine shape_foldl (fun s x => ?_) _ s
  split <;> simp

@[simp] theorem outline_landMessages (s : State) (ws : List Nat) : (landMessages s ws).outline = s.outline := by
  refine outline_foldl (fun s x => ?_) _ s
  split <;> simp

@[simp] theorem shape_withdrawWord (s : State) (k : Nat) : (withdrawWord s k).outline.shape = s.outline.shape := by
  unfold withdrawWord
  split
  · rfl
  · split
    · dsimp only
      split
      · simp
      · split
        · simp
        · rename_i st _ _ _ p g _ _ _ _ _
          have h0 := outline_captureLanes s (s.weaveOf st).ctx ((groupOf s g).filter accDone)
          generalize captureLanes s _ _ = s0 at h0 ⊢
          rw [outline_modStrand]
          split
          · simp [h0]
          · split <;> simp [h0]
          · simp [h0]
    · rfl

@[simp] theorem shape_withdrawOp (s : State) (n : Nat) : (withdrawOp s n).outline.shape = s.outline.shape := by
  unfold withdrawOp
  split
  · rfl
  · dsimp only
    split
    any_goals rw [shape_opFault]
    all_goals
      split
      · rfl
      · rfl
      · exact congrArg Outline.shape ((outline_modOp _ _ _).trans (outline_ite (outline_saveLine _ _ _) rfl))

@[simp] theorem shape_badSaved (s : State) (k : Nat) : (badSaved s k).outline.shape = s.outline.shape := by
  unfold badSaved
  split
  · rfl
  · split <;> simp

@[simp] theorem shape_lostSaved (s : State) (w : Nat) : (lostSaved s w).outline.shape = s.outline.shape := by
  unfold lostSaved
  split
  · rfl
  · dsimp only
    split <;> simp

/-- The end of the skid changes no die's partitions in number. -/
@[simp] theorem shape_settleHalt (s : State) (ws : List Nat) : (settleHalt s ws).outline.shape = s.outline.shape := by
  unfold settleHalt
  dsimp only
  rw [shape_foldl fun s w => shape_lostSaved s w, shape_foldl fun s k => shape_badSaved s k]
  generalize h : List.foldl withdrawOp _ _ = s4
  change s4.outline.shape = _
  rw [← h, shape_foldl shape_withdrawOp, shape_foldl shape_withdrawWord, outline_foldl outline_dropPacket,
    outline_withdrawPackets, outline_landMessages, shape_foldl shape_finishLine, outline_settleWaits, shape_landAnswers,
    outline_settleGrows]

end Sys2Proof.Machine
end

section
/-!
PROOFS. How a halt begins and ends (R321, R324, R332).
-/
namespace Sys2Proof.Machine

/-! ### Partitions of a die, read after they are written -/

theorem die_setDie_self {s : State} {n : Nat} (x : Die) (h : n < s.dies.length) : (s.setDie n x).die n = x := by
  unfold State.die State.setDie
  rw [List.getD_eq_getElem?_getD, List.getElem?_set_self h]
  rfl

theorem setDie_of_le {s : State} {n : Nat} (x : Die) (h : s.dies.length ≤ n) : s.setDie n x = s := by
  unfold State.setDie
  rw [List.set_eq_of_length_le h]

theorem die_setDie_other (s : State) {n d : Nat} (x : Die) (h : d ≠ n) : (s.setDie n x).die d = s.die d := by
  unfold State.die State.setDie
  rw [List.getD_eq_getElem?_getD, List.getElem?_set_ne (Ne.symm h), ← List.getD_eq_getElem?_getD]

theorem part_setDie_of_parts {s : State} {n : Nat} {x : Die} (d p : Nat) (h : x.parts = (s.die n).parts) :
    (s.setDie n x).part d p = s.part d p := by
  by_cases hn : n < s.dies.length
  · unfold State.part
    by_cases hd : d = n
    · rw [hd, die_setDie_self x hn, h]
    · rw [die_setDie_other s x hd]
  · rw [setDie_of_le x (Nat.le_of_not_lt hn)]

theorem part_modPart_self {s : State} {d p : Nat} (f : Part → Part) (hd : d < s.dies.length) (hp : p < (s.die d).parts.length) :
    (s.modPart d p f).part d p = f (s.part d p) := by
  have h := die_setDie_self (s := s) { s.die d with parts := (s.die d).parts.set p (f (s.part d p)) } hd
  unfold State.part at h ⊢
  unfold State.modPart State.setPart State.modDie
  rw [State.part, h, List.getD_eq_getElem?_getD, List.getElem?_set_self hp]
  rfl

theorem part_of_dies {s t : State} (h : t.dies = s.dies) (d p : Nat) : t.part d p = s.part d p := by
  simp [State.part, State.die, h]

/-- States of one shape have the same partitions in number. -/
theorem bounds_of_shape {s t : State} (h : t.outline.shape = s.outline.shape) (d : Nat) :
    t.dies.length = s.dies.length ∧ (d < s.dies.length → (t.die d).parts.length = (s.die d).parts.length) := by
  have hl : t.dies.length = s.dies.length := by simpa [State.outline, -outline_eta] using congrArg List.length h
  refine ⟨hl, fun hd => ?_⟩
  have hg := congrArg (fun l => l[d]?) h
  simpa [State.outline, -outline_eta, State.die, List.getD_eq_getElem?_getD, hd, hl] using hg

theorem dies_writeHost (s : State) (a : Nat) (bs : List Nat) : (writeHost s a bs).dies = s.dies := by
  rw [writeHost_eq]

/-- An event changes no partition. -/
theorem part_postEvent (s : State) (die type ctx queue : Nat) (cause : Int) (d p : Nat) :
    (postEvent s die type ctx queue cause).part d p = s.part d p := by
  have hm (s : State) : (sendMsix s die 0).part d p = s.part d p := by
    unfold sendMsix
    dsimp only
    split
    · rfl
    · split
      · rfl
      · exact part_setDie_of_parts d p (by rfl)
  unfold postEvent
  dsimp only
  split
  · exact part_setDie_of_parts d p (by rfl)
  · rw [hm]
    exact (part_setDie_of_parts d p (by rfl)).trans (part_of_dies (dies_writeHost _ _ _) d p)

theorem part_lateFault (s : State) (ctx : Nat) (before : CtxStatus) (d p : Nat) :
    (lateFault s ctx before).part d p = s.part d p := by
  unfold lateFault
  split
  · rfl
  · dsimp only
    split
    · exact part_postEvent _ _ _ _ _ _ d p
    · rfl

/-! ### The start and the ends of a halt -/

/-- The partition that begins to halt, as it stands then (R321, R330). -/
theorem part_beginHalt {s : State} {die part : Nat} (reason : Nat) (clock : Option Nat) (hd : die < s.dies.length)
    (hp : part < (s.die die).parts.length) : (beginHalt s die part reason clock).part die part =
      { s.part die part with
        phase := .halt (clockTime s clock) (s.cycle + us (s.die die).swapUs) reason, clock := clock } := by
  have hk (cs : List Nat) (q : Nat → Bool) (x : State) : (cs.foldl (fun s c => denyGrows s c q) x).dies = x.dies := by
    induction cs generalizing x with
    | nil => rfl
    | cons c cs ih =>
      rw [List.foldl_cons, ih]
      unfold denyGrows
      dsimp only
      split
      · have hf (rs : List GrowReq) (y : State) :
            (rs.foldl (fun (s : State) r => s.modStrand r.strand fun st => endGrow st r 0 st.granules) y).dies = y.dies := by
          induction rs generalizing y with
          | nil => rfl
          | cons r rs ih => rw [List.foldl_cons, ih]; rfl
        rw [hf]; rfl
      · rfl
  unfold beginHalt
  dsimp only
  rw [part_of_dies (hk _ _ _), part_modPart_self _ hd hp]

/-- A fault's halt leaves memory as its records do, and loses its context where one of them could not be written (R324). -/
theorem endFaultHalt_ends {s : State} {ctx : Nat} {parts : List Nat} {c : Context}
    (h : (settleHalt s ((parts.flatMap fun p => residents s (ctx / 256) p).map Prod.fst)).contexts.get? ctx = some c) :
    let s1 := settleHalt s ((parts.flatMap fun p => residents s (ctx / 256) p).map Prod.fst)
    let rs := imageRecords s1 c 0 parts (parts.flatMap fun p => haltedOn s1 (ctx / 256) p)
    let out := writeRecords s1 ctx (c.stopBase + 3 * (areaUsed c : Int)) (c.stopSize - areaUsed c) rs
    (endFaultHalt s ctx parts).mem = out.1.mem ∧
      (out.2 = false → ((endFaultHalt s ctx parts).contexts.get? ctx).map (·.status) = some .lost) := by
  intro s1 rs out
  have hd : endFaultHalt s ctx parts =
      let hs := parts.flatMap fun p => haltedOn s1 (ctx / 256) p
      let s2 := captureHalt (toArea s1 ctx c rs (hs.map keptOf)).1 ctx rs
      if !out.2 then loseContext s2 ctx .lost true
      else postEvent (parts.foldl (fun s p => freePart s (ctx / 256) p) (clearHalted s2 hs)) (ctx / 256) 1 (ctx % 256) 0
        ((c.fault.map faultCause).getD 0) := by
    unfold endFaultHalt
    dsimp only
    rw [h]
    rfl
  rw [hd]
  generalize parts.flatMap (fun p => haltedOn s1 (ctx / 256) p) = hs
  have hc : (captureHalt (toArea s1 ctx c rs (hs.map keptOf)).1 ctx rs).outline = { s1.outline with mem := out.1.mem } := by
    rw [outline_captureHalt, outline_toArea]; rfl
  dsimp only
  generalize captureHalt _ ctx rs = s2 at hc
  have hm : s2.mem = out.1.mem := congrArg Outline.mem hc
  constructor
  · split
    · rw [mem_loseContext, hm]
    · rw [← outline_mem, outline_postEvent, outline_foldl fun s p => outline_freePart s _ p, outline_clearHalted, outline_mem, hm]
  · intro hf
    have hs : (s2.contexts.get? ctx).isSome = true := by
      have := congrFun (congrArg Outline.status hc) ctx
      simp only [State.outline, h, Option.map_some, s1] at this
      simpa using congrArg Option.isSome this
    rw [hf]
    have := congrFun (congrArg Outline.status (outline_loseContext .lost true hs)) ctx
    simpa [State.outline] using this

/-- A pre-emption's halt leaves the image of its records in the partition's shadow storage (R332). -/
theorem endSwapHalt_shadow {s : State} {die part : Nat} {c : Context} (by_ : Nat) (hd : die < s.dies.length)
    (hp : part < (s.die die).parts.length)
    (h : (settleHalt s ((residents s die part).map Prod.fst)).contexts.get? (s.part die part).ctx = some c) :
    let s1 := settleHalt s ((residents s die part).map Prod.fst)
    ((endSwapHalt s die part by_).part die part).shadow =
      some ⟨(s.part die part).ctx, (imageRecords s1 c 2 [part] (haltedOn s1 die part)).flatten, (haltedOn s1 die part).map keptOf⟩ := by
  intro s1
  unfold endSwapHalt
  dsimp only
  rw [h]
  dsimp only
  rw [part_lateFault]
  generalize hs : (spillShadow _ die part).1 = s3
  have hb : s3.outline.shape = s.outline.shape := by
    rw [← hs, shape_spillShadow, outline_clearHalted, outline_captureHalt, shape_settleHalt]
  obtain ⟨hl, hn⟩ := bounds_of_shape hb die
  rw [part_modPart_self _ (hl ▸ hd) (hn hd ▸ hp)]

end Sys2Proof.Machine
end

section
/-!
PROOFS. The steps that halts, drains, swaps, resumptions and watchdogs take (R13, R320, R321, R330, R332, R334).
-/
namespace Sys2Proof.Machine

/-! ### The steps of halts, drains and swaps (R321, R330, R332) -/

/-- A partition whose halt has gone its whole skid, with no array cycle of its matrix operations left (R312, R321). -/
def SkidOver (s : State) (die p reason : Nat) : Prop :=
  ∃ t b, (s.part die p).phase = .halt t b reason ∧
    t + 12000 ≤ clockTime s (s.part die p).clock ∧ matrixPending s ((residents s die p).map Prod.fst) = false

theorem exec_drainDeadlineExpiry {s : State} {die part d : Nat} (h : (s.part die part).phase = .drain d) (hd : d ≤ s.cycle) :
    exec (.drainDeadlineExpiry die part) s = .next (beginHalt s die part 2 none) := by
  simp [exec, execDrainDeadlineExpiry, h, hd]

/-- The partitions of a context that its own fault halts. -/
def faultHalts (s : State) (die ctx : Nat) : List Nat :=
  (partsOf s ctx).filter fun p => match (s.part die p).phase with | .halt _ _ 0 => true | _ => false

theorem exec_skidBoundExpiry_fault {s : State} {die part t b : Nat} (h : (s.part die part).phase = .halt t b 0)
    (he : ∀ p ∈ faultHalts s die (s.part die part).ctx, SkidOver s die p 0) :
    exec (.skidBoundExpiry die part) s =
      .next (endFaultHalt s (s.part die part).ctx (faultHalts s die (s.part die part).ctx)) := by
  simp only [exec, execSkidBoundExpiry, h]
  rw [if_pos True.intro]
  refine if_pos (List.all_eq_true.mpr fun p hp => ?_)
  obtain ⟨t', b', hph, ht, hm⟩ := he p hp
  simp [hph, hm, Config.skid, ht]

theorem exec_skidBoundExpiry_swap {s : State} {die part t b : Nat} (h : (s.part die part).phase = .halt t b 2)
    (he : SkidOver s die part 2) : exec (.skidBoundExpiry die part) s = .next (endSwapHalt s die part b) := by
  obtain ⟨t', b', hph, ht, hm⟩ := he
  rw [h] at hph
  cases hph
  simp [exec, execSkidBoundExpiry, h, hm, Config.skid, ht]

theorem exec_skidBoundExpiry_spill {s : State} {die part : Nat} (he : SkidOver s die part 4) :
    exec (.skidBoundExpiry die part) s = .next (endSpillHalt s die part) := by
  obtain ⟨t, b, hph, ht, hm⟩ := he
  simp [exec, execSkidBoundExpiry, hph, hm, Config.skid, ht]

theorem exec_swapOutComplete {s : State} {die part t b : Nat} (h : (s.part die part).phase = .imaging t b) (ht : t ≤ s.cycle)
    (hb : t ≤ b) : exec (.swapOutComplete die part) s = .next (freePart
      (s.modCtx (s.part die part).ctx fun y => { y with images := y.images ++ [.shadow part] }) die part) := by
  simp [exec, execSwapOutComplete, h, Nat.not_lt.mpr ht, Nat.not_lt.mpr hb]

theorem exec_swapDeadlineExpiry_halt {s : State} {die part t b r : Nat} (h : (s.part die part).phase = .halt t b r)
    (hr : r ≠ 0) (hb : b ≤ s.cycle) :
    exec (.swapDeadlineExpiry die part) s = .next (loseContext s (s.part die part).ctx .lost true) := by
  simp [exec, execSwapDeadlineExpiry, h, hr, hb]

theorem exec_swapDeadlineExpiry_imaging {s : State} {die part t b : Nat} (h : (s.part die part).phase = .imaging t b)
    (ht : b < t) (hb : b ≤ s.cycle) :
    exec (.swapDeadlineExpiry die part) s = .next (loseContext s (s.part die part).ctx .lost true) := by
  simp [exec, execSwapDeadlineExpiry, h, ht, hb]

/-! ### Resumption (R13, R334) and the watchdogs (R320) -/

/-- A context that may resume answers by what its images hold. -/
theorem exec_resume {s : State} {ctx : Nat} {c : Context} (h : s.contexts.get? ctx = some c) (ha : c.status = .alive)
    (hp : ∃ p ∈ partsOf s ctx, (s.part (ctx / 256) p).phase = .run) (hi : c.images ≠ [] ∨ c.stored ≠ []) :
    exec (.resume ctx) s =
      if reservedSet s ctx c then .next (raiseFault (touchImages s ctx c) ctx none none { code := 12 })
      else match readImages (touchImages s ctx c) ctx c with
      | none => .next (loseContext (touchImages s ctx c) ctx .lost true)
      | some s1 =>
        let s2 := s1.modCtx ctx fun y => { y with stored := [] }
        .next (leaveChecks (placeAll
          { s2 with launches := s2.launches.map fun q =>
              (q.1, if q.2.ctx = ctx then { q.2 with lastStart := none } else q.2) } ctx
          (((s1.contexts.get? ctx).map (·.stored)).getD [])) ctx) := by
  have hr : ((partsOf s ctx).any fun p => (s.part (ctx / 256) p).phase == .run) = true := by
    obtain ⟨p, hm, hph⟩ := hp
    exact List.any_eq_true.mpr ⟨p, hm, by simp [hph]⟩
  have hn : ¬ (c.status ≠ .alive ∨
      (!(partsOf s ctx).any fun p => (s.part (ctx / 256) p).phase == .run) = true ∨ (c.images.isEmpty = true ∧ c.stored.isEmpty = true)) := by
    rw [hr]
    rcases hi with hi | hi <;> simp [ha, hi]
  simp only [exec, execResume, h]
  exact if_neg hn

theorem exec_contextWatchdog {s : State} {ctx t : Nat} {c : Context} (h : s.contexts.get? ctx = some c) (ha : c.status = .alive)
    (hw : ∃ w ∈ s.weaves, w.2.ctx = ctx) (ht : c.watchdog = some t) (hp : c.progress + t ≤ s.cycle) :
    exec (.contextWatchdog ctx) s = .next (raiseFault s ctx none none { code := 13 }) := by
  have hr : (s.weaves.any fun x => x.2.ctx == ctx) = true := by
    obtain ⟨w, hm, hc⟩ := hw
    exact List.any_eq_true.mpr ⟨w, hm, by simp [hc]⟩
  simp only [exec, execContextWatchdog, h, ht]
  exact if_pos ⟨ha, hp, hr⟩

/-- An operation of the copy engine, a transform or a message stalls while nothing excuses it (R320; log 37). -/
theorem opStalls_of {s : State} {n : Nat} {o : EngOp} (hu : o.unit = .copy ∨ o.unit = .transform ∨ o.unit = .message)
    (hc : isCpw o.i = false) (hr : retries s o = false) (hp : ∀ a w, o.phase ≠ .hostPri a w)
    (ha : ∀ a ∈ s.accs, a.eng.isSome = true → a.group = n → ∀ r owner, routeOf s a = some (r, owner) → n ∉ heldUp s r owner) :
    opStalls s n o = true := by
  have hx : ((((s.accs.filter fun a => a.eng.isSome && a.group == n).filterMap (routeOf s)).eraseDups).any fun r =>
      (heldUp s r.1 r.2).contains n) = false := by
    refine List.any_eq_false.mpr fun r hm => ?_
    obtain ⟨a, hf, hroute⟩ := List.mem_filterMap.mp (List.mem_eraseDups.mp hm)
    obtain ⟨hm', he⟩ := List.mem_filter.mp hf
    simp only [Bool.and_eq_true, beq_iff_eq] at he
    simpa using ha a hm' he.1 he.2 r.1 r.2 hroute
  unfold opStalls
  dsimp only
  rw [hx, hr]
  have hl : ((o.unit == .copy && !isCpw o.i) || o.unit == .transform || o.unit == .message) = true := by
    rcases hu with hu | hu | hu <;> simp [hu, hc]
  split
  · rename_i a w h; exact absurd h (hp a w)
  · simp [hl]

theorem exec_operationWatchdog {s : State} {n : Nat} {o : EngOp} (h : s.ops.get? n = some o) (hs : opStalls s n o = true)
    (hl : opLives s o = true) (ht : o.movedAt + 1594323 ≤ (counter s o.core).toNat) :
    exec (.operationWatchdog n) s = .next (opFault s n o 13) := by
  simp [exec, execOperationWatchdog, h, hs, hl, Config.opWatchdog, ht]

end Sys2Proof.Machine
end

section
/-!
PROOFS. Fields of words, and where the parts of a list stand in it.
-/
namespace Sys2Proof.Machine

/-! ### Fields of a record's words (R10, R325) -/

theorem half_27 : half 27 = 3812798742493 := by decide
theorem half_21 : half 21 = 5230176601 := by decide
theorem half_6 : half 6 = 364 := by decide

theorem headerWord_fields {kind length : Nat} (hk : kind ≤ 26) (hl : length ≤ 3486784401) :
    idx (headerWord kind length) 24 3 = kind ∧ idx (headerWord kind length) 21 3 = 0 ∧
      sgd (headerWord kind length) 0 21 = length := by
  simp only [idx, sgd, sfield, field, offset, headerWord, half_27, half_21]
  omega

theorem stopWord_fields {reason code pos lane cls reg : Nat} (hr : reason ≤ 26) (hc : code ≤ 26) (hp : pos ≤ 26)
    (hl : lane ≤ 80) (hs : cls ≤ 26) (hg : reg ≤ 242) :
    let w := stopWord reason code pos lane cls reg
    idx w 24 3 = reason ∧ idx w 21 3 = code ∧ idx w 18 3 = pos ∧ idx w 14 4 = lane ∧ idx w 11 3 = cls ∧ idx w 6 5 = reg ∧
      sgd w 0 6 = 0 := by
  simp only [idx, sgd, sfield, field, offset, stopWord, half_27, half_6]
  omega

/-- A word that fits 27 trits is its own wrapped value (R66). -/
theorem wrapVal_of_fits {x : Int} (h : fits 27 x = true) : wrapVal x 27 = x := by
  simp only [fits, half_27, Bool.and_eq_true, decide_eq_true_eq] at h
  have hq : (2 * x.natAbs + 3 ^ 27 - 1) / (2 * 3 ^ 27) = 0 := by omega
  have hn : nearestDiv x (3 ^ 27) = 0 := by simp only [nearestDiv, hq]; simp
  simp only [wrapVal, wrap, hn]
  simp

theorem sum_map_mul_left (l : List Nat) (f : Nat → Int) (r : Int) : (l.map fun i => r * f i).sum = r * (l.map f).sum := by
  induction l with
  | nil => simp
  | cons a l ih => rw [List.map_cons, List.map_cons, List.sum_cons, List.sum_cons, ih, Int.mul_add]

/-- The value of a run of trits, as a sum (R8). -/
theorem ofTrits_range (n : Nat) (f : Nat → Int) :
    ofTrits ((List.range n).map f) = ((List.range n).map fun i => f i * 3 ^ i).sum := by
  induction n generalizing f with
  | zero => rfl
  | succ n ih =>
    have h : (fun i => f (i + 1) * (3 : Int) ^ (i + 1)) = fun i => 3 * (f (i + 1) * (3 : Int) ^ i) := by
      funext i
      rw [Int.pow_succ, ← Int.mul_assoc, Int.mul_comm]
    rw [List.range_succ_eq_map, List.map_cons, ofTrits, List.map_map, List.map_cons, List.sum_cons, List.map_map,
      show ((fun i => f i * 3 ^ i) ∘ Nat.succ) = fun i => 3 * (f (i + 1) * (3 : Int) ^ i) from h, sum_map_mul_left, ih,
      Int.pow_zero, Int.mul_one]
    rfl

/-- A set of trits that are 0 or 1, as the sum of its powers. -/
theorem ofTrits_set (n : Nat) (p : Nat → Bool) :
    ofTrits ((List.range n).map fun i => if p i then 1 else 0) = ((List.range n).map fun i => if p i then (3 : Int) ^ i else 0).sum := by
  rw [ofTrits_range]
  congr 2
  funext i
  split <;> simp

theorem sum_filter_map (l : List Nat) (p : Nat → Bool) (f : Nat → Int) :
    ((l.filter p).map f).sum = (l.map fun i => if p i then f i else 0).sum := by
  induction l with
  | nil => rfl
  | cons a l ih =>
    rw [List.filter_cons, List.map_cons, List.sum_cons, ← ih]
    split <;> simp

/-! ### Segments of a record -/

/-- The list `xs` stands in `w` from place `n` on. -/
def Segment {α : Type} (w : List α) (n : Nat) (xs : List α) : Prop := ∀ i, i < xs.length → w[n + i]? = xs[i]?

section
variable {α : Type} {w : List α} {n : Nat}

theorem Segment.at {xs : List α} {m : Nat} (h : Segment w n xs) (hm : m = n) : Segment w m xs := hm ▸ h

theorem Segment.self (w : List α) : Segment w 0 w := fun i _ => by rw [Nat.zero_add]

@[simp] theorem segment_nil : Segment w n [] := fun _ h => absurd h (Nat.not_lt_zero _)

@[simp] theorem segment_cons {x : α} {xs : List α} : Segment w n (x :: xs) ↔ w[n]? = some x ∧ Segment w (n + 1) xs := by
  constructor
  · refine fun h => ⟨h 0 (Nat.zero_lt_succ _), fun i hi => ?_⟩
    rw [Nat.add_assoc, Nat.add_comm 1 i]
    exact h (i + 1) (Nat.succ_lt_succ hi)
  · rintro ⟨h0, h⟩ i hi
    cases i with
    | zero => exact h0
    | succ i =>
      rw [← Nat.add_assoc, Nat.add_right_comm]
      exact h i (Nat.lt_of_succ_lt_succ hi)

theorem segment_append {xs ys : List α} : Segment w n (xs ++ ys) ↔ Segment w n xs ∧ Segment w (n + xs.length) ys := by
  induction xs generalizing n with
  | nil => simp
  | cons x xs ih =>
    rw [List.cons_append, segment_cons, ih, segment_cons, and_assoc, List.length_cons, Nat.add_assoc, Nat.add_comm 1]

theorem Segment.flatMap {β : Type} {f : β → List α} {l : List β} (h : Segment w n (l.flatMap f)) {j : Nat} {x : β}
    (hx : l[j]? = some x) : Segment w (n + ((l.take j).map fun y => (f y).length).sum) (f x) := by
  induction l generalizing n j with
  | nil => cases hx
  | cons y l ih =>
    rw [List.flatMap_cons, segment_append] at h
    cases j with
    | zero => cases hx; exact h.1
    | succ j =>
      rw [List.take_succ_cons, List.map_cons, List.sum_cons, ← Nat.add_assoc]
      exact ih h.2 hx

/-- Blocks of one length `k` stand `k` places apart. -/
theorem Segment.blocks {β : Type} {f : β → List α} {l : List β} {k : Nat} (hk : ∀ y ∈ l, (f y).length = k)
    (h : Segment w n (l.flatMap f)) {j : Nat} {x : β} (hx : l[j]? = some x) : Segment w (n + k * j) (f x) := by
  have hs : ((l.take j).map fun y => (f y).length).sum = k * j := by
    rw [List.map_congr_left fun y hy => hk y (List.mem_of_mem_take hy), List.map_const', List.sum_replicate_nat,
      List.length_take_of_le (Nat.le_of_lt (List.getElem?_eq_some_iff.mp hx).1), Nat.mul_comm]
  exact hs ▸ h.flatMap hx

theorem Segment.map_range {f : Nat → α} {m : Nat} (h : Segment w n ((List.range m).map f)) {i : Nat} (hi : i < m) :
    w[n + i]? = some (f i) := by
  rw [h i (by simpa using hi)]
  simp [hi]

theorem length_flatMap_const {β : Type} {f : β → List α} {l : List β} {k : Nat} (hk : ∀ y ∈ l, (f y).length = k) :
    (l.flatMap f).length = k * l.length := by
  rw [List.length_flatMap, List.map_congr_left hk, List.map_const', List.sum_replicate_nat, Nat.mul_comm]

end

section
variable {w : List Int} {n : Nat}

theorem getD_of_getElem? {α : Type} {w : List α} {n : Nat} {x : α} (d : α) (h : w[n]? = some x) : w.getD n d = x := by
  rw [List.getD_eq_getElem?_getD, h]; rfl

theorem getD_beyond {i : Nat} (h : w.length ≤ i) : w.getD i 0 = 0 := by
  rw [List.getD_eq_getElem?_getD, List.getElem?_eq_none h]; rfl

theorem Segment.pairAt {x : Int} (h : Segment w n (pairWords x)) : pairAt w n x := by
  simp only [pairWords, segment_cons] at h
  exact ⟨getD_of_getElem? 0 h.1, getD_of_getElem? 0 h.2.1⟩

@[simp] theorem length_pairWords (x : Int) : (pairWords x).length = 2 := rfl

@[simp] theorem length_fillTo (m : Nat) (xs : List Int) : (fillTo m xs).length = m := by simp [fillTo]

/-- Words filled to a length read as they are, and 0 behind them. -/
theorem Segment.fillTo {m : Nat} {xs : List Int} (h : Segment w n (fillTo m xs)) {i : Nat} (hi : i < m) :
    w.getD (n + i) 0 = xs.getD i 0 := getD_of_getElem? 0 (h.map_range hi)

/-- Words that fit the length they are filled to stand there. -/
theorem Segment.of_fillTo {m : Nat} {xs : List Int} (h : Segment w n (Machine.fillTo m xs)) (hl : xs.length ≤ m) : Segment w n xs := by
  intro i hi
  rw [h.map_range (Nat.lt_of_lt_of_le hi hl), List.getD_eq_getElem?_getD, List.getElem?_eq_getElem hi]
  rfl

end

end Sys2Proof.Machine
end

section
/-!
PROOFS. The block of a thread and the record of a strand (R326, R327).
-/
namespace Sys2Proof.Machine

/-! ### The block of a thread (R322, R326) -/

theorem length_threadWords (th : Thread) : (threadWords th).length = 10 := rfl

/-- The ten words of a thread's block, from its state, barrier, place and marks. -/
theorem threadWords_stand (th : Thread) : Segment (threadWords th) 0
    ([(((threadState th).1 : Int) - 13) * 3 ^ 24 + (((threadState th).2 : Int) - 13) * 3 ^ 21 +
        (((threadRest th).2 : Int) - 13) * 3 ^ 18 + ((th.savedPos : Int) - 13) * 3 ^ 15] ++
      pairWords (threadRest th).1 ++ pairWords th.savedPc ++ (List.range 4).map (fun i => condImage (th.cond i)) ++
      [ofTrits ((List.range 27).map fun n => if th.marks.contains n then 1 else 0)]) := Segment.self _

/-- The state and the barrier number of a thread, by its status and the barrier that a trap took it from (R326). -/
theorem threadState_table (th : Thread) {P : Nat → Nat → Prop} (h : P (threadState th).1 (threadState th).2) :
    match th.status with
    | .ended => P 1 0
    | .absent => P 2 0
    | .bar n => P 3 n
    | .barw n => P 4 n
    | .inTret => match th.ret with
      | none => P 5 0
      | some (n, _) => P 7 n
    | _ => match th.ret with
      | none => P 0 0
      | some (n, _) => P 6 n := by
  cases hs : th.status <;> cases hr : th.ret <;> simp only [threadState, hs, hr] at h ⊢ <;> exact h

theorem threadBlocks : ThreadBlocks := by
  refine ⟨fun kind length hk hl => headerWord_fields hk hl,
    fun reason code pos lane cls reg h1 h2 h3 h4 h5 h6 => stopWord_fields h1 h2 h3 h4 h5 h6, fun th => ?_⟩
  have hs := threadWords_stand th
  simp only [segment_append, segment_cons] at hs
  obtain ⟨⟨⟨⟨⟨hw, -⟩, hpc⟩, hsaved⟩, hcond⟩, hmarks, -⟩ := hs
  intro w stands
  have hst : stands (threadState th).1 (threadState th).2 := by
    intro pc pos h
    have hr : threadRest th = (pc, pos) := h.symm
    rw [hr] at hw hpc
    exact ⟨getD_of_getElem? 0 hw, hpc.pairAt⟩
  refine ⟨length_threadWords th, hsaved.pairAt, threadState_table th hst, fun i hi => ?_, ?_⟩
  · exact getD_of_getElem? 0 (hcond.map_range hi)
  · refine (getD_of_getElem? 0 hmarks).trans ((ofTrits_set 27 _).trans ?_)
    simp only [List.contains_iff_mem]

/-! ### Strand records (R326, R327) -/

/-- The tiles that a strand declares, by number. -/
def declaredTiles (st : Strand) : List Nat := (List.range 9).filter fun i => (st.tiles.get? i).isSome

/-- The first 27 words of a strand's record, before they are filled. -/
def strandHead (s : State) (st : Strand) (ord : Nat) (cause : Int) (n : Nat) : List Int :=
  [headerWord 2 n, cause] ++ pairWords st.faultAddr ++
      [(ord : Int), (st.number : Int), allocationWord st, st.cause, maskWord st.mask (st.mask.global && timerDue s st)] ++
      pairWords st.trapMask ++ pairWords st.handlerPc ++ pairWords st.comparator ++ pairWords (counter s st.core) ++
      pairWords st.presentMask ++ [(st.replay.length : Int), wrapVal st.stall 27]

theorem filterMap_eq_map_filter {α : Type} (l : List Nat) (f : Nat → Option α) :
    (l.filterMap f).map some = (l.filter fun i => (f i).isSome).map f := by
  induction l with
  | nil => rfl
  | cons a l ih =>
    cases h : f a with
    | none => simp [h, ih]
    | some x => simp [h, ih]

/-- The words of the declared tiles, in the order of their numbers. -/
theorem declared_tiles (st : Strand) :
    ((List.range 9).filterMap fun i => st.tiles.get? i).map some = (declaredTiles st).map st.tiles.get? :=
  filterMap_eq_map_filter _ _

theorem length_tileWords (t : Tile) : (tileWords t).length = 865 := by simp [tileWords, Cells.getRun]

theorem length_replayWords (r : Replay) : (replayWords r).length = 9 := rfl

theorem allocationWord_eq (st : Strand) : allocationWord st =
    ((st.granules : Int) - 14) * 3 ^ 24 + ((declaredTiles st).map fun i => (3 : Int) ^ (15 + i)).sum +
      ((List.range 12).map fun i => if st.flag i then (3 : Int) ^ i else 0).sum := by
  unfold allocationWord declaredTiles
  rw [ofTrits_set, ofTrits_set, sum_filter_map, ← sum_map_mul_left]
  congr 4
  funext i
  split
  · exact (Int.pow_add 3 15 i).symm
  · exact Int.mul_zero _

/-- The tiles whose words a strand's record holds. -/
def savedTiles (st : Strand) : List Tile := (List.range 9).filterMap fun i => st.tiles.get? i

theorem length_savedTiles (st : Strand) : (savedTiles st).length = (declaredTiles st).length := by
  rw [← List.length_map (f := some), savedTiles, declared_tiles, List.length_map]

/-- The parts of a strand's record, where they stand. -/
theorem strandWords_stand (s : State) (st : Strand) (ord : Nat) (cause : Int) :
    let w := strandWords s st ord cause
    let tiles := 446 + 288 * st.granules
    let replays := tiles + 865 * (declaredTiles st).length
    w.length = replays + 9 * st.replay.length ∧
    Segment w 0 (fillTo 27 (strandHead s st ord cause w.length)) ∧
    Segment w 27 ((List.range 81).map st.sget) ∧
    Segment w 108 ((List.range 9).flatMap fun i => pairWords (st.areg i)) ∧
    Segment w 126 ((List.range 32).flatMap fun l => threadWords (st.thread l)) ∧
    Segment w 446 ((List.range (9 * st.granules)).flatMap fun j => (List.range 32).map fun l => (st.thread l).vget j) ∧
    Segment w tiles ((savedTiles st).flatMap tileWords) ∧
    Segment w replays (st.replay.flatMap replayWords) := by
  intro w tiles replays
  have ha : ((List.range 9).flatMap fun i => pairWords (st.areg i)).length = 18 := length_flatMap_const (k := 2) fun _ _ => rfl
  have ht : ((List.range 32).flatMap fun l => threadWords (st.thread l)).length = 320 :=
    length_flatMap_const (k := 10) fun _ _ => rfl
  have hv : ((List.range (9 * st.granules)).flatMap fun j => (List.range 32).map fun l => (st.thread l).vget j).length =
      288 * st.granules := by
    rw [length_flatMap_const (k := 32) (by simp), List.length_range]
    omega
  have hm : ((savedTiles st).flatMap tileWords).length = 865 * (declaredTiles st).length := by
    rw [length_flatMap_const (k := 865) fun t _ => length_tileWords t, length_savedTiles]
  have hr : (st.replay.flatMap replayWords).length = 9 * st.replay.length := length_flatMap_const fun r _ => length_replayWords r
  have hw : w = fillTo 27 (strandHead s st ord cause (replays + 9 * st.replay.length)) ++ (List.range 81).map st.sget ++
      ((List.range 9).flatMap fun i => pairWords (st.areg i)) ++
      ((List.range 32).flatMap fun l => threadWords (st.thread l)) ++
      ((List.range (9 * st.granules)).flatMap fun j => (List.range 32).map fun l => (st.thread l).vget j) ++
      (savedTiles st).flatMap tileWords ++ st.replay.flatMap replayWords := by
    simp only [w, replays, tiles, ← length_savedTiles]
    rfl
  have hl : w.length = replays + 9 * st.replay.length := by
    rw [hw]
    simp only [List.length_append, length_fillTo, List.length_map, List.length_range, ha, ht, hv, hm, hr]
    omega
  refine ⟨hl, ?_⟩
  rw [hl]
  have hs := Segment.self w
  rw [hw] at hs ⊢
  simp only [segment_append, List.length_append, length_fillTo, List.length_map, List.length_range, ha, ht, hv, hm] at hs
  obtain ⟨⟨⟨⟨⟨⟨h0, h1⟩, h2⟩, h3⟩, h4⟩, h5⟩, h6⟩ := hs
  exact ⟨h0, h1, h2, h3, h4, h5.at (by simp only [tiles]; omega), h6.at (by simp only [replays, tiles]; omega)⟩

/-- The first 27 words of a strand's record, one by one. -/
theorem strandHead_stand {s : State} {st : Strand} {ord : Nat} {cause : Int} {n : Nat} {w : List Int}
    (h : Segment w 0 (fillTo 27 (strandHead s st ord cause n))) :
    w.getD 0 0 = headerWord 2 n ∧ w.getD 1 0 = cause ∧ pairAt w 2 st.faultAddr ∧ w.getD 4 0 = ord ∧ w.getD 5 0 = st.number ∧
      w.getD 6 0 = allocationWord st ∧ w.getD 7 0 = st.cause ∧
      w.getD 8 0 = maskWord st.mask (st.mask.global && timerDue s st) ∧ pairAt w 9 st.trapMask ∧ pairAt w 11 st.handlerPc ∧
      pairAt w 13 st.comparator ∧ pairAt w 15 (counter s st.core) ∧ pairAt w 17 st.presentMask ∧
      w.getD 19 0 = st.replay.length ∧ w.getD 20 0 = wrapVal st.stall 27 ∧ ∀ i, 21 ≤ i → i ≤ 26 → w.getD i 0 = 0 := by
  have hl : (strandHead s st ord cause n).length = 21 := rfl
  have hz : ∀ i, 21 ≤ i → i ≤ 26 → w.getD i 0 = 0 := fun i h1 h2 => by
    have := h.fillTo (i := i) (by omega)
    rw [Nat.zero_add] at this
    exact this.trans (getD_beyond (hl ▸ h1))
  have hs := h.of_fillTo (by omega)
  simp only [strandHead, segment_append, segment_cons] at hs
  obtain ⟨⟨⟨⟨⟨⟨⟨⟨⟨h0, h1, -⟩, h2⟩, h4, h5, h6, h7, h8, -⟩, h9⟩, h11⟩, h13⟩, h15⟩, h17⟩, h19, h20, -⟩ := hs
  exact ⟨getD_of_getElem? 0 h0, getD_of_getElem? 0 h1, h2.pairAt, getD_of_getElem? 0 h4, getD_of_getElem? 0 h5,
    getD_of_getElem? 0 h6, getD_of_getElem? 0 h7, getD_of_getElem? 0 h8, h9.pairAt, h11.pairAt, h13.pairAt, h15.pairAt,
    h17.pairAt, getD_of_getElem? 0 h19, getD_of_getElem? 0 h20, hz⟩

/-- A declared tile's place among those saved. -/
theorem savedTiles_get {st : Strand} {n d : Nat} {t : Tile} (hd : (declaredTiles st)[n]? = some d)
    (ht : st.tiles.get? d = some t) : (savedTiles st)[n]? = some t := by
  have := congrArg (fun l => l[n]?) (declared_tiles st)
  simp only [List.getElem?_map, hd, Option.map_some, ht] at this
  simpa [savedTiles] using this

/-- The nine words of a replay entry (R327). -/
theorem replayWords_stand {w : List Int} {q : Nat} {r : Replay} (h : Segment w q (replayWords r)) :
    w.getD q 0 = ((r.lane : Int) - 40) * 3 ^ 23 + (if r.once then 3 ^ 22 else 0) ∧ w.getD (q + 1) 0 = r.w0 ∧
      w.getD (q + 2) 0 = r.w1 ∧ pairAt w (q + 3) r.addr ∧ pairAt w (q + 5) r.data ∧ pairAt w (q + 7) r.expect := by
  simp only [replayWords, segment_append, segment_cons] at h
  obtain ⟨⟨⟨⟨h0, h1, h2, -⟩, h3⟩, h5⟩, h7⟩ := h
  exact ⟨getD_of_getElem? 0 h0, getD_of_getElem? 0 h1, getD_of_getElem? 0 h2, h3.pairAt, h5.pairAt, h7.pairAt⟩

theorem strandRecords : StrandRecords := by
  intro s st ord cause w at_ declared tiles replays
  obtain ⟨hl, h0, h27, h108, h126, h446, ht, hr⟩ := strandWords_stand s st ord cause
  obtain ⟨w0, w1, w2, w4, w5, w6, w7, w8, w9, w11, w13, w15, w17, w19, w20, w21⟩ := strandHead_stand h0
  refine ⟨hl, w0, w1, w2, w4, w5, w6.trans (allocationWord_eq st), w7, w8, w9, w11, w13, w15, w17, w19,
    fun hf => w20.trans (wrapVal_of_fits hf), w21, fun j hj => ?_, fun i hi => ?_, fun l i hl' hi => ?_,
    fun j l hj hl' => ?_, fun n d t hd hg => ?_, fun k r hk => ?_⟩
  · exact getD_of_getElem? 0 (h27.map_range hj)
  · exact (h108.blocks (k := 2) (fun _ _ => rfl) (List.getElem?_range hi)).pairAt
  · have hb := h126.blocks (k := 10) (fun _ _ => rfl) (List.getElem?_range hl')
    have := hb i hi
    exact (congrArg (·.getD 0) this : _)
  · exact getD_of_getElem? 0 ((h446.blocks (k := 32) (by simp) (List.getElem?_range hj)).map_range hl')
  · have hb := ht.blocks (fun t _ => length_tileWords t) (savedTiles_get hd hg)
    rw [tileWords, segment_cons] at hb
    refine ⟨getD_of_getElem? 0 hb.1, fun r c hr hc => ?_⟩
    have := hb.2.map_range (i := 27 * r + c) (by omega)
    rw [Nat.zero_add, ← Nat.add_assoc] at this
    exact getD_of_getElem? 0 this
  · exact replayWords_stand (hr.blocks (fun r _ => length_replayWords r) hk)

end Sys2Proof.Machine
end

section
/-!
PROOFS. The records of weaves and engine operations (R328, R329).
-/
namespace Sys2Proof.Machine

/-! ### Weave records (R328) -/

theorem length_slotWords (x : Option Slot × Int) : (slotWords x).length = 2 := by
  unfold slotWords; split <;> rfl

theorem slotWords_eq (x : Option Slot × Int) : slotWords x = [x.2, match x.1 with
    | some y => (y.view : Int) * 3 ^ 12 + y.table
    | none => 0] := by
  obtain ⟨_ | y, e⟩ := x <;> rfl

theorem weaveRecords : WeaveRecords := by
  intro s wv hslots hexts w at_
  have hz : (wv.slots.zip wv.exts).length = 3 := by rw [List.length_zip, hslots, hexts]; rfl
  have hf : ((wv.slots.zip wv.exts).flatMap slotWords).length = 6 := by
    rw [length_flatMap_const (k := 2) fun x _ => length_slotWords x, hz]
  have hl : w.length = 42 + wv.len := by
    simp only [w, weaveWords, List.length_append, hf, length_pairWords, List.length_map, List.length_range, Cells.getRun,
      List.length_cons, List.length_nil]
  have hs := Segment.self w
  simp only [w, weaveWords, segment_append, List.length_append, hf, length_pairWords, List.length_map, List.length_range,
    segment_cons, List.length_cons, List.length_nil] at hs
  obtain ⟨⟨⟨⟨⟨⟨h0, -⟩, h1⟩, h3, h4, h5, h6, h7, h8, -⟩, h9⟩, h15⟩, h42⟩ := hs
  refine ⟨hl, (getD_of_getElem? 0 h0).trans (by rw [hl]), h1.pairAt, getD_of_getElem? 0 h3, getD_of_getElem? 0 h4,
    getD_of_getElem? 0 h5, getD_of_getElem? 0 h6, getD_of_getElem? 0 h7, getD_of_getElem? 0 h8, fun i hi => ?_,
    fun n hn => getD_of_getElem? 0 (h15.map_range hn), fun j hj => getD_of_getElem? 0 (h42.map_range hj)⟩
  have hx : (wv.slots.zip wv.exts)[i]? = some (wv.slots.getD i none, wv.exts.getD i 0) := by
    rw [List.getElem?_zip_eq_some]
    simp [List.getD_eq_getElem?_getD, hslots, hexts, hi]
  have hb := h9.blocks (fun x _ => length_slotWords x) hx
  rw [slotWords_eq] at hb
  simp only [segment_cons] at hb
  have hb1 := hb.2.1
  rw [Nat.add_right_comm] at hb1
  exact ⟨getD_of_getElem? 0 hb.1, getD_of_getElem? 0 hb1⟩

/-! ### Engine records (R329) -/

/-- The value that an engine record shows for an operation's source operand. -/
def recordedVa (o : EngOp) : Int :=
  match o.i with
  | .cpf .. => 0
  | _ => o.va

/-- The words of an engine record before word 45. -/
def engineHead (s : State) (o : EngOp) (ord : Nat) : List Int :=
  [headerWord 3 (45 + (engineTail s o).length), (ord : Int),
      ((Enc.opOf o.w0 : Int) - 121) * 3 ^ 22 + ((o.flag : Int) - 13) * 3 ^ 19, o.w0, o.w1] ++ pairWords o.vd ++
    pairWords (recordedVa o) ++ pairWords o.vsig ++ [o.sval] ++ pairWords (o.prog : Nat) ++ blockWords o

theorem engineWords_eq (s : State) (o : EngOp) (ord : Nat) :
    engineWords s o ord = fillTo 45 (engineHead s o ord) ++ engineTail s o := rfl

/-- An engine record: its 14 first words, what it says of the operation's block, and what follows word 44. -/
theorem engineWords_stand (s : State) (o : EngOp) (ord : Nat) :
    let w := engineWords s o ord
    w.length = 45 + (engineTail s o).length ∧
    (w.getD 0 0 = headerWord 3 w.length ∧ w.getD 1 0 = ord ∧
      w.getD 2 0 = ((Enc.opOf o.w0 : Int) - 121) * 3 ^ 22 + ((o.flag : Int) - 13) * 3 ^ 19 ∧ w.getD 3 0 = o.w0 ∧ w.getD 4 0 = o.w1 ∧
      pairAt w 5 o.vd ∧ pairAt w 9 o.vsig ∧ w.getD 11 0 = o.sval ∧ pairAt w 12 o.prog) ∧
    pairAt w 7 (recordedVa o) ∧
    (∀ i, i < 31 → w.getD (14 + i) 0 = (blockWords o).getD i 0) ∧
    ∀ i, w.getD (45 + i) 0 = (engineTail s o).getD i 0 := by
  intro w
  have hl : w.length = 45 + (engineTail s o).length := by
    rw [show w = _ from engineWords_eq s o ord, List.length_append, length_fillTo]
  have hs := Segment.self w
  rw [show w = _ from engineWords_eq s o ord, segment_append, length_fillTo] at hs
  obtain ⟨hh, ht⟩ := hs
  rw [← engineWords_eq] at hh ht
  have hw (i : Nat) (hi : i < 45) : w.getD i 0 = (engineHead s o ord).getD i 0 := by
    have := hh.fillTo hi
    rwa [Nat.zero_add] at this
  have hx (i : Nat) (x : Int) (hi : i < 45) (h : (engineHead s o ord)[i]? = some x) : w.getD i 0 = x :=
    (hw i hi).trans (getD_of_getElem? 0 h)
  have hp (i : Nat) (x : Int) (hi : i + 1 < 45) (h : Segment (engineHead s o ord) i (pairWords x)) : pairAt w i x :=
    ⟨(hw i (by omega)).trans h.pairAt.1, (hw (i + 1) hi).trans h.pairAt.2⟩
  have hg := Segment.self (engineHead s o ord)
  conv at hg => arg 3; rw [engineHead]
  simp only [segment_append, segment_cons] at hg
  obtain ⟨⟨⟨⟨⟨⟨⟨h0, h1, h2, h3, h4, -⟩, h5⟩, h7⟩, h9⟩, h11, -⟩, h12⟩, -⟩ := hg
  refine ⟨hl, ⟨?_, hx 1 _ (by omega) h1, hx 2 _ (by omega) h2, hx 3 _ (by omega) h3, hx 4 _ (by omega) h4,
    hp 5 _ (by omega) h5, hp 9 _ (by omega) h9, hx 11 _ (by omega) h11, hp 12 _ (by omega) h12⟩, hp 7 _ (by omega) h7,
    fun i hi => ?_, fun i => ?_⟩
  · rw [hl]; exact hx 0 _ (by omega) h0
  · rw [hw _ (by omega), engineHead, List.getD_eq_getElem?_getD, List.getElem?_append_right (Nat.le_add_right 14 i),
      ← List.getD_eq_getElem?_getD]
    exact congrArg (fun k => (blockWords o).getD k 0) (Nat.add_sub_cancel_left 14 i)
  · by_cases hi : i < (engineTail s o).length
    · have := ht i hi
      rw [Nat.zero_add] at this
      rw [List.getD_eq_getElem?_getD, this, List.getD_eq_getElem?_getD]
    · rw [getD_beyond (by omega), getD_beyond (by omega)]

/-- What follows word 44 for an operation that has a line buffer. -/
def bufferTail (o : EngOp) : List Int := (o.buffer.map fun ws => 1 :: fillTo 27 ws).getD (List.replicate 28 0)

theorem bufferTail_words (o : EngOp) : (bufferTail o).length = 28 ∧
    (bufferTail o).getD 0 0 = (if o.buffer.isSome then 1 else 0) ∧
      ∀ i, i < 27 → (bufferTail o).getD (1 + i) 0 = (o.buffer.getD []).getD i 0 := by
  cases hb : o.buffer with
  | some ws =>
    refine ⟨by simp [bufferTail, hb], by simp [bufferTail, hb], fun i hi => ?_⟩
    rw [bufferTail, hb, Option.map_some, Option.getD_some, Nat.add_comm, List.getD_cons_succ]
    simp [fillTo, hi]
  | none =>
    refine ⟨by simp [bufferTail, hb], by simp [bufferTail, hb], fun i hi => ?_⟩
    rw [bufferTail, hb, Option.map_none, Option.getD_none, List.getD_eq_getElem?_getD, List.getElem?_replicate,
      if_pos (by omega)]
    simp

section
variable {s : State} {o : EngOp} (ord : Nat)

/-- An operation with a line buffer: its record's length, and the buffer's words (R329). -/
theorem engineRecord_buffer (ht : engineTail s o = bufferTail o) :
    let w := engineWords s o ord
    w.length = 73 ∧ w.getD 45 0 = (if o.buffer.isSome then 1 else 0) ∧
      ∀ i, i < 27 → w.getD (46 + i) 0 = (o.buffer.getD []).getD i 0 := by
  obtain ⟨hl, -, -, -, htail⟩ := engineWords_stand s o ord
  obtain ⟨hb, hb0, hbs⟩ := bufferTail_words o
  refine ⟨by rw [hl, ht, hb], (htail 0).trans (by rw [ht, hb0]), fun i hi => ?_⟩
  have := (htail (1 + i)).trans ((congrArg (·.getD (1 + i) 0) ht).trans (hbs i hi))
  rwa [← Nat.add_assoc] at this

/-- An operation whose block stands as it was read at the issue. -/
theorem engineRecord_block (hb : blockWords o = o.block) (i : Nat) (hi : i < 31) :
    (engineWords s o ord).getD (14 + i) 0 = o.block.getD i 0 := by
  obtain ⟨-, -, -, hblock, -⟩ := engineWords_stand s o ord
  rw [hblock i hi, hb]

theorem engineRecord_va (hv : recordedVa o = o.va) : pairAt (engineWords s o ord) 7 o.va := by
  obtain ⟨-, -, hva, -, -⟩ := engineWords_stand s o ord
  exact hv ▸ hva

/-- A transform: no block, and its working store (R329). -/
theorem engineRecord_transform (ht : engineTail s o = fillTo (storeLength s o) o.z) (hb : blockWords o = []) :
    let w := engineWords s o ord
    w.length = 45 + storeLength s o ∧ (∀ i, i < 31 → w.getD (14 + i) 0 = 0) ∧
      ∀ i, i < storeLength s o → w.getD (45 + i) 0 = o.z.getD i 0 := by
  obtain ⟨hl, -, -, hblock, htail⟩ := engineWords_stand s o ord
  refine ⟨by rw [hl, ht, length_fillTo], fun i hi => by rw [hblock i hi, hb]; rfl, fun i hi => ?_⟩
  rw [htail i, ht]
  simp [fillTo, hi]

/-- A matrix operation: its block of four words and its lane mask, and its registers (R59, R329). -/
theorem engineRecord_matrix (ht : engineTail s o = o.regs.flatten)
    (hb : blockWords o = fillTo 4 o.block ++ pairWords (laneMask fun l => if o.lanes.contains l then 1 else -1)) :
    let w := engineWords s o ord
    w.length = 45 + o.regs.flatten.length ∧ (∀ i, i < 4 → w.getD (14 + i) 0 = o.block.getD i 0) ∧
      pairAt w 18 (laneMask fun l => if l ∈ o.lanes then 1 else -1) ∧ ∀ i, w.getD (45 + i) 0 = o.regs.flatten.getD i 0 := by
  obtain ⟨hl, -, -, hblock, htail⟩ := engineWords_stand s o ord
  simp only [List.contains_iff_mem] at hb
  have hg := Segment.self (blockWords o)
  conv at hg => arg 3; rw [hb]
  rw [segment_append, length_fillTo] at hg
  obtain ⟨h4, hm⟩ := hg
  refine ⟨by rw [hl, ht], fun i hi => ?_, ⟨(hblock 4 (by omega)).trans hm.pairAt.1, (hblock 5 (by omega)).trans hm.pairAt.2⟩,
    fun i => by rw [htail i, ht]⟩
  have := h4.fillTo hi
  rw [Nat.zero_add] at this
  exact (hblock i (by omega)).trans this

/-- A cpf: its shape, and its value behind it (R329). -/
theorem engineRecord_fill {n : Nat} {pair : Bool} (hb : blockWords o =
      o.block.take (3 * n) ++ (if pair then pairWords o.va else [o.va]) ++ o.block.drop (3 * n))
    (hn : n ≤ 9) (hl : 3 * n ≤ o.block.length) :
    let w := engineWords s o ord
    (∀ i, i < 3 * n → w.getD (14 + i) 0 = o.block.getD i 0) ∧
      if pair then pairAt w (14 + 3 * n) o.va else w.getD (14 + 3 * n) 0 = o.va := by
  obtain ⟨-, -, -, hblock, -⟩ := engineWords_stand s o ord
  have hg := Segment.self (blockWords o)
  conv at hg => arg 3; rw [hb]
  rw [segment_append, segment_append, List.length_take_of_le hl, Nat.zero_add] at hg
  obtain ⟨⟨hs, hv⟩, -⟩ := hg
  refine ⟨fun i hi => ?_, ?_⟩
  · have := hs i (by rw [List.length_take_of_le hl]; exact hi)
    rw [Nat.zero_add, List.getElem?_take_of_lt hi] at this
    rw [hblock i (by omega), List.getD_eq_getElem?_getD, this, List.getD_eq_getElem?_getD]
  · cases pair with
    | true => exact ⟨(hblock _ (by omega)).trans hv.pairAt.1, (hblock (3 * n + 1) (by omega)).trans hv.pairAt.2⟩
    | false =>
      simp only [Bool.false_eq_true, if_false, segment_cons] at hv ⊢
      exact (hblock _ (by omega)).trans (getD_of_getElem? 0 hv.1)

end

theorem engineRecords : EngineRecords := by
  intro s o ord w at_ saved block
  obtain ⟨-, ⟨h0, h1, h2, h3, h4, h5, h9, h11, h12⟩, hva, -, -⟩ := engineWords_stand s o ord
  refine ⟨h0, h1, h2, h3, h4, h5, h9, h11, h12, ?_⟩
  cases hi : o.i with
  | cpt | cpm | cpg | mld | mst =>
    exact ⟨engineRecord_buffer ord (by cases hb : o.buffer <;> simp [engineTail, bufferTail, hi, hb]),
      engineRecord_block ord (by simp [blockWords, hi]), engineRecord_va ord (by simp [recordedVa, hi])⟩
  | xff | xfi =>
    exact ⟨engineRecord_va ord (by simp [recordedVa, hi]),
      engineRecord_transform ord (by simp [engineTail, hi]) (by simp [blockWords, hi])⟩
  | mma | mmc =>
    exact ⟨engineRecord_va ord (by simp [recordedVa, hi]),
      engineRecord_matrix ord (by simp [engineTail, hi]) (by simp [blockWords, hi])⟩
  | cpf g t a b c x =>
    have hv : recordedVa o = 0 := by simp [recordedVa, hi]
    refine ⟨engineRecord_buffer ord (by cases hb : o.buffer <;> simp [engineTail, bufferTail, hi, hb]), hv ▸ hva, fun hd hl => ?_⟩
    have hf := engineRecord_fill (s := s) ord (n := x.dims) (pair := isPair t) (by simp [blockWords, hi]) hd hl
    simp only [isPair, beq_iff_eq] at hf
    exact hf
  | _ =>
    exact ⟨by rw [show w.length = _ from (engineWords_stand s o ord).1]; simp [engineTail, hi],
      engineRecord_block ord (by simp [blockWords, hi]), engineRecord_va ord (by simp [recordedVa, hi])⟩

end Sys2Proof.Machine
end

section
/-!
PROOFS. The records of a halt in their order, and what is written of them (R324, R325).
-/
namespace Sys2Proof.Machine

/-! ### The records of a halt in their order (R324, R325) -/

theorem strandCause_eq (c : Context) (reason : Nat) (wv : Weave) (st : Strand) :
    (wv.failed = true → strandCause c reason wv st = stopWord 3 15 0 0 0 0) ∧
    (wv.failed = false → ∀ f, st.fault = some f → strandCause c reason wv st = stopWord 0 f.code f.pos f.lane f.cls f.reg) ∧
    (wv.failed = false → st.fault = none → (reason ≠ 0 → strandCause c reason wv st = stopWord 2 0 0 0 0 0) ∧
      ∀ f, c.fault = some f → reason = 0 → strandCause c reason wv st = stopWord 1 f.code 0 0 0 0) := by
  refine ⟨fun h => by simp [strandCause, h], fun h f hf => by simp [strandCause, h, hf, faultCause], fun h hf => ⟨fun hr => ?_, ?_⟩⟩
  · simp [strandCause, h, hf, hr]
  · intro f hc hr
    simp [strandCause, h, hf, hr, hc]

/-- The first of a list's pairs with a key is the only one, where no two have the same. -/
theorem find?_key {l : List (Nat × Nat)} (hn : (l.map Prod.fst).Nodup) {k v : Nat} (h : (k, v) ∈ l) :
    l.find? (fun y => y.1 == k) = some (k, v) := by
  induction l with
  | nil => cases h
  | cons y l ih =>
    rw [List.map_cons, List.nodup_cons] at hn
    rw [List.find?_cons]
    rcases List.mem_cons.mp h with rfl | hm
    · simp
    · have hne : y.1 ≠ k := fun he => hn.1 (he ▸ List.mem_map_of_mem (f := Prod.fst) hm)
      rw [beq_false_of_ne hne]
      exact ih hn.2 hm

/-- The ordinal of the record of the `n`-th weave: the summary's and those of the weaves before it come first (R324). -/
def firstOrd (hs : List Halted) (n : Nat) : Nat := 1 + ((hs.take n).map fun h => 1 + h.strands.length).sum

/-- A weave's ordinal, and its strands' after it. -/
theorem ordinals_get {hs : List Halted} {m n : Nat} {h : Halted} (hn : hs[n]? = some h) :
    (ordinals m hs)[n]? = some (m + ((hs.take n).map fun h => 1 + h.strands.length).sum,
      h.strands.zipIdx.map fun x => (x.1.1, m + ((hs.take n).map fun h => 1 + h.strands.length).sum + 1 + x.2)) := by
  induction hs generalizing m n with
  | nil => cases hn
  | cons g hs ih =>
    cases n with
    | zero => cases hn; rfl
    | succ n =>
      have := ih (m := m + 1 + g.strands.length) hn
      rw [ordinals, List.getElem?_cons_succ, this, List.take_succ_cons, List.map_cons, List.sum_cons]
      simp only [Nat.add_assoc]

theorem length_ordinals (m : Nat) (hs : List Halted) : (ordinals m hs).length = hs.length := by
  induction hs generalizing m with
  | nil => rfl
  | cons h hs ih => simp [ordinals, ih]

/-- The strands that have ordinals, in order. -/
theorem ordinals_keys (m : Nat) (hs : List Halted) :
    ((ordinals m hs).flatMap fun x => x.2).map Prod.fst = hs.flatMap fun h => h.strands.map Prod.fst := by
  induction hs generalizing m with
  | nil => rfl
  | cons h hs ih =>
    have hz : (h.strands.zipIdx.map fun x => (x.1.1, m + 1 + x.2)).map Prod.fst = h.strands.map Prod.fst := by
      rw [List.map_map]
      exact (List.map_map (l := h.strands.zipIdx) (f := Prod.fst) (g := Prod.fst)).symm.trans (by rw [List.zipIdx_map_fst])
    rw [ordinals, List.flatMap_cons, List.map_append, ih, List.flatMap_cons, hz]

/-- The ordinal of a strand's record. -/
def strandOrdinal (hs : List Halted) (k : Nat) : Nat :=
  ((((ordinals 1 hs).flatMap fun x => x.2).find? fun y => y.1 == k).map Prod.snd).getD 0

theorem strandOrdinal_eq {hs : List Halted} (hd : (hs.flatMap fun h => h.strands.map Prod.fst).Nodup) {n k : Nat} {h : Halted}
    {x : Nat × Strand} (hn : hs[n]? = some h) (hk : h.strands[k]? = some x) : strandOrdinal hs x.1 = firstOrd hs n + 1 + k := by
  have hm : (x.1, firstOrd hs n + 1 + k) ∈ (ordinals 1 hs).flatMap fun x => x.2 := by
    refine List.mem_flatMap.mpr ⟨_, List.mem_of_getElem? (ordinals_get (m := 1) hn), ?_⟩
    refine List.mem_map.mpr ⟨(x, k), ?_, rfl⟩
    exact List.mk_mem_zipIdx_iff_getElem?.mpr hk
  rw [strandOrdinal, find?_key (by rw [ordinals_keys]; exact hd) hm]
  rfl

/-- The records of the weaves and their strands. -/
def weaveRecordsOf (s : State) (c : Context) (reason : Nat) (hs : List Halted) : List (List Int) :=
  (hs.zip (ordinals 1 hs)).flatMap fun (h, n, _) =>
    weaveWords s h.weave :: h.strands.map fun x => strandWords s x.2 n (strandCause c reason h.weave x.2)

/-- The records of the engine operations. -/
def engineRecordsOf (s : State) (hs : List Halted) : List (List Int) :=
  (hs.flatMap fun h => h.ops).map fun x => engineWords s x.2 ((x.2.strand.map (strandOrdinal hs)).getD 0)

/-- Is the summary that of a pre-emption, with no fault of its own (R325)? -/
def preempted (c : Context) (reason : Nat) (hs : List Halted) : Bool := decide (reason ≠ 0) && !faultIn c hs

/-- The ordinal of the faulting record (R325). -/
def faultOrdinal (s : State) (c : Context) (reason : Nat) (hs : List Halted) : Nat :=
  if preempted c reason hs then 0 else
    match c.faultOp.bind fun o => (hs.flatMap fun h => h.ops).findIdx? fun x => x.1 == o with
    | some i => 1 + (weaveRecordsOf s c reason hs).length + i
    | none => (c.faultStrand.map (strandOrdinal hs)).getD 0

/-- The fault address of the summary (R325). -/
def summaryAddr (s : State) (c : Context) (reason : Nat) (hs : List Halted) : Int :=
  if preempted c reason hs then 0 else
    match (c.fault.getD { code := 0 }).addr with
    | some a => a
    | none => ((c.faultStrand.bind s.strands.get?).map (·.faultAddr)).getD 0

/-- Does a halt cover a partition: does it name it, or the whole die? -/
def coverBit (parts : List Nat) (p : Nat) : Int := if parts.contains p || parts.contains 2 then 1 else 0

/-- The words of the summary before they are filled (R325). -/
def summaryHead (s : State) (c : Context) (reason : Nat) (parts : List Nat) (hs : List Halted) (rest : List (List Int)) : List Int :=
  [headerWord 0 27, if preempted c reason hs then stopWord 2 0 0 0 0 0 else faultCause (c.fault.getD { code := 0 }),
    (faultOrdinal s c reason hs : Int), ((1 + rest.length : Nat) : Int), ((27 + (rest.map List.length).sum : Nat) : Int)] ++
  pairWords (summaryAddr s c reason hs) ++ [coverBit parts 0 + 3 * coverBit parts 1] ++
  pairWords (if preempted c reason hs then (s.cycle : Int) else c.faultCycle)

theorem imageRecords_eq (s : State) (c : Context) (reason : Nat) (parts : List Nat) (hs : List Halted) :
    imageRecords s c reason parts hs =
      fillTo 27 (summaryHead s c reason parts hs (weaveRecordsOf s c reason hs ++ engineRecordsOf s hs)) ::
        (weaveRecordsOf s c reason hs ++ engineRecordsOf s hs) := rfl

/-- The records of a weave: its own, and one for each of its strands. -/
def recordsOfWeave (s : State) (c : Context) (reason ord : Nat) (h : Halted) : List (List Int) :=
  weaveWords s h.weave :: h.strands.map fun x => strandWords s x.2 ord (strandCause c reason h.weave x.2)

theorem weaveRecordsOf_eq (s : State) (c : Context) (reason : Nat) (hs : List Halted) :
    weaveRecordsOf s c reason hs = (hs.zip (ordinals 1 hs)).flatMap fun y => recordsOfWeave s c reason y.2.1 y.1 := rfl

theorem length_recordsOfWeave (s : State) (c : Context) (reason ord : Nat) (h : Halted) :
    (recordsOfWeave s c reason ord h).length = 1 + h.strands.length := by
  simp [recordsOfWeave, Nat.add_comm]

theorem zip_ordinals_lengths (s : State) (c : Context) (reason : Nat) (hs : List Halted) :
    ((hs.zip (ordinals 1 hs)).map fun y => (recordsOfWeave s c reason y.2.1 y.1).length) = hs.map fun h => 1 + h.strands.length := by
  have hf : (hs.zip (ordinals 1 hs)).map Prod.fst = hs := List.map_fst_zip (Nat.le_of_eq (length_ordinals 1 hs).symm)
  conv => rhs; rw [← hf, List.map_map]
  exact List.map_congr_left fun y _ => length_recordsOfWeave s c reason _ _

theorem length_weaveRecordsOf (s : State) (c : Context) (reason : Nat) (hs : List Halted) :
    1 + (weaveRecordsOf s c reason hs).length = firstOrd hs hs.length := by
  rw [weaveRecordsOf_eq, List.length_flatMap, zip_ordinals_lengths, firstOrd, List.take_length]

/-- A weave's records stand from its ordinal on. -/
theorem weaveRecordsOf_place {s : State} {c : Context} {reason : Nat} {hs : List Halted} {w : List (List Int)}
    (hw : Segment w 1 (weaveRecordsOf s c reason hs)) {n : Nat} {h : Halted} (hn : hs[n]? = some h) :
    Segment w (firstOrd hs n) (recordsOfWeave s c reason (firstOrd hs n) h) := by
  have hz : (hs.zip (ordinals 1 hs))[n]? = some (h, _) := List.getElem?_zip_eq_some.mpr ⟨hn, ordinals_get hn⟩
  rw [weaveRecordsOf_eq] at hw
  have := hw.flatMap hz
  rwa [List.map_take, zip_ordinals_lengths, ← List.map_take] at this

theorem length_engineRecordsOf (s : State) (hs : List Halted) :
    (engineRecordsOf s hs).length = (hs.flatMap fun h => h.ops).length := by simp [engineRecordsOf]

/-- The words of the summary, one by one (R325). -/
theorem summary_stands (s : State) (c : Context) (reason : Nat) (parts : List Nat) (hs : List Halted) (rest : List (List Int)) :
    let w := fillTo 27 (summaryHead s c reason parts hs rest)
    w.length = 27 ∧ w.getD 0 0 = headerWord 0 27 ∧
      w.getD 1 0 = (if preempted c reason hs then stopWord 2 0 0 0 0 0 else faultCause (c.fault.getD { code := 0 })) ∧
      w.getD 2 0 = faultOrdinal s c reason hs ∧ w.getD 3 0 = (1 + rest.length : Nat) ∧
      w.getD 4 0 = (27 + (rest.map List.length).sum : Nat) ∧ pairAt w 5 (summaryAddr s c reason hs) ∧
      w.getD 7 0 = coverBit parts 0 + 3 * coverBit parts 1 ∧
      pairAt w 8 (if preempted c reason hs then (s.cycle : Int) else c.faultCycle) ∧
      ∀ i, 10 ≤ i → i ≤ 26 → w.getD i 0 = 0 := by
  intro w
  have hl : (summaryHead s c reason parts hs rest).length = 10 := rfl
  have hs' : Segment w 0 (fillTo 27 (summaryHead s c reason parts hs rest)) := Segment.self w
  have hz : ∀ i, 10 ≤ i → i ≤ 26 → w.getD i 0 = 0 := fun i h1 h2 => by
    have := hs'.fillTo (i := i) (by omega)
    rw [Nat.zero_add] at this
    exact this.trans (getD_beyond (hl ▸ h1))
  have hg := hs'.of_fillTo (by omega)
  simp only [summaryHead, segment_append, segment_cons] at hg
  obtain ⟨⟨⟨⟨h0, h1, h2, h3, h4, -⟩, h5⟩, h7, -⟩, h8⟩ := hg
  exact ⟨length_fillTo _ _, getD_of_getElem? 0 h0, getD_of_getElem? 0 h1, getD_of_getElem? 0 h2, getD_of_getElem? 0 h3,
    getD_of_getElem? 0 h4, h5.pairAt, getD_of_getElem? 0 h7, h8.pairAt, hz⟩

/-- Records are written one after another while they fit and can be written. -/
theorem writeRecords_eq (s : State) (ctx : Nat) (ptr : Int) (room : Nat) (r : List Int) (rs : List (List Int)) :
    let t := touchPages s ctx ptr (3 * r.length)
    writeRecords s ctx ptr room [] = (s, true) ∧
    (room < r.length → writeRecords s ctx ptr room (r :: rs) = (s, false)) ∧
    (r.length ≤ room → ctxWrite t ctx ptr r = none → writeRecords s ctx ptr room (r :: rs) = (s, false)) ∧
    (∀ s1, r.length ≤ room → ctxWrite t ctx ptr r = some s1 →
      writeRecords s ctx ptr room (r :: rs) = writeRecords s1 ctx (ptr + 3 * (r.length : Int)) (room - r.length) rs) := by
  refine ⟨rfl, fun h => ?_, fun h hn => ?_, fun s1 h hw => ?_⟩
  · rw [writeRecords, if_pos h]
  · rw [writeRecords, if_neg (Nat.not_lt.mpr h), hn]
  · rw [writeRecords, if_neg (Nat.not_lt.mpr h), hw]

theorem imagesStand : ImagesStand := by
  refine ⟨strandCause_eq, fun s c reason parts hs hd => ?_, writeRecords_eq⟩
  intro rs first ops
  have hrs : Segment rs 0 rs := Segment.self rs
  conv at hrs => arg 3; rw [show rs = _ from imageRecords_eq s c reason parts hs]
  rw [segment_cons, segment_append] at hrs
  obtain ⟨hsum, hweaves, hengines⟩ := hrs
  have hlen : 1 + (weaveRecordsOf s c reason hs).length = first hs.length := length_weaveRecordsOf s c reason hs
  rw [show 0 + 1 + (weaveRecordsOf s c reason hs).length = first hs.length by omega] at hengines
  have hengine {j : Nat} {o : Nat × EngOp} (hj : ops[j]? = some o) :
      rs.getD (first hs.length + j) [] = engineWords s o.2 ((o.2.strand.map (strandOrdinal hs)).getD 0) := by
    refine getD_of_getElem? [] ((hengines j ?_).trans ?_)
    · rw [length_engineRecordsOf]; exact (List.getElem?_eq_some_iff.mp hj).1
    · simp only [engineRecordsOf, List.getElem?_map]
      rw [show (hs.flatMap fun h => h.ops)[j]? = some o from hj]
      rfl
  have hw0 : rs.getD 0 [] = _ := getD_of_getElem? [] hsum
  obtain ⟨hwl, w0, w1, w2, w3, w4, w5, w7, w8, w10⟩ := summary_stands s c reason parts hs
    (weaveRecordsOf s c reason hs ++ engineRecordsOf s hs)
  refine ⟨?_, fun n h hn => ⟨?_, fun k x hk => ⟨?_, fun j o hj ho => ?_⟩⟩, fun j o hj ho => ?_, ?_⟩
  · rw [show rs.length = _ from congrArg List.length (imageRecords_eq s c reason parts hs), List.length_cons, List.length_append,
      length_engineRecordsOf]
    change _ = first hs.length + (hs.flatMap fun h => h.ops).length
    omega
  · have hp := weaveRecordsOf_place hweaves hn
    rw [recordsOfWeave, segment_cons] at hp
    exact getD_of_getElem? [] hp.1
  · have hp := weaveRecordsOf_place hweaves hn
    rw [recordsOfWeave, segment_cons] at hp
    have hk' := (List.getElem?_eq_some_iff.mp hk).1
    refine getD_of_getElem? [] ((hp.2 k (by simpa using hk')).trans ?_)
    rw [List.getElem?_map, hk]
    rfl
  · rw [hengine hj, ho, Option.map_some, Option.getD_some, strandOrdinal_eq hd hn hk]
    rfl
  · rw [hengine hj, ho]
    rfl
  · intro w total
    have hlr : rs.length = 1 + (weaveRecordsOf s c reason hs ++ engineRecordsOf s hs).length := by
      rw [show rs = _ from imageRecords_eq s c reason parts hs, List.length_cons, Nat.add_comm]
    have htotal : total = 27 + ((weaveRecordsOf s c reason hs ++ engineRecordsOf s hs).map List.length).sum := by
      simp only [total]
      rw [show rs = _ from imageRecords_eq s c reason parts hs, List.map_cons, List.sum_cons, length_fillTo]
    refine ⟨by rw [show w = _ from hw0]; exact hwl, ?_⟩
    rw [show w = _ from hw0, hlr, htotal, w7]
    refine ⟨w0, w3, w4, ?_, w10, fun hr hf => ?_, fun f hr hf => ?_⟩
    · simp only [coverBit, Bool.or_eq_true, List.contains_iff_mem]
      split <;> split <;> rfl
    · have hp : preempted c reason hs = true := by simp [preempted, hr, hf]
      refine ⟨w1.trans (if_pos hp), w2.trans ?_, ?_⟩
      · rw [faultOrdinal, if_pos hp]; rfl
      · rw [summaryAddr, if_pos hp] at w5; exact w5
    · have hp : preempted c reason hs = false := by simp [preempted, hr]
      rw [hp] at w1 w8
      rw [hf] at w1
      have hord (hop : c.faultOp = none) : faultOrdinal s c reason hs = (c.faultStrand.map (strandOrdinal hs)).getD 0 := by
        simp [faultOrdinal, hp, hop]
      refine ⟨w1, w8, fun a ha => ?_, fun hop hst => ?_, fun hop n h k x hn hk hx => ?_⟩
      · have he : summaryAddr s c reason hs = a := by simp [summaryAddr, hp, hf, ha]
        exact he ▸ w5
      · rw [w2, hord hop, hst]; rfl
      · rw [w2, hord hop, hx, Option.map_some, Option.getD_some, strandOrdinal_eq hd hn hk]
        rfl

end Sys2Proof.Machine
end

section
/-!
PROOFS. The statements of the scope: reset, and halts.
-/
namespace Sys2Proof.Machine

/-! ### The statements of this family -/

/-- Settles O7: the state after reset lists no cell of either memory and no object, and its eight dies are alike. -/
theorem resetState : Obligations.ResetState := by
  unfold Obligations.ResetState
  intro s
  have hmem : ∀ key, s.mem.get key = 0 := fun _ => rfl
  have hhost : ∀ a, hostByte s a = 0 := fun _ => rfl
  have hdie : ∀ d ∈ s.dies, d = { bar := { ready := true } } := fun d hd => List.eq_of_mem_replicate hd
  refine ⟨rfl, hmem, hhost, rfl, rfl, rfl, rfl, rfl, rfl, rfl, rfl, rfl, rfl, rfl, rfl, rfl, rfl, rfl, rfl, fun d hd => ?_, rfl⟩
  obtain rfl := hdie d hd
  exact ⟨rfl, ⟨rfl, fun p hp => congrArg Part.phase (List.eq_of_mem_replicate hp)⟩, rfl, rfl, rfl, rfl, rfl, rfl, rfl⟩

/-- Settles O49: each step of a halt by the lemma on it; the records by their segments; memory, the lost context and the
partition's shadow by what the steps on the way leave of a state's outline. -/
theorem haltsProceed : Obligations.HaltsProceed := by
  unfold Obligations.HaltsProceed
  refine ⟨fun s die part ctx n c o => ?_, threadBlocks, strandRecords, weaveRecords, engineRecords, imagesStand,
    fun s ctx parts c => fun h => endFaultHalt_ends h,
    fun s die part by_ c hd hp => fun h => ⟨_, endSwapHalt_shadow by_ hd hp h⟩⟩
  intro x ended
  refine ⟨fun reason clock hd hp => part_beginHalt reason clock hd hp, fun d h hd => exec_drainDeadlineExpiry h hd,
    fun t b parts h hparts he => ?_, fun t b h he => exec_skidBoundExpiry_swap h he, fun he => exec_skidBoundExpiry_spill he,
    fun t b h ht hb => exec_swapOutComplete h ht hb, fun t b r h hr hb => exec_swapDeadlineExpiry_halt h hr hb,
    fun t b h ht hb => exec_swapDeadlineExpiry_imaging h ht hb, fun h ha hp hi => ?_,
    fun h ha hw ⟨t, ht, hp⟩ => exec_contextWatchdog h ha hw ht hp,
    fun h hu hc hr hp ha hl ht => exec_operationWatchdog h (opStalls_of hu hc hr hp ha) hl ht⟩
  · have hx : parts = faultHalts s die x.ctx := hparts
    subst hx
    exact exec_skidBoundExpiry_fault h he
  · have hx := exec_resume h ha hp hi
    refine ⟨fun hr => ?_, fun hr hn => ?_, fun s1 hr hs => ?_⟩
    · rw [hx, if_pos hr]
    · rw [hx, if_neg (by simp [hr]), hn]
    · rw [hx, if_neg (by simp [hr]), hs]

end Sys2Proof.Machine
end
